-- ==== Sys2Proof/Word.lean ====
section
/-!
DEFINITION. The word types of the ZP7410 and the plain records that commands carry: flits, packets, Spagil headers
and the parameter blocks of the long commands. Field names are the spec's.
-/

namespace Sys2Proof

/-- One byte. -/
abbrev Byte := BitVec 8

/-- A sparse table: the listed keys with their values; every other key holds the table's default. All register
files, memories and object tables of the model are such lists, in one canonical form (keys rising, no default
value listed), so that equal contents are equal data. -/
abbrev Tab (α : Type) := List (Nat × α)

/-- A payload slot of a flit: 16 bytes (R66). -/
abbrev Slot := List Byte

/-- The sync slot of a flit, bytes 0-15 (R66, R197). -/
structure SyncSlot where
  syncId : BitVec 12 := 0
  op : BitVec 4 := 0
  step : BitVec 8 := 0
  flags : BitVec 8 := 0
  loc : BitVec 32 := 0
  payload : BitVec 64 := 0
  deriving DecidableEq, Repr

/-- A flit (R66); its parity symbols are a function of the rest (R71). -/
structure Flit where
  sync : SyncSlot := {}
  seq : BitVec 12 := 0
  ack : BitVec 12 := 0
  ftype : BitVec 4 := 0
  pvc : BitVec 4 := 0
  credits : Tab Nat := []
  slots : List Slot := []
  timeTx : BitVec 64 := BitVec.allOnes 64
  /-- the CRC of bytes 624-631 (R70) -/
  crc : BitVec 64 := 0
  deriving DecidableEq, Repr

/-- The link on which a flit came, and the symbols that its decoder corrected in it, by lane (R71, R91). -/
structure Landing where
  link : Fin 256
  corrected : Tab Nat := []
  deriving DecidableEq, Repr

/-- The content of a TRAINING flit (R88). -/
structure Training where
  tphase : BitVec 8
  rates : BitVec 8
  widths : BitVec 8
  mode : BitVec 8
  replay : BitVec 16
  serial : BitVec 64
  creditInit : List (BitVec 16)
  deriving DecidableEq, Repr

/-- A packet: the header of R82 with its type-specific bytes 16-31, and its payload; LEN is the payload's length. -/
structure Packet where
  ty : BitVec 8
  tc : BitVec 3
  esc : Bool := false
  epoch : Bool := false
  cm : Bool := false
  devt : Bool := false
  dst : BitVec 26
  src : BitVec 26
  dcseq : BitVec 32 := 0
  tspec : List Byte := []
  payload : List Byte := []
  deriving DecidableEq, Repr

/-- The payload of a DISCOVERY packet (R103). -/
structure DiscMsg where
  msg : BitVec 8
  hops : Nat := 0
  dim : BitVec 8 := 0
  member : BitVec 8 := 0
  serial : BitVec 64 := 0
  fna : BitVec 18 := 0
  fnaValid : Bool := false
  grade : BitVec 8 := 0
  twisted : Bool := false
  marked : Bool := false
  rootMarked : Bool := false
  ndim : BitVec 8 := 0
  rootSerial : BitVec 64 := 0
  rootHops : Nat := 0
  subject : BitVec 26 := 0
  subjectId : BitVec 64 := 0
  value : BitVec 32 := 0
  deriving DecidableEq, Repr

/-- A DISCOVERY message and the port on which it came (R104). -/
structure PortDisc where
  port : Fin 64
  msg : DiscMsg
  deriving DecidableEq, Repr

/-- A read access of BAR0: its offset, and that it is one of 8 bytes and not of 4 (R329). -/
structure RegRead where
  off : BitVec 26
  eight : Bool := false
  deriving DecidableEq, Repr

/-- A TIME packet: its type-specific fields and payload (R391). -/
structure TimeMsg where
  msg : BitVec 8
  quality : BitVec 2
  rootQuality : BitVec 2
  depth : BitVec 8
  rootFna : BitVec 18
  errPs : BitVec 32
  tA : BitVec 64
  tB : BitVec 64
  deriving DecidableEq, Repr

/-- A Spagil header as command service sees it (R305), with where it came from: `src` is the ring number 0-3, or 4
plus the in-band SRC address; `port` is the arrival port of an in-band command. `rsv` says that some reserved or
reply-only field is not 0. -/
structure SpHdr where
  src : Nat
  port : Fin 64 := 0
  version : BitVec 8 := 1
  drain : Bool := false
  stage : Bool := false
  indirect : Bool := false
  ordered : Bool := false
  devsrc : Bool := false
  kind : BitVec 2 := 0
  opcode : BitVec 16
  tag : BitVec 32 := 0
  plen : BitVec 32
  auth : BitVec 8
  layerId : BitVec 16 := 0
  operatorId : BitVec 16 := 0
  time : BitVec 64 := 0
  target : BitVec 32 := 0
  rsv : Bool := false
  deriving DecidableEq, Repr

/-- A reply or event of command service (R305, R306): parameters are (width in bits, value), laid out by R307. -/
structure SpMsg where
  event : Bool := false
  opcode : BitVec 16
  tag : BitVec 32
  auth : BitVec 8 := 0
  layerId : BitVec 16 := 0
  operatorId : BitVec 16 := 0
  status : BitVec 16 := 0
  time : Nat := 0
  fna : Option Nat := none
  retryAfter : Nat := 0
  gid : Nat := 0xFFFF
  phase : Nat := 0
  phases : Nat := 0
  detail : Nat := 0
  params : List (Nat × Nat) := []
  deriving DecidableEq, Repr

/-- A command-ring entry as the device reads it (R312, R313): whether the read of the entry, and of the indirect
parameters, succeeded, and the indirect reply buffer. -/
structure CrEntry where
  readOk : Bool
  paramOk : Bool
  hdr : SpHdr
  /-- a reserved byte of the entry is not 0 -/
  rsv : Bool := false
  paramAddr : BitVec 64 := 0
  replyAddr : BitVec 64 := 0
  replyMax : BitVec 32 := 0
  deriving DecidableEq, Repr

/-- LINK_CONFIG, expert form (R317). -/
structure LinkCfgX where
  lane : BitVec 8
  eqMode : BitVec 8
  taps : BitVec 64
  fomMin : BitVec 16
  ret : Bool
  deriving DecidableEq, Repr

/-- FAB_DISCOVER, expert form: the map lists (DIM, MEMBER) for ports 0-63 (R317). -/
structure DiscoverX where
  ndim : BitVec 8
  twisted : Bool
  marked : Bool
  rootFna : BitVec 32
  map : List (BitVec 8 × BitVec 8)
  deriving DecidableEq, Repr

/-- FAB_ROUTE, expert form: KIND and the fields of each kind (R317). -/
structure RouteX where
  kind : BitVec 8
  mask : BitVec 18 := 0
  value : BitVec 18 := 0
  dstFna : BitVec 18 := 0
  cls : BitVec 8 := 0
  hops : BitVec 8 := 0
  seq : List (BitVec 8) := []
  dst : BitVec 26 := 0
  toFna : BitVec 18 := 0
  first : BitVec 32 := 0
  entries : List (BitVec 32) := []
  deriving DecidableEq, Repr

/-- FAB_ENDPOINT (R317). -/
structure EndpointP where
  identity : BitVec 64
  port : BitVec 8
  port2 : BitVec 8
  fna2 : BitVec 32
  echo : BitVec 8
  portAuth : BitVec 8
  deriving DecidableEq, Repr

/-- The CEL_ACCESS fields without ACTION (R273). -/
structure WindowP where
  window : BitVec 16
  base : BitVec 32
  size : BitVec 32
  perm : BitVec 2
  srcValue : BitVec 26
  srcMask : BitVec 26
  pcie : Bool
  fence : Bool
  claim : BitVec 32
  deriving DecidableEq, Repr

/-- QOS_PROFILE (R317). -/
structure QosProfileP where
  profile : BitVec 8
  ageing : BitVec 16
  lees : BitVec 32
  proportion : List (BitVec 8)
  account : List (BitVec 16 × BitVec 16)
  aiShift : BitVec 8
  deriving DecidableEq, Repr

/-- QOS_QUEUE (R317). -/
structure QosQueueP where
  link : BitVec 8
  cls : BitVec 8
  weight : BitVec 16
  ovh : BitVec 8
  markDepth : BitVec 16
  deriving DecidableEq, Repr

/-- QOS_SHAPER and QOS_POLICER; `enable` is the policer's (R317). -/
structure BucketP where
  link : BitVec 8
  cls : BitVec 8
  enable : Bool := true
  rate : BitVec 21
  burst : BitVec 13
  resetTo : Bool
  deriving DecidableEq, Repr

/-- QOS_GATES: entries are (GATE_MASK, DURATION in 10 ns) (R317, R154). -/
structure GatesP where
  link : BitVec 8
  guardBand : Bool
  guarantee : Bool
  claim : List (BitVec 32)
  entries : List (BitVec 8 × BitVec 24)
  deriving DecidableEq, Repr

/-- One fusion segment (R189, R318). -/
structure SegP where
  op : BitVec 8
  format : BitVec 8
  acc : Bool
  count : BitVec 32
  deriving DecidableEq, Repr

/-- The COLL_OPEN parameter block (R163, R318). Under the basic opcode the expert fields are ignored. -/
structure CollP where
  ckey : BitVec 32
  devMask : BitVec 18
  devValue : BitVec 18
  slots : BitVec 256
  presses : BitVec 64
  receive : BitVec 8
  root : BitVec 32
  op : BitVec 8
  format : BitVec 8
  count : BitVec 32
  pourBytes : BitVec 16
  tc : BitVec 8
  acc : BitVec 8
  algo : BitVec 8
  window : BitVec 8
  deadline : BitVec 32
  pin : BitVec 8
  quantum : BitVec 16
  replay : BitVec 8
  segments : BitVec 8
  anchor : BitVec 16
  seed : BitVec 128
  stepBase : BitVec 64
  tinv : BitVec 32
  group : BitVec 16
  tapPresses : BitVec 64
  tapBase : BitVec 32
  tapSlots : BitVec 8
  fill : BitVec 8
  free : BitVec 8
  tapMode : BitVec 8
  seg : List SegP
  /-- the settlement identifier that the lead passes with an open it forwards (R163, log 13) -/
  settle : Option (BitVec 16) := none
  deriving DecidableEq, Repr

/-- SYNC_OPEN (R317). -/
structure SyncOpenP where
  syncId : BitVec 16
  syncOp : BitVec 8
  devMask : BitVec 18
  devValue : BitVec 18
  slots : BitVec 256
  presses : BitVec 64
  deadline : BitVec 32
  deriving DecidableEq, Repr

/-- PRESS_LOAD (R317, R226); `image` is the bundle image's cellar address. -/
structure PressLoadP where
  presses : BitVec 64
  context : BitVec 8
  bundle : BitVec 32
  range : List (BitVec 32)
  spareBase : BitVec 32
  spareSize : BitVec 32
  deriving DecidableEq, Repr

/-- PRESS_LAUNCH; the basic form uses the first three fields (R317). -/
structure PressLaunchP where
  presses : BitVec 64
  context : BitVec 8
  args : List Byte
  bound : BitVec 32 := 0
  beats : BitVec 64 := 0
  staveClaim : BitVec 32 := 0
  remoteClaim : BitVec 32 := 0
  quantum : BitVec 32 := 0
  padBase : BitVec 32 := 0
  imemBase : BitVec 32 := 0
  dmemBase : BitVec 32 := 0
  lsFirst : BitVec 8 := 0
  gsFirst : BitVec 16 := 0xFFFF
  deriving DecidableEq, Repr

/-- One contribution as a vat receives it: the CONTRIB fields of R169 and its data. `chan` names the delivery
channel and DCSEQ that carried it, none for a press's RE1. -/
structure ContribP where
  ckey : BitVec 32
  pour : BitVec 16
  contributor : BitVec 9
  seg : BitVec 4
  phase : BitVec 3
  step : BitVec 8
  empty : Bool
  replay : Bool
  ieee : BitVec 5
  elems : BitVec 16
  round : BitVec 16
  gen : BitVec 8
  saturated : Bool
  poison : Bool
  data : List Byte
  chan : Option (Nat × Nat)
  missing : Bool := false
  deriving DecidableEq, Repr

/-- A domain's measured values, given by JUNCTION_SAMPLE and VOLTAGE_LOOP_TICK: they come from the sensors. -/
structure LoopSample where
  domain : Fin 80
  utilisationPct : Nat
  deriving DecidableEq, Repr

end Sys2Proof
end

