-- ==== Sys2Proof/Syntax.lean ====
section
/-!
DEFINITION. The commands: one constructor for each row of spec/opcode_table.json, in the table's order. The table
gives no bits; the operands are what the row's rule says the command carries (log 1). A Spagil command carries its
header and its parameters; an event carries the unit it happens at and what arrives or is measured there. The rows
of a press's instructions name only the press (and the engine): the instruction is the one that stands in the
press's own memory or queue.
-/

namespace Sys2Proof

/-- The commands of the block. -/
inductive Instr where
  -- Spagil commands (R317)
  | devIdentify (h : SpHdr)
  | devNegotiate (h : SpHdr) (hostVersion : BitVec 8) (hostFeatures : BitVec 256)
  | devReset (h : SpHdr) (scope : BitVec 8) (unit : BitVec 8)
  | devResetControlComplex (h : SpHdr) (unit : BitVec 8)
  | devResetUnit (h : SpHdr) (unit : BitVec 8)
  | devProfile (h : SpHdr) (profile : BitVec 8)
  | linkConfig (h : SpHdr) (port split rate : BitVec 8)
  | linkConfigExpert (h : SpHdr) (p : LinkCfgX)
  | linkStatus (h : SpHdr) (port : BitVec 8)
  | linkEyescanStart (h : SpHdr) (lane d : BitVec 8)
  | linkEyescanRead (h : SpHdr) (lane mode : BitVec 8) (first count : BitVec 16)
  | linkIdle (h : SpHdr) (port : BitVec 8) (enable : Bool) (delay : BitVec 16)
  | fabDiscover (h : SpHdr) (bundle : BitVec 8)
  | fabDiscoverExpert (h : SpHdr) (p : DiscoverX)
  | fabRoute (h : SpHdr) (clear : BitVec 8)
  | fabRouteExpert (h : SpHdr) (p : RouteX)
  | fabEpochStage (h : SpHdr) (devMask devValue : BitVec 18)
  | fabEpochCommit (h : SpHdr) (devMask devValue : BitVec 18) (fence : Bool)
  | fabEndpoint (h : SpHdr) (p : EndpointP)
  | fabWindow (h : SpHdr) (devMask devValue : BitVec 18) (action : BitVec 2) (p : WindowP)
  | qosProfile (h : SpHdr) (p : QosProfileP)
  | qosQueue (h : SpHdr) (p : QosQueueP)
  | qosShaper (h : SpHdr) (p : BucketP)
  | qosPolicer (h : SpHdr) (p : BucketP)
  | qosGates (h : SpHdr) (p : GatesP)
  | collOpen (h : SpHdr) (p : CollP)
  | collOpenExpert (h : SpHdr) (p : CollP)
  | collClose (h : SpHdr) (ckey : BitVec 32)
  | collQuery (h : SpHdr) (ckey first : BitVec 32) (count : BitVec 16)
  | syncOpen (h : SpHdr) (p : SyncOpenP)
  | syncUnbind (h : SpHdr) (p : SyncOpenP)
  | pressLoad (h : SpHdr) (p : PressLoadP)
  | pressLaunch (h : SpHdr) (p : PressLaunchP)
  | pressLaunchExpert (h : SpHdr) (p : PressLaunchP)
  | pressLayoutRecord (h : SpHdr) (p : PressLaunchP)
  | pressStopGraceful (h : SpHdr) (presses : BitVec 64) (context mode : BitVec 8)
  | pressStopImmediate (h : SpHdr) (presses : BitVec 64) (context : BitVec 8)
  | pressQuery (h : SpHdr) (press context : BitVec 8)
  | celPlan (h : SpHdr)
  | celPlanExpert (h : SpHdr) (tables retention decant extension : BitVec 16)
  | celAccessCreate (h : SpHdr) (p : WindowP)
  | celAccessChange (h : SpHdr) (p : WindowP)
  | celAccessRevoke (h : SpHdr) (p : WindowP)
  | celAccessFence (h : SpHdr) (p : WindowP)
  | celArb (h : SpHdr) (stave requester level quota : BitVec 8) (preempt : Bool)
  | pwrProfile (h : SpHdr) (profile : BitVec 8)
  | pwrProfileExpert (h : SpHdr) (domain dstate : BitVec 8) (floor : BitVec 16)
  | pwrCap (h : SpHdr) (cap : BitVec 32)
  | timeSetStep (h : SpHdr) (mode : BitVec 8) (time : BitVec 80)
  | timeSetSlew (h : SpHdr) (time : BitVec 80)
  | timeAlarmSet (h : SpHdr) (alarm : BitVec 64) (action : BitVec 8)
  | timeAlarmCancel (h : SpHdr) (alarm : BitVec 64)
  | harvestCfg (h : SpHdr) (interval : BitVec 32)
  | harvestCfgExpert (h : SpHdr) (interval : BitVec 32) (select : BitVec 256) (vector : BitVec 8)
  | faultCfg (h : SpHdr) (first count : BitVec 16) (severity : List (BitVec 8))
  | faultInjectLevel0 (h : SpHdr) (level : BitVec 8) (source count : BitVec 16)
  | faultInjectLevel1 (h : SpHdr) (group count : BitVec 16)
  | faultQuery (h : SpHdr) (first count : BitVec 16)
  | fwBlock (h : SpHdr) (offset length : BitVec 32) (data : List Byte)
  | fwVerify (h : SpHdr)
  | fwActivate (h : SpHdr)
  | lcTransition (h : SpHdr) (target : BitVec 8)
  | gradePin (h : SpHdr) (grade : BitVec 8)
  | bookRead (h : SpHdr) (first : BitVec 64) (count : BitVec 16)
  | admitCheckDryRun (h : SpHdr) (proposal : Instr)
  | admitCheckReadmit (h : SpHdr) (gid : BitVec 16)
  | admitCheckReport (h : SpHdr) (mode : BitVec 8) (gid : BitVec 16)
  -- rings and command service (R311-R322, R336)
  | crTailWrite (r : Fin 4) (v : BitVec 32)
  | rrHeadWrite (r : Fin 4) (v : BitVec 32)
  | ringReset (r : Fin 4) (v : BitVec 32)
  | crEntryTake (r : Fin 4) (e : CrEntry)
  | spagilInbandReceive (h : SpHdr)
  | rrEventFlush (r : Fin 4)
  | phaseEnd (status : BitVec 16)
  | stagedApply
  -- BAR0, BAR2 (R329-R344)
  | faultStickyClear (word : Fin 64) (v : BitVec 32)
  | faultForceWrite (word : Fin 64) (v : BitVec 32)
  | faultSevWrite (reg : Fin 512) (v : BitVec 32)
  | faultInjectGo (v : BitVec 32)
  | watermarkArm (n : Fin 2121) (v : BitVec 32)
  | comparatorRearm (v : BitVec 32)
  | traceCtlWrite (v : BitVec 32)
  | reg64LowRead (a : RegRead)
  | registerWrite (off : BitVec 26) (eight : Bool) (v : BitVec 64)
  | bar0UnsupportedAccess (off : BitVec 26) (size : Nat) (write : Bool)
  | bar2Read (addr : BitVec 32) (len : Nat)
  | bar2Write (addr : BitVec 32) (data : List Byte)
  -- SMBus target (R436)
  | smbIdentity
  | smbFaultSummary
  | smbStatus
  | smbTjMax
  | smbInlet
  | smbPower
  | smbCool
  | smbIndexWrite (v : BitVec 8) (pecOk : Bool)
  | smbIndexRead
  | smbFaultWord
  | smbVintage
  -- links and lanes (R62-R95)
  | sequencedFlitReceive (link : Fin 256) (f : Flit) (corrected : Tab Nat)
  | badFlitReceive (x : Landing)
  | nullFlitReceive (x : Landing) (f : Flit)
  | retryReqReceive (x : Landing) (f : Flit)
  | rateMatchReceive (x : Landing) (early : Bool)
  | idleEntryReceive (x : Landing) (f : Flit)
  | trainingFlitReceive (x : Landing) (t : Training)
  | flitSend (link : Fin 256)
  | rateMatchSend (link : Fin 256)
  | retryTimerExpiry (link : Fin 256)
  | ackStallReplay (link : Fin 256)
  | laneDetect (link : Fin 256) (present : BitVec 4)
  | bringupTimeout (link : Fin 256)
  | lossOfSignal (lane : Fin 256)
  | fomSample (lane : Fin 256) (height : Nat) (corrected received : Nat)
  | eyescanDone (lane : Fin 256) (counts : List Nat)
  | idleDelayExpiry (link : Fin 256)
  | idleWake (link : Fin 256)
  -- switch core (R132-R160)
  | packetHeaderArrive (link : Fin 256) (vc : Fin 16)
  | admissionRetry (link : Fin 256) (vc : Fin 16)
  | packetChannelGrant (cask : Nat)
  | escapeWaitExpiry (cask : Nat)
  | egressSelect (link : Fin 256)
  | ageingHeadSweep (link : Fin 256) (cls : Fin 8)
  | leesDiscard (cask : Nat)
  | leakAudit
  | pbScrub (cask : Nat) (error : Fin 3)
  | endpointQueueDiscard (link : Fin 256) (cls : Fin 8)
  | gateTransition (link : Fin 256)
  | gateListTakeover (link : Fin 256)
  -- delivery channels and congestion (R114-R129)
  | rateLimiterTick (lim : BitVec 16)
  | edgeAckReceive (egress : BitVec 18) (ackSeq : BitVec 32) (count : Fin 65) (marks : BitVec 64)
  | edgeAckTimer (ingress : BitVec 18)
  | edgeNackGapReceive (egress : BitVec 18) (nseq : BitVec 32)
  | edgeNackSeqRangeReceive (egress : BitVec 18) (expected : BitVec 32)
  | edgeNackBaseReceive (ingress : BitVec 18) (expected : BitVec 32)
  | edgeNackUnresponsiveReceive (egress : BitVec 18) (nseq : BitVec 32)
  | gapTimer (ingress : BitVec 18)
  | rtoExpiry (egress : BitVec 18)
  | unresponsiveProbe (endpoint : BitVec 26)
  | mirrorConfirm (peer : BitVec 18) (dcseq : BitVec 32) (copy : Option Packet)
  -- discovery and fabric (R100-R113, R124-R126)
  | helloTimer
  | helloReceive (port : Fin 64) (m : DiscMsg)
  | helloTimeout (dim : Fin 18)
  | bundleDown (dim : Fin 18)
  | initTimeout
  | electQuiet
  | assignTimeout
  | rootReceive (port : Fin 64) (m : DiscMsg)
  | coordReceive (port : Fin 64) (m : DiscMsg)
  | holeReceive (port : Fin 64) (m : DiscMsg)
  | tableRecomputeDone
  | announceReceive (link : Fin 256) (m : DiscMsg)
  | redirectReceive (port : Fin 64) (m : DiscMsg)
  | takeoverReceive (m : PortDisc)
  | epochCommitTime
  | epochBankFree
  -- vats (R162-R195)
  | contribReceive (c : ContribP)
  | pendingContribRetry (ckey : BitVec 32)
  | pendingContribAgeing (ckey : BitVec 32)
  | pourCombineDone (ckey : BitVec 32) (round pour : BitVec 16)
  | vatSchedule
  | decantDone (vat : Fin 64)
  | refillDone (vat : Fin 64)
  | tapWrite (ckey : BitVec 32) (press : Fin 64)
  | tapStallTimer (ckey : BitVec 32) (press : Fin 64)
  | roundSettle (ckey : BitVec 32) (round : BitVec 16) (tReady : BitVec 64)
  | vatScrub (vat : Fin 64) (uncorrectable : Bool)
  -- sync engine (R196-R201): the sender is a link (0-255) or press 256 + n
  | syncSlotReceive (sender : Fin 320) (slot : SyncSlot)
  -- control processor of a press (R252-R257)
  | alu (p : Fin 64)
  | addi (p : Fin 64)
  | andi (p : Fin 64)
  | ori (p : Fin 64)
  | xori (p : Fin 64)
  | shi (p : Fin 64)
  | li (p : Fin 64)
  | lui (p : Fin 64)
  | slti (p : Fin 64)
  | ld (p : Fin 64)
  | lw (p : Fin 64)
  | lh (p : Fin 64)
  | lb (p : Fin 64)
  | sd (p : Fin 64)
  | sw (p : Fin 64)
  | sh (p : Fin 64)
  | sb (p : Fin 64)
  | beq (p : Fin 64)
  | bne (p : Fin 64)
  | blt (p : Fin 64)
  | bge (p : Fin 64)
  | bltu (p : Fin 64)
  | bgeu (p : Fin 64)
  | jal (p : Fin 64)
  | jalr (p : Fin 64)
  | qpush (p : Fin 64)
  | qpushEnter (p : Fin 64)
  | synciq (p : Fin 64)
  | fenceif (p : Fin 64)
  | semwait (p : Fin 64)
  | semsig (p : Fin 64)
  | semread (p : Fin 64)
  | semWaitRelease (p : Fin 64) (who : Fin 5)
  | syncc (p : Fin 64)
  | syncResultWrite (p : Fin 64) (syncId : BitVec 12)
  | estat (p : Fin 64)
  | eclr (p : Fin 64)
  | ewait (p : Fin 64)
  | ewaitRelease (p : Fin 64)
  | time (p : Fin 64)
  | halt (p : Fin 64)
  -- engine streams of a press (R232-R251); engine 0 TE, 1 VE, 2 RE0, 3 RE1
  | streamFetch (p : Fin 64) (e : Fin 4)
  | nop (p : Fin 64) (e : Fin 4)
  | areg (p : Fin 64) (e : Fin 4)
  | endStream (p : Fin 64) (e : Fin 4)
  | tmm (p : Fin 64)
  | vbin (p : Fin 64)
  | vun (p : Fin 64)
  | vfma (p : Fin 64)
  | vcvt (p : Fin 64)
  | vred (p : Fin 64)
  | vscale (p : Fin 64)
  | vlut (p : Fin 64)
  | vtopk (p : Fin 64)
  | vrng (p : Fin 64)
  | rcopy (p : Fin 64) (e : Fin 4)
  | rfill (p : Fin 64) (e : Fin 4)
  | rpour (p : Fin 64)
  | rpourAccept (p : Fin 64)
  | contribStallTimer (p : Fin 64)
  | macroComplete (p : Fin 64) (e : Fin 4)
  | overrunTimer (p : Fin 64) (e : Fin 4)
  | contextQuantumExpiry (p : Fin 64)
  | contextSwitch (p : Fin 64)
  -- cellar (R262-R282)
  | arbiterRound (stave : Fin 64)
  | drawComplete (stave : Fin 64)
  | preemptRevoke (stave : Fin 64)
  | staveWatchdog (stave : Fin 64)
  | scrubDraw (stave : Fin 64)
  | scrubPassTimeout (stave : Fin 64)
  | windowFenceDrained (window : BitVec 16)
  -- launches, admission, maintenance
  | inDigestDone (p : Fin 64) (context : Fin 8)
  | outDigestDone (p : Fin 64) (context : Fin 8)
  | admissionRerun
  | unitReset (source : BitVec 11) (unit : Nat) (testOk : Bool)
  | forceTimerExpiry (source : BitVec 11)
  | injectDone (group : BitVec 7)
  | coreWatchdogExpiry (core : Fin 6)
  | tableCrcSweep (table block : Nat) (mismatch : Bool)
  | canarySample (d : Fin 80) (readings : List Nat)
  | stressAccrue (d : Fin 80) (tjMilli : Int) (mv : Nat)
  | sensorCalibration (failed : Bool)
  | vintagePlan (cause : BitVec 8) (predicted slope leak dyn : Tab Nat)
  | vintageAdopt (confirmed writeOk : Bool)
  | dropoutSet (d : Fin 80)
  | dropoutPersist (d : Fin 80) (assured : Nat)
  | dropoutClear (d : Fin 80)
  | voltageLoopTick (sample : List LoopSample)
  | railRampStep (rail : Fin 3) (acked : Bool) (mode : BitVec 8)
  | pmbusStatusPoll (rail : Fin 3) (result : Fin 3) (status : BitVec 16)
  | powerSample (mw : Nat)
  | junctionSample (d : Fin 80) (tj : Int)
  -- D0: comparators, wake, fabric time (R385-R395, R432)
  | comparatorChange (c : Fin 4) (mv : Nat)
  | comparatorPowerOn (mv : List Nat)
  | inputChatter (n : Fin 5)
  | inputStuckTimeout (n : Fin 5)
  | wake (board : List Byte) (activeOk stagingOk burnOk : Bool)
  | alarmFire
  | rackClkLoss
  | rackPpsPulse (offsetNs : Int)
  | timeExchangeTimer
  | timeExchangeReceive (port : Fin 64) (m : TimeMsg) (t1 t2 : BitVec 64)
  | timeStepReceive (port : Fin 64) (m : TimeMsg)
  | coolDemandWatchdog
  -- resets, boot, firmware (R332, R345, R402-R421)
  | sysReset
  | perst
  | functionLevelReset
  | boot (board : List Byte) (activeOk stagingOk burnOk : Bool)
  | imageCopyDone
  | protectionViolation (core : Fin 6) (component : Nat)
  | harvestInterval
  | reconcile (unit : Nat) (physicalUp : Bool)
  | rackClkReturn
  | rackClkEdge
  | heartbeatTick
  | domainTransitionDone (d : Fin 80)
  | profileDomainsOff
  | jtagKeyHashWrite (hash : List Byte)
  | wakeBurstReceive (link : Fin 256)
  | spagilReplyReceive (m : SpMsg)
  deriving DecidableEq, Repr

end Sys2Proof
end

