-- ==== Sys2Proof/Config.lean ====
section
/-!
DEFINITION. Values the spec leaves open: constants without a body, so that nothing can be proved of them. A use of
one names the counter `free` of the state, which every use advances (log 7).
-/

namespace Sys2Proof

/-- A byte whose value the spec leaves open (R230, R249, R260). -/
opaque Config.freeByte : Nat → Byte

/-- A choice the spec leaves to firmware or to an implementation, as a number (R163, R220, R182). -/
opaque Config.freeNat : Nat → Nat

/-- The result of an operation for an operand value for which the spec states no result. -/
opaque Config.freeResult : Nat → Nat → Nat

/-- Check symbol `i` of a cellar codeword with given content: the spec names neither the field's polynomial nor the code's
generator (R264). -/
opaque Config.checkSymbol : Nat → List (BitVec 16) → BitVec 16

/-- Bytes of the tables partition that so many contracts, delivery channels, route entries and windows take: the spec gives no
entry's size (R270, log 133). -/
opaque Config.tableBytes : Nat → Nat → Nat → Nat → Nat

/-- Cable delay of a dimension in nanoseconds: a fact of the installation that admission uses (R185, R295). -/
opaque Config.cableNs : Nat → Nat

end Sys2Proof
end

