-- ==== Sys2Proof/Machine/State.lean ====
section
/-!
DEFINITION. The state of the ZP7410: everything the spec gives the device, as plain data, in one structure per block
(R17). A `Tab` lists the entries that differ from their default; each docstring names the rule. Fields marked
'model' are the model's own. The value after a colon is the reset value, that of D0 power-on with SYS_RST_N.
-/

namespace Sys2Proof.Machine

/-- A record of the event ring (R419, R420); `detail` lists its values in order. -/
structure EvRec where
  code : Nat
  severity : Nat := 0
  source : Nat := 0xFFFF
  gid : Nat := 0xFFFF
  unit : Nat := 0
  time : Nat := 0
  detail : List Nat := []
  deriving DecidableEq, Repr

/-- A periodic pass over numbered objects (R357): the last one visited, when the pass began, and that it is known to be late. -/
structure Pass where
  place : Nat := 0
  began : Option Nat := none
  late : Bool := false
  deriving DecidableEq, Repr

/-- What the device sends to the world outside, newest first in `State.out` (model). -/
inductive Out where
  | rrEntry (ring idx : Nat) (wrap : Bool) (crHead : Nat) (m : SpMsg)
  | relay (fna : Nat) (h : SpHdr)
  /-- a command forwarded by this lead, with the parameters that are not its own (R162, R163) -/
  | forward (fna : Nat) (h : SpHdr) (extra : List (Nat × Nat))
  | eventRec (idx : Nat) (r : EvRec)
  | harvestRec (idx : Nat) (ty index : Nat) (layer op : Nat) (time : Nat) (payload : List (Nat × Nat))
  | msix (v : Nat)
  | bar0 (off : Nat) (v : Nat)
  | ur (off : Nat)
  | pcieData (addr : Nat) (poisoned : Bool) (data : List Byte)
  | smbus (bytes : List Byte)
  | smbNack
  | flit (link : Nat) (f : Flit) (inj : Option Bool)
  | training (link : Nat) (t : Training)
  | wakeBurst (link : Nat)
  | electricalIdle (link : Nat)
  | handed (link : Nat) (p : Packet)
  | handedSync (link : Nat) (s : SyncSlot)
  | mirror (fna : Nat) (p : Packet)
  | mirrorAck (fna egress seq : Nat)
  | pin (name : String) (level : Bool)
  | coolDuty (duty : Nat)
  | pmbus (rail command value : Nat)
  | traceExport (core : Nat)
  deriving DecidableEq, Repr

/-- The unit on which containment and unit reset act (R349). -/
inductive FUnit where
  | none
  | port (p : Nat)
  | pool (k : Nat)
  | cask (c : Nat)
  | dim (d : Nat)
  | epPort (p : Nat)
  | requester (stave id : Nat)
  | press (n : Nat)
  | vat (v : Nat)
  | core (c : Nat)
  | stave (n : Nat)
  | syncEngine
  | tier (k : Nat)
  deriving DecidableEq, Repr

/-- One PCIe command ring (R336, R311-R313). -/
structure Ring where
  /-- CR_BASE 64: 0 (R336) -/
  crBase : BitVec 64 := 0
  /-- RR_BASE 64: 0 (R336) -/
  rrBase : BitVec 64 := 0
  /-- RING_CTRL.SIZE_K 4: 4 (R336) -/
  sizeK : Nat := 4
  /-- RING_CTRL.ENABLE: 0 (R336) -/
  enable : Bool := false
  /-- RING_STATUS.STATE is STOPPED: 0 (R313, R336) -/
  stopped : Bool := false
  /-- CR_TAIL 12: 0 (R336) -/
  crTail : Nat := 0
  /-- RR_HEAD 12: 0 (R336) -/
  rrHead : Nat := 0
  /-- CR_HEAD 12: 0 (R336) -/
  crHead : Nat := 0
  /-- index of the next RR entry the device writes: 0 (R312) -/
  rrProd : Nat := 0
  /-- WRAP bit of the present pass: 1, the first pass (R312) -/
  wrap : Bool := true
  /-- OUTSTANDING 8: 0 (R336) -/
  outstanding : Nat := 0
  /-- RR entries reserved for replies: 0 (R313) -/
  reserved : Nat := 0
  /-- replies and events held because the RR is full, oldest first: none (R313) -/
  held : List SpMsg := []
  deriving DecidableEq, Repr

/-- What command service keeps of one source, a ring or an in-band SRC (R324, R326, R314). -/
structure Source where
  /-- agreed feature set 256: bit 0 (R326) -/
  agreed : BitVec 256 := 1
  /-- the last HOST_FEATURES 256: bit 0 (R327) -/
  hostFeatures : BitVec 256 := 1
  /-- in-band commands not yet replied: 0 (R314) -/
  outstanding : Nat := 0
  deriving DecidableEq, Repr

/-- A command taken and not yet replied, with the bytes its reply parameters may have (R312, R313, R325). -/
structure Taken where
  src : Nat
  tag : BitVec 32
  opcode : BitVec 16
  limit : Nat
  deriving DecidableEq, Repr

/-- An entry of the staging list, with the guarantee it was given when staged (R320). -/
structure Staged where
  time : Nat
  hdr : SpHdr
  instr : Instr
  gid : Nat := 0xFFFF
  deriving DecidableEq, Repr

/-- The phased command that runs: phases that have ended, and the bound of each phase in microseconds (R322, R323). -/
structure Phased where
  hdr : SpHdr
  instr : Instr
  phase : Nat
  bounds : List Nat
  deriving DecidableEq, Repr

/-- A command whose reply waits for other devices: one relayed to its TARGET (R310), or one forwarded by this lead
(R162, R317), with the replies still to come and what the replies have brought so far. -/
structure Waiting where
  hdr : SpHdr
  relay : Bool
  left : Nat
  detail : Nat := 0
  gid : Nat := 0xFFFF
  params : List (Nat × Nat) := []
  /-- the contract that a forwarded COLL_OPEN has opened here, or a forwarded COLL_CLOSE is to close -/
  key : Nat := 0
  /-- of a forwarded COLL_OPEN or COLL_CLOSE: the devices that have done it, and the first refusal: none (R162) -/
  oks : List Nat := []
  refusal : Option SpMsg := none
  deriving DecidableEq, Repr

/-- A valid control-record slot: SEQ, GRADE_PIN and the activation MARKER (R399). -/
structure CtlRec where
  seq : BitVec 32 := 1
  pin : Option Nat := none
  marker : Bool := false
  deriving DecidableEq, Repr

/-- Identity, fuses, life cycle and the control record (R334, R399, R410, R5). -/
structure Ident where
  /-- GRADE_FUSED 8: fuse value (R334), DESIGN CHOICE 64 (log 5) -/
  gradeFused : Nat := 64
  /-- presses enabled by fuse 64: DESIGN CHOICE all (log 5) (R2) -/
  pressFused : BitVec 64 := BitVec.allOnes 64
  /-- STEPPING 16: DESIGN CHOICE 0x3141 = A1 (log 5) (R334) -/
  stepping : BitVec 16 := 0x3141
  /-- SERIAL 64: DESIGN CHOICE 0 (log 5) (R334) -/
  serial : BitVec 64 := 0
  /-- burned intent fuses of target t, 0-16: DESIGN CHOICE 16 for t = 1, 2 (log 5) (R410) -/
  lcIntent : Tab Nat := [(1, 16), (2, 16)]
  /-- burned commit fuses of target t, 0-16: DESIGN CHOICE 16 for t = 1, 2 (log 5) (R410) -/
  lcCommit : Tab Nat := [(1, 16), (2, 16)]
  /-- key-hash fuses, none while unwritten: DESIGN CHOICE written, zeros (log 5) (R400, R409) -/
  keyHash : Option (List Byte) := some (List.replicate 48 0)
  /-- control-record slots 0 and 1, none when not valid: DESIGN CHOICE slot 0 valid, no pin (log 5) (R399) -/
  ctlRec0 : Option CtlRec := some {}
  ctlRec1 : Option CtlRec := none
  /-- the pin applied since boot or command (R414) -/
  pinApplied : Option Nat := none
  deriving DecidableEq, Repr

/-- Global control and status, PCIe access state (R330, R335, R345). -/
structure Ctl where
  /-- GCTL 32: 0 (R335) -/
  gctl : BitVec 32 := 0
  /-- HEARTBEAT 32: 0 (R335) -/
  heartbeat : BitVec 32 := 0
  /-- SCRATCH0-3 32 each: 0 (R335) -/
  scratch : Tab (BitVec 32) := []
  /-- GSTAT.PROFILE 8: 0 (R335) -/
  profile : Nat := 0
  /-- GSTAT.BOOT_STAGE 4: 0 (R335) -/
  bootStage : Nat := 0
  /-- GSTAT.QUIESCED: 0 (R335) -/
  quiesced : Bool := false
  /-- GSTAT.CMD_PAUSED: 0 (R335) -/
  cmdPaused : Bool := false
  /-- when the present pause of command service began, ns: 0 (R327) -/
  pausedAt : Nat := 0
  /-- GSTAT.FW_READY: 0 (R335) -/
  fwReady : Bool := false
  /-- ROM recovery serves ring 0 (R403): no -/
  recovery : Bool := false
  /-- high half latched by a 4-byte read of a low half, per offset: none (R330) -/
  latchHi : Tab (Option (BitVec 32)) := []
  /-- low half held by a 4-byte write of an RW register, per offset: none (R330) -/
  heldLo : Tab (Option (BitVec 32)) := []
  /-- MSI-X table and pending-bit array words, per offset: DESIGN CHOICE 0 (log 5) (R333) -/
  msixWords : Tab (BitVec 32) := []
  /-- Unsupported Requests logged in AER: 0 (R329, R276) -/
  aerUr : Nat := 0
  deriving DecidableEq, Repr

/-- Command service (R306, R320-R327). -/
structure Svc where
  /-- the four command rings: `Ring` defaults (R336) -/
  rings : Tab Ring := []
  /-- per source, agreed features and outstanding count: `Source` defaults (R326) -/
  sources : Tab Source := []
  /-- commands taken and not yet replied: none (R313) -/
  taken : List Taken := []
  /-- staging list in TIME order: empty (R320) -/
  staged : List Staged := []
  /-- phased command: none (R323) -/
  phased : Option Phased := none
  /-- commands that wait for other devices, or for a fence: none (R317) -/
  waiting : List Waiting := []
  /-- the ring that is next in rotating order: 0 (R311) -/
  turn : Nat := 0
  /-- LAYER_ID in force 16: 0 (R306) -/
  layerId : BitVec 16 := 0
  /-- OPERATOR_ID in force 16: 0 (R306) -/
  operatorId : BitVec 16 := 0
  deriving DecidableEq, Repr

/-- The fault block (R338, R339, R347-R356). -/
structure Faults where
  /-- FAULT_STICKY 2048: 0 (R338) -/
  sticky : Tab Bool := []
  /-- FAULT_FORCE 2048: 0 (R338) -/
  force : Tab Bool := []
  /-- FAULT_SEV of sources that software changed: none, each source at its default (R338) -/
  sev : Tab (Option Nat) := []
  /-- FAULT_INJECT GROUP and COUNT 32: 0 (R338) -/
  injectReg : BitVec 32 := 0
  /-- check words left of a group's injection; of presses' groups per press, under `State.injKey`: 0 (R356) -/
  injLeft : Tab Nat := []
  /-- DOUBLE pattern of the running injection: no (R356) -/
  injDouble : Tab Bool := []
  /-- COUNT of the running injection, for its event: 0 (R356) -/
  injCount : Tab Nat := []
  /-- force bits held by FAULT_INJECT LEVEL 0, with the time at which they end, in ns: none (R355) -/
  forceTime : Tab Nat := []
  /-- level conditions that hold: none (R347) -/
  level : Tab Bool := []
  /-- contained units with the sources that hold them out of service: none (R349, R354) -/
  contained : List (Nat × FUnit) := []
  /-- the sync engine is fenced, and fenced tiers: no (R23, R350) -/
  syncFenced : Bool := false
  tierFenced : Tab Bool := []
  /-- unit resets asked for and not yet performed by CC4: none (R350) -/
  resetDue : List (Nat × FUnit) := []
  /-- protection violations with their core and time: none (R405) -/
  violations : List (Nat × Nat) := []
  /-- the table CRC sweep's place and pass: none begun (R357, R359) -/
  sweep : Pass := {}
  /-- management's copy of units' physical state, up or down: none reported (R367) -/
  mgmtCopy : Tab (Option Bool) := []
  /-- times of the unit resets of the last 10 s: none (R350) -/
  resetTimes : List (FUnit × Nat) := []
  deriving DecidableEq, Repr

/-- Fabric time and the alarm (R340, R388-R394). Times in D0 are kept in units of 2^-40 ns. -/
structure Time where
  /-- fabric time 64 + 40 fraction bits: 0 (R340, R388) -/
  now : Nat := 0
  /-- FTIME_FRAC 16: 0 (R340) -/
  fracLatch : BitVec 16 := 0
  /-- INCR per RACK_CLK edge in 2^-40 ns: 10 ns nominal (R388) -/
  incr : Nat := 10 * 2 ^ 40
  /-- RACK_CLK lost, the oscillator counts: no (R388) -/
  clkLost : Bool := false
  /-- ALARM 64: 0 (R340) -/
  alarm : Nat := 0
  /-- the ACTION of an alarm that has not fired: 0, none (R394) -/
  alarmAction : Nat := 0
  /-- ALARM_STAT.FIRED: 0 (R340) -/
  fired : Bool := false
  /-- quality 0 FREE, 1 ACQUIRING, 2 LOCKED, 3 HOLDOVER: 0 (R390) -/
  quality : Nat := 0
  /-- consecutive offsets within 20 ns: 0 (R390) -/
  goodRun : Nat := 0
  /-- time parent's dimension: none (R389) -/
  parent : Option Nat := none
  /-- DEPTH 8: 0 (R391) -/
  depth : Nat := 0
  /-- ROOT_QUALITY 2: 0 (R391) -/
  rootQuality : Nat := 0
  /-- offset last computed, in 2^-16 ns: 0 (R389, R418) -/
  offset : Int := 0
  /-- FNA of the time root as the parent reports it: 0 (R391) -/
  rootFna : Nat := 0
  /-- TIME_SET has been applied at this root: no (R390) -/
  timeSet : Bool := false
  /-- sum of the steps of fabric time, in 2^-40 ns; `State.mono` counts without them (R393) -/
  stepped : Int := 0
  /-- TIME_TX and receive stamp of the last flit from each port: none (R389) -/
  lastRx : Tab (Option (BitVec 64 × BitVec 64)) := []
  /-- time given by TIME_SET step, waiting for the next PPS edge: none (R393) -/
  stepDue : Option Nat := none
  /-- what the root still slews at 100 ppm, in 2^-40 ns: 0 (R393) -/
  slewLeft : Int := 0
  /-- RACK_PPS valid, that is a pulse has been accepted: no (R392) -/
  ppsValid : Bool := false
  /-- offsets of consecutive ignored pulses: none (R392) -/
  ppsIgnored : List Int := []
  /-- ignored pulses counted for the harvest: 0 (R392) -/
  ppsIgnoredCount : Nat := 0
  /-- last PPS offset reported, ns: 0 (R392) -/
  ppsNs : Int := 0
  deriving DecidableEq, Repr

/-- One window comparator (R340, R385, R386, R432). -/
structure Comparator where
  /-- LEVEL: safe state (R340) -/
  lvl : Bool
  /-- BAND: 1 (R340) -/
  band : Bool := true
  /-- CHATTER: 0 (R340) -/
  chatter : Bool := false
  /-- input voltage last evaluated, mV: 0 (R385) -/
  inputMv : Nat := 0
  /-- LEVEL and BAND unchanged since this time (R411) -/
  since : Nat := 0
  deriving DecidableEq, Repr

/-- The rest of the always-on domain (R340, R366, R385-R387, R395, R432). -/
structure Aon where
  /-- comparators 0-3: LEVEL 0, 0, 1, 0 (R340) -/
  cmp0 : Comparator := { lvl := false }
  cmp1 : Comparator := { lvl := false }
  cmp2 : Comparator := { lvl := true }
  cmp3 : Comparator := { lvl := false }
  /-- thresholds VT_HI, VT_LO in mV: 950, 900 (R385) -/
  vtHi : Nat := 950
  vtLo : Nat := 900
  /-- RACK_PPS declared chattering: no (R432) -/
  ppsChatter : Bool := false
  /-- COOL_DUTY 10: 1000 (R340) -/
  coolDuty : Nat := 1000
  /-- duty firmware last set: 1000 (R395) -/
  fwDuty : Nat := 1000
  /-- firmware has not written the duty for 1 s: no (R395) -/
  coolWatchdog : Bool := false
  /-- COOL_RANGE: 0 (R395) -/
  coolRange : Nat := 0
  /-- AON_EVENTS.THERMTRIP: 0 (R340) -/
  thermtrip : Bool := false
  /-- the device is off after a thermal trip: no (R384) -/
  tripped : Bool := false
  /-- ALERT_N driven low as a wake request: no (R377) -/
  wakeRequest : Bool := false
  /-- cooling curve: points (temperature in 0.1 C, duty): the default curve (R398) -/
  curve : List (Int × Nat) := [(700, 300), (950, 1000)]
  /-- DUTY_RETENTION, DUTY_DORMANT: 200 (R398) -/
  dutyRetention : Nat := 200
  dutyDormant : Nat := 200
  /-- SMB_ADDR 7: 0x5C (R398) -/
  smbAddr : Nat := 0x5C
  /-- cellar plan kept for retention: default plan (R376) -/
  savedPlan : List Nat := [16, 96, 128, 0]
  /-- a wake has been accepted and runs (R377): no -/
  waking : Bool := false
  deriving DecidableEq, Repr

/-- A host ring of records (R341). -/
structure RecRing where
  /-- BASE 64: 0 -/
  base : BitVec 64 := 0
  /-- CTRL.ENABLE: 0 -/
  enable : Bool := false
  /-- CTRL.SIZE_K 5: 0 -/
  sizeK : Nat := 0
  /-- PROD 32: 0 -/
  prod : Nat := 0
  /-- CONS 32: 0 -/
  cons : Nat := 0
  /-- DROPPED 32: 0 -/
  dropped : Nat := 0
  deriving DecidableEq, Repr

/-- One watermark (R159, R160). -/
structure Watermark where
  /-- DIR: 0 -/
  dir : Bool := false
  /-- HYST_SHIFT 4: 4 -/
  hyst : Nat := 4
  /-- THRESH 24: 0xFFFFFF -/
  thresh : Nat := 0xFFFFFF
  /-- EVENT: 0 -/
  event : Bool := false
  /-- LEVEL: 0 -/
  lvl : Bool := false
  /-- ARMED: 0 -/
  armed : Bool := false
  /-- CROSSINGS 8: 0 -/
  crossings : Nat := 0
  deriving DecidableEq, Repr

/-- A cellar book record (R416). -/
structure BookRec where
  seq : Nat
  timeStart : Nat
  timeDone : Nat
  presses : BitVec 64
  fwVersion : BitVec 32
  bundleCrc : BitVec 32
  vintage : Nat
  layerId : BitVec 16
  operatorId : BitVec 16
  full : Bool
  context : Nat
  status : Nat
  gradeFused : Nat
  gradePinned : Nat
  inDigest : List Byte
  outDigest : List Byte
  deriving DecidableEq, Repr

/-- A trace entry (R421). -/
structure TraceEntry where
  src : Nat
  target : Nat
  ns : Nat
  kind : Nat
  component : Nat
  deriving DecidableEq, Repr

/-- Harvest, event ring, trace, watermarks, cellar book (R341, R342, R416-R421). -/
structure Telemetry where
  /-- harvest ring: `RecRing` defaults (R341) -/
  harvest : RecRing := {}
  /-- event ring: `RecRing` defaults (R341) -/
  events : RecRing := {}
  /-- INTERVAL 32: 1000 us (R418) -/
  interval : Nat := 1000
  /-- SELECT 256: bits 0, 2, 7 (R418) -/
  select : BitVec 256 := 0x85
  /-- VECTOR 8: 8 (R418) -/
  vector : Nat := 8
  /-- end of the last interval, ns: 0 (R418) -/
  intervalAt : Nat := 0
  /-- TRACE_CTL 32: 0 (R341) -/
  traceCtl : BitVec 32 := 0
  /-- trace buffers frozen: no (R421) -/
  frozen : Bool := false
  /-- trace entries per core, newest first, at most 4096: none (R421) -/
  trace : Tab (List TraceEntry) := []
  /-- trace entries per core that are not streamed yet, oldest first, at most 2: none (R421) -/
  traceOut : Tab (List TraceEntry) := []
  /-- CORE_EN has been written 0 since the freeze: no (R421) -/
  releaseArmed : Bool := false
  /-- watermarks 0-2120: `Watermark` defaults (R159) -/
  marks : Tab Watermark := []
  /-- cellar book: next SEQ: 1 (R416) -/
  bookSeq : Nat := 1
  /-- cellar book records: none (R416) -/
  book : List BookRec := []
  deriving DecidableEq, Repr

/-- One port (R62, R309, R343, R89, R90). -/
structure Port where
  /-- split 0 x4, 1 2x2, 2 4x1: DESIGN CHOICE 0 (log 5) (R62) -/
  split : Nat := 0
  /-- configured lane rate 0-3: DESIGN CHOICE 3 (log 5) (R62) -/
  rate : Nat := 3
  /-- PORT_AUTH 3 set by FAB_ENDPOINT, none for the rule of R309: none -/
  auth : Option Nat := none
  /-- WINDOW_REFUSED 32: 0 (R343) -/
  windowRefused : BitVec 32 := 0
  /-- electrical idle enabled: no (R89) -/
  idleEn : Bool := false
  /-- idle delay in us: 10 (R89) -/
  idleDelay : Nat := 10
  /-- times of the RETRY_REQ sent in the last 1 ms: none (R90) -/
  retryTimes : List Nat := []
  /-- quarantined, carrying no traffic: no (R124, R349) -/
  quarantined : Bool := false
  /-- contained: every link held in DETECT: no (R349) -/
  held : Bool := false
  /-- draining under FAB_ENDPOINT: no (R127) -/
  draining : Bool := false
  /-- a HELLO has been exchanged since discovery began: no (R105) -/
  hello : Bool := false
  /-- excluded from INIT after its timeout: no (R105) -/
  excluded : Bool := false
  deriving DecidableEq, Repr

/-- Link states (R85, R343). -/
inductive LinkState where
  | detect | base | eq | lock | param | active | down
  deriving DecidableEq, Repr

/-- One flit of the replay buffer with the packets whose last slot it holds (R74, R118), each as its ingress FNA
plus 1 and its DCSEQ. -/
structure Replay where
  flit : Flit
  ends : List (Nat × Nat)
  deriving DecidableEq, Repr

/-- A packet selected for sending (R69, R158): its slots left, the ingress FNA plus 1 and DCSEQ of the reliable packet they
complete at its egress device (0 for none, R118), and while none of its slots has left the time it was queued. -/
structure TxPacket where
  slots : List Slot
  ends : Nat × Nat := (0, 0)
  enq : Option Nat := none
  deriving DecidableEq, Repr

/-- One link, keyed by its lowest lane (R62-R95). -/
structure Link where
  /-- state 3: DETECT (R343) -/
  st : LinkState := .detect
  /-- width in lanes: 4, the port's configuration (R62) -/
  width : Nat := 4
  /-- lane rate in use 0-3 (R343): 0 -/
  rate : Nat := 0
  /-- lowest lane in use, offset from the link's lowest lane: 0 (R93) -/
  laneOff : Nat := 0
  /-- ZP5208 mode: no (R95) -/
  zp5208 : Bool := false
  /-- rate under trial in bring-up: 3 (R85, R87) -/
  tryRate : Nat := 3
  /-- far end's RATES, WIDTHS, REPLAY, SERIAL: 0 (R88) -/
  farRates : BitVec 8 := 0
  farWidths : BitVec 8 := 0
  farReplay : Nat := 0
  farSerial : BitVec 64 := 0
  /-- good TRAINING flits in a row in LOCK: 0 (R85) -/
  goodTraining : Nat := 0
  /-- PARAM flits sent and received: 0 (R85) -/
  paramSent : Nat := 0
  paramRecv : Nat := 0
  /-- next SEQ to be sent 12: 0 (R73) -/
  txSeq : BitVec 12 := 0
  /-- last ACK processed 12: 4095 (R73, R74) -/
  lastAck : BitVec 12 := 4095
  /-- replay buffer, oldest first: empty (R74) -/
  replay : List Replay := []
  /-- flits of a running replay still to resend: none (R76) -/
  resend : List Replay := []
  /-- expected SEQ 12: 0 (R73) -/
  rxSeq : BitVec 12 := 0
  /-- RETRY_REQ sent since leaving NORMAL, 0 in NORMAL: 0 (R75) -/
  requests : Nat := 0
  /-- RETRY_REQs that wait to be sent, oldest first, by the SEQ they name: none (R75) -/
  reqDue : List (BitVec 12) := []
  /-- consecutive bad flits: 0 (R90) -/
  badRun : Nat := 0
  /-- last ACK value sent 12: 4095 (R89) -/
  ackSent : BitVec 12 := 4095
  /-- flits sent since the last RATE_MATCH: 0 (R65) -/
  sinceRm : Nat := 0
  /-- when ACK last advanced, or the replay buffer last became non-empty: 0 (R76) -/
  ackAt : Nat := 0
  /-- credits held for sending, per virtual channel: 0 (R78) -/
  credits : Tab Nat := []
  /-- credits owed to the far end, per virtual channel: 0 (R79) -/
  owed : Tab Nat := []
  /-- credits the far end holds, per virtual channel: 0 (R80) -/
  farCredits : Tab Nat := []
  /-- landing FIFO per virtual channel: the slots not yet taken of each flit, oldest first: empty (R133) -/
  landing : Tab (List (List Slot)) := []
  /-- packets selected for sending, per virtual channel: none (R69) -/
  txSlots : Tab (List TxPacket) := []
  /-- sync slots that wait to leave, oldest first: none (R68, R198) -/
  syncOut : List SyncSlot := []
  /-- transmitter in electrical idle: no (R89) -/
  txIdle : Bool := false
  /-- receiver in low power: no (R89) -/
  rxLow : Bool := false
  /-- relock toward another width, none when not relocking: none (R94) -/
  relock : Option Nat := none
  /-- lowest lane of the width under way: 0 (R93, R94) -/
  relockOff : Nat := 0
  /-- lane returned to service by the relock under way: none (R94) -/
  relockLane : Option Nat := none
  /-- slots still to come of the packet under way, per virtual channel: 0 (R69) -/
  rxLeft : Tab Nat := []
  /-- when the last SEQUENCED flit was sent: 0 (R89) -/
  lastSeq : Nat := 0
  /-- virtual time V 64 of the egress scheduler: 0 (R149) -/
  vtime : Nat := 0
  deriving DecidableEq, Repr

/-- One lane (R91-R94, R343). -/
structure Lane where
  /-- CORRECTED 64: 0 -/
  corrected : BitVec 64 := 0
  /-- BAD 64: 0 -/
  bad : BitVec 64 := 0
  /-- RETRY_TX 32: 0 -/
  retryTx : BitVec 32 := 0
  /-- RETRY_RX 32: 0 -/
  retryRx : BitVec 32 := 0
  /-- REPLAYED 64: 0 -/
  replayed : BitVec 64 := 0
  /-- RM_DELETED 32: 0 -/
  rmDeleted : BitVec 32 := 0
  /-- FOM 16: 0 (R92) -/
  fom : Nat := 0
  /-- FOM_MIN 16: 3072 (R93) -/
  fomMin : Nat := 3072
  /-- time since when FOM lies below FOM_MIN: none (R93) -/
  lowSince : Option Nat := none
  /-- failed: no (R93) -/
  failed : Bool := false
  /-- equalisation fixed: no; TAPS 64: DESIGN CHOICE 0 (log 5) (R92) -/
  eqFixed : Bool := false
  taps : BitVec 64 := 0
  /-- SCAN mode: no; its D: 24 (R92) -/
  scan : Bool := false
  scanD : Nat := 24
  /-- header of the LINK_EYESCAN command whose end is to be announced: none (R317) -/
  scanFor : Option SpHdr := none
  /-- scan counts, point = phase x 128 + offset: 0 (R92) -/
  counts : Tab Nat := []
  /-- last harvested CORRECTED, BAD, REPLAYED: 0 (R418) -/
  seen : Nat × Nat × Nat := (0, 0, 0)
  deriving DecidableEq, Repr

/-- Links, lanes and ports (03). -/
structure Links where
  ports : Tab Port := []
  links : Tab Link := []
  lanes : Tab Lane := []
  deriving DecidableEq, Repr

/-- What holds a packet at this device (R137), and where it goes. -/
structure Cask where
  /-- allocated bit of the pool's bitmap: 0 (R136) -/
  alloc : Bool := false
  /-- reference count 9: 0 (R137) -/
  refs : Nat := 0
  /-- account charged (R139): 0 -/
  acct : Nat := 0
  /-- the part of its size drawn from the shared pool (R140): 0 -/
  drawn : Nat := 0
  /-- retired by an uncorrectable error: no (R134) -/
  retired : Bool := false
  /-- leak-audit candidate: no (R145) -/
  candidate : Bool := false
  /-- audit-generation bit: that of the last audit begun when it was taken, or that last visited it: 0 (R145) -/
  gen : Bool := false
  /-- set allocated by the audit, so charged to no account: no (R145) -/
  uncharged : Bool := false
  /-- the packet held: none -/
  pkt : Option Packet := none
  /-- fabric time (ns) when the header entered: 0 (R146) -/
  stamp : Nat := 0
  /-- time of the first departure of a multicast packet: none (R144) -/
  firstLeft : Option Nat := none
  /-- waiting for a dimension channel since this time, with the E channel offered: none (R110) -/
  escapeSince : Option Nat := none
  /-- delivery channel (peer FNA, DCSEQ, arriving = true): none -/
  chan : Option (Nat × Nat × Bool) := none
  /-- paced by its limiter until this time: no (R123) -/
  paceAt : Option Nat := none
  /-- forwarded toward this FNA instead of its destination: no (R126) -/
  toward : Option Nat := none
  /-- error in a stored word: 0 none, 1 correctable, 2 uncorrectable (R134, R356): 0 -/
  err : Nat := 0
  deriving DecidableEq, Repr

/-- An entry of an egress queue (R142, R146). -/
structure QEntry where
  cask : Nat
  dst : BitVec 26
  mark : Bool := false
  enq : Nat := 0
  /-- delivery channel on which the entry's packet arrived (ingress FNA, DCSEQ), of an entry for an endpoint -/
  chan : Option (Nat × Nat) := none
  deriving DecidableEq, Repr

/-- One egress queue, keyed link x 8 + class (R147-R152, R158). -/
structure Queue where
  /-- lane of A-channel entries, oldest first: empty (R147) -/
  aLane : List QEntry := []
  /-- lane of E-channel entries: empty (R147) -/
  eLane : List QEntry := []
  /-- start tag 64: 0 (R149) -/
  tag : Nat := 0
  /-- weight 10: 64 (R149) -/
  weight : Nat := 64
  /-- OVH 8: 0 (R148) -/
  ovh : Nat := 0
  /-- MARK_DEPTH in 4 KiB: 64 (R142) -/
  markDepth : Nat := 64
  /-- shaper RATE 21 Mb/s: 0, unshaped (R151) -/
  rate : Nat := 0
  /-- shaper BURST 13 KiB: 0 (R151) -/
  burst : Nat := 0
  /-- tokens in 1/8000 byte: 0 (R151) -/
  tokens : Int := 0
  /-- fabric time of the last token update, ns: 0 (R151) -/
  tokenAt : Nat := 0
  /-- lacks credit since: none (R129) -/
  lackSince : Option Nat := none
  /-- entries discarded by ageing: 0 (R146); by the lees limit: 0 (R144) -/
  aged : Nat := 0
  leesCount : Nat := 0
  /-- observation of the interval: maximum depth, depth-time sum, last change, maximum sojourn: 0 (R158) -/
  maxDepth : Nat := 0
  depthSum : Nat := 0
  depthAt : Nat := 0
  maxSojourn : Nat := 0
  /-- sojourn histogram bins 0-15: 0 (R158) -/
  hist : Tab Nat := []
  deriving DecidableEq, Repr

/-- A policer of an endpoint link and class (R153). -/
structure Policer where
  enable : Bool := false
  rate : Nat := 0
  burst : Nat := 0
  tokens : Int := 0
  tokenAt : Nat := 0
  drops : Nat := 0
  /-- tokens that the claims of a guarded class give on this link, in 1/8000 byte, and when they were counted: 0 (R293) -/
  claimTokens : Int := 0
  claimAt : Nat := 0
  deriving DecidableEq, Repr

/-- A gate list (R154): entries (mask, duration in 10 ns), its start time t0 in ns. -/
structure GateList where
  entries : List (Nat × Nat) := []
  start : Nat := 0
  guardBand : Bool := false
  deriving DecidableEq, Repr

/-- The gates of one link (R154-R156). -/
structure Gates where
  /-- list in force: none, every gate open (R154) -/
  live : GateList := {}
  /-- gate mask now in force: all open (R154) -/
  mask : Nat := 0xFF
  /-- pending list with its take-over time: none (R155) -/
  next : Option (GateList × Nat) := none
  deriving DecidableEq, Repr

/-- An admission account (R139, R140), keyed link x 8 + class, 2048 VAT, 2049 ORIGIN; G and C in bytes. -/
structure Account where
  used : Nat := 0
  deriving DecidableEq, Repr

/-- The switch core (05). -/
structure Switch where
  /-- casks, keyed pool x 2^20 + index: free (R136) -/
  casks : Tab Cask := []
  /-- sizes of the four pools in casks: the default division (R132) -/
  pools : List Nat := [32768, 24576, 10240, 5120]
  /-- extension casks of pools 2 and 3: 0 (R136) -/
  ext : List Nat := [0, 0]
  /-- division that a phased change prepares: none (R138) -/
  newPools : List Nat := []
  /-- pools closed to allocation by containment: none (R349) -/
  closed : Tab Bool := []
  /-- bytes of retired casks: 0 (R134) -/
  retiredBytes : Nat := 0
  /-- accounts' use: 0 (R140) -/
  accounts : Tab Account := []
  /-- shared-pool use SU: 0 (R140) -/
  shared : Nat := 0
  /-- PROFILE 8: DESIGN CHOICE 0 (log 5) (R317) -/
  profile : Nat := 0
  /-- AGEING in 100 us: 10 (R146) -/
  ageing : Nat := 10
  /-- LEES_LIMIT in us: 200 (R144) -/
  lees : Nat := 200
  /-- PROPORTION: 1:3:5:10 (R132) -/
  proportion : List Nat := [1, 3, 5, 10]
  /-- (G, C) in 4 KiB of link class, VAT, ORIGIN accounts: the defaults (R139) -/
  limits : List (Nat × Nat) := [(16, 2048), (1024, 8192), (1024, 4096)]
  /-- AI_SHIFT: 8 (R123) -/
  aiShift : Nat := 8
  /-- egress queues: `Queue` defaults (R147) -/
  queues : Tab Queue := []
  /-- policers, keyed link x 8 + class: disabled (R153) -/
  policers : Tab Policer := []
  /-- gates per link: every gate open (R154) -/
  gates : Tab Gates := []
  /-- corrected packet-buffer errors: 0 (R134) -/
  pbCorrected : Nat := 0
  /-- packets the device originates that wait for an ORIGIN cask: none (R140) -/
  originWait : List (List Nat × Packet) := []
  /-- leak audits begun: 0 (R145) -/
  audit : Nat := 0
  /-- when the last leak audit ended, ns: none (R145, R357) -/
  auditAt : Option Nat := none
  /-- the packet-buffer scrub's place and pass: none begun (R134, R357) -/
  pbPass : Pass := {}
  deriving DecidableEq, Repr

/-- One dimension link of this device (R98-R101, R105, R389). -/
structure Dim where
  /-- arrival of the last HELLO: none (R100) -/
  helloAt : Option Nat := none
  /-- miswired, DISCOVERY only: no (R105) -/
  miswired : Bool := false
  /-- declared down: no (R100) -/
  down : Bool := false
  /-- contained: DISCOVERY and TIME only: no (R349) -/
  held : Bool := false
  /-- serial number of the partner: 0 (R105) -/
  serial : BitVec 64 := 0
  deriving DecidableEq, Repr

/-- An endpoint at a slot (R102, R124, R127, R129). -/
structure EpSlot where
  /-- identity announced: none -/
  identity : Option (BitVec 64) := none
  /-- ASSIGN has been sent: no -/
  assigned : Bool := false
  /-- an ANNOUNCE is held until READY: no -/
  held : Bool := false
  /-- quarantined: no -/
  quarantined : Bool := false
  /-- completion time of its announcement, ns: 0 -/
  announcedAt : Nat := 0
  /-- admission from it is stopped by FAB_ENDPOINT with DRAIN: no (R127) -/
  draining : Bool := false
  /-- unresponsive at egress, with the class whose queue was discarded: none (R129) -/
  unresponsive : Option Nat := none
  /-- congestion echo requested: no (R127) -/
  echo : Bool := false
  deriving DecidableEq, Repr

/-- A dual-homing configuration of FAB_ENDPOINT (R124-R127). -/
structure Dual where
  port : Nat := 0
  port2 : Nat := 0xFF
  fna2 : Option Nat := none
  /-- degraded to single attachment: no (R126) -/
  degraded : Bool := false
  deriving DecidableEq, Repr

/-- One routing bank (R112). -/
structure Bank where
  /-- explicitly loaded productive-dimension entries: none (R108) -/
  table : Tab (Option (BitVec 32)) := []
  /-- a table was loaded explicitly and is never recomputed: no (R108) -/
  explicit : Bool := false
  /-- the holes over which its table was last computed: none (R108) -/
  holes : Tab Bool := []
  /-- route pins keyed FNA x 8 + class: the pinned sequence (R108) -/
  pins : Tab (List Nat) := []
  /-- partitions (mask, value) (R101) -/
  partitions : List (Nat × Nat) := []
  /-- redirects keyed by endpoint address (R107, R126) -/
  redirects : Tab (Option Nat) := []
  deriving DecidableEq, Repr

/-- A packet kept in retention (R116, R122). -/
structure Retained where
  seq : Nat
  pkt : Packet
  /-- time of its last sending; sent more than once -/
  sentAt : Nat
  again : Bool := false
  /-- it waits for its BASE, its mirror or its pace and has not been sent (R121, R123, R125) -/
  unsent : Bool := false
  /-- its own cask while the channel's BASE is unconfirmed (R121) -/
  cask : Option Nat := none
  /-- originated by this device, so that no endpoint is told of its loss -/
  own : Bool := false
  /-- a released packet forwarded to a secondary: its own channel and DCSEQ, acknowledged with this one (R126) -/
  relay : Option (Nat × Nat) := none
  deriving DecidableEq, Repr

/-- Ingress side of a delivery channel (R116, R121, R122), keyed by the egress FNA; the channels of a failed primary
that this secondary continues are keyed (primary FNA + 1) x 2^18 + egress FNA (R126). -/
structure InCh where
  /-- state exists: no (R121) -/
  live : Bool := false
  /-- next DCSEQ 32: 0 -/
  next : Nat := 0
  /-- BASE value unconfirmed: none; times sent: 0 (R121) -/
  base : Option Nat := none
  baseSent : Nat := 0
  /-- unacknowledged packets, oldest first: none (R116) -/
  kept : List Retained := []
  /-- SRTT, RTTVAR in 2^-16 ns, none before the first sample (R122) -/
  srtt : Option Nat := none
  rttvar : Nat := 0
  /-- RTO in ns: 20000 (R122) -/
  rto : Nat := 20000
  /-- consecutive expiries without progress: 0 (R122) -/
  expiries : Nat := 0
  /-- a takeover of the channel has mirrored packets that are not yet acknowledged: no (R126) -/
  resending : Bool := false
  deriving DecidableEq, Repr

/-- Egress side of a delivery channel, keyed by the ingress FNA (R117-R119, R126). -/
structure EgCh where
  live : Bool := false
  /-- EXPECTED 32: 0 (R117) -/
  expected : Nat := 0
  /-- held casks by DCSEQ: none (R117) -/
  held : Tab (Option Nat) := []
  /-- casks of released packets handed to a unit that has not accepted them, by DCSEQ: none (R118) -/
  handed : Tab (Option Nat) := []
  /-- released and not yet delivered numbers: none (R118) -/
  undelivered : List Nat := []
  /-- numbers discarded before delivery, to be queued again: none (R117) -/
  lost : List Nat := []
  /-- highest number reported in an EDGE_ACK + 1: 0 (R119) -/
  acked : Nat := 0
  /-- marks of delivered numbers: none (R119) -/
  marks : Tab Bool := []
  /-- GAP sent for this number: none (R117) -/
  gapSent : Option Nat := none
  /-- an EDGE_ACK is owed: no; packets delivered since the last EDGE_ACK: 0 (R119) -/
  ackDue : Bool := false
  count : Nat := 0
  /-- takeover up to this number: each arriving packet is next in order: no; the secondary that EDGE_ACKs then go to:
  none (R126) -/
  takeover : Option Nat := none
  ackTo : Option Nat := none
  deriving DecidableEq, Repr

/-- Endpoint hold at ingress, keyed by endpoint address (R129). -/
structure Hold where
  marked : Bool := false
  /-- held packets in order of admission; the first `nacked` of them were sent and came back, with the DCSEQ they had -/
  packets : List Packet := []
  nacked : Nat := 0
  /-- DCSEQ of the probe outstanding: none; the packet as it was held -/
  probe : Option Nat := none
  probePkt : Option Packet := none
  deriving DecidableEq, Repr

/-- A rate limiter (R123): rate and alpha are binary64 codes, rate in Mb/s. -/
structure Limiter where
  /-- rate: none for RATE_LINE, the starting state -/
  rate : Option (BitVec 64) := none
  alpha : BitVec 64 := 0
  lastMark : Option Nat := none
  lastCut : Option Nat := none
  /-- RATE_LINE of its source link, Mb/s -/
  line : Nat := 0
  /-- at RATE_LINE since: none since the starting state -/
  lineAt : Option Nat := none
  /-- time before which no further packet of it goes, ns (R123) -/
  nextAt : Nat := 0
  deriving DecidableEq, Repr

/-- Discovery states (R105). -/
inductive DiscState where
  | idle | init | elect | assign | ready | failed
  deriving DecidableEq, Repr

/-- The fabric manager and the delivery channels (04). -/
structure Fabric where
  /-- FNA 18 and VALID: not valid (R334) -/
  fna : Option Nat := none
  /-- n, 0-18: 0 (R97) -/
  ndim : Nat := 0
  /-- twisted variant: no (R99) -/
  twisted : Bool := false
  /-- discovery state: before any FAB_DISCOVER (R105) -/
  disc : DiscState := .idle
  /-- header of the FAB_DISCOVER that waits for its reply: none (R105) -/
  discFor : Option SpHdr := none
  /-- this device is marked as root: no (R106) -/
  marked : Bool := false
  /-- FNA of the root when this device is root: 0 (R106) -/
  rootFna : Nat := 0
  /-- best root known: serial, marked, hops (R106) -/
  root : BitVec 64 × Bool × Nat := (0, false, 0)
  /-- marked serial numbers seen: none (R106) -/
  seenMarked : List (BitVec 64) := []
  /-- COORDs held in INIT and ELECT, in order of arrival, with their ports: none (R106) -/
  coords : List (Nat × DiscMsg) := []
  /-- port map: (dimension, member), none for an endpoint port (R98) -/
  map : Tab (Option (Nat × Nat)) := []
  /-- dimension links: `Dim` defaults -/
  dims : Tab Dim := []
  /-- holes by FNA: none (R100) -/
  holes : Tab Bool := []
  /-- a table recomputation is due: no (R108) -/
  recompute : Bool := false
  /-- endpoint slots: `EpSlot` defaults (R124) -/
  slots : Tab EpSlot := []
  /-- dual-homing by identity: none (R127) -/
  dual : Tab (Option Dual) := []
  /-- the two banks: empty (R112) -/
  bank0 : Bank := {}
  bank1 : Bank := {}
  /-- live bank: 0; the other bank still held since a commit: no; ever staged: no (R112, R113) -/
  live : Bool := false
  oldHeld : Bool := false
  staged0 : Bool := true
  staged1 : Bool := false
  /-- epoch session open; commit time and FENCE: none (R321) -/
  session : Bool := false
  commit : Option (Nat × Bool) := none
  commitFor : List SpHdr := []
  /-- when the last commit took effect: 0 (R113) -/
  commitAt : Nat := 0
  /-- ingress channels: `InCh` defaults (R115) -/
  inCh : Tab InCh := []
  /-- egress channels: `EgCh` defaults (R115) -/
  egCh : Tab EgCh := []
  /-- endpoint holds: none (R129) -/
  holds : Tab Hold := []
  /-- rate limiters: starting state (R123) -/
  limiters : Tab Limiter := []
  /-- mirrored packets held for a primary, by channel key of `inCh`, oldest first: none (R125) -/
  mirrors : Tab (List Packet) := []
  /-- packets that wait for the mirror's confirmation: (egress FNA, DCSEQ, the cask of one that has not been stored and
  forgotten): none (R125) -/
  mirrorWait : List (Nat × Nat × Option Nat) := []
  /-- released packets that wait for room in the channel to a secondary: (its FNA, own channel, DCSEQ, cask): none
  (R116, R126) -/
  relayWait : List (Nat × Nat × Nat × Nat) := []
  /-- REDIRECTs and TAKEOVERs this device has passed on: (MSG, SUBJECT, VALUE or FNA): none (R104, R126) -/
  seen : List (Nat × Nat × Nat) := []
  /-- mirrored packets that a takeover has still to resend, by channel key of `inCh` (R126) -/
  takeover : Tab (List Packet) := []
  /-- fabric manager log: (own serial, far serial, own port, far port or time) (R105, R124) -/
  log : List (BitVec 64 × BitVec 64 × Nat × Nat) := []
  deriving DecidableEq, Repr

/-- A pour in a vat's slot (R171, R180, R183). -/
structure Pour where
  /-- contributor bitmap 384: 0 (R171) -/
  bitmap : BitVec 384 := 0
  /-- contributions that wait for their turn, by bit number (R180) -/
  inputs : Tab (Option ContribP) := []
  /-- the casks in which they wait, by bit number: none (R180) -/
  casks : Tab (Option Nat) := []
  /-- partial of the fold so far: data, and whether it is EMPTY (R177) -/
  data : List Byte := []
  empty : Bool := true
  /-- exact accumulators, one per element, with R55 flags (R58) -/
  exact : List (Int × Nat) := []
  /-- IEEE flags 5, SATURATED, POISON, REPLAY, MISSING (R169) -/
  ieee : BitVec 5 := 0
  saturated : Bool := false
  poison : Bool := false
  replay : Bool := false
  missing : Bool := false
  elems : Nat := 0
  /-- local contributions folded, whether all are: none; then the number of steps folded: 0 (R183) -/
  folded : Nat := 0
  localDone : Bool := false
  step : Nat := 0
  /-- the step whose partial is being sent plus 1, and the devices it has still to go to: 0 (R172) -/
  sent : Nat := 0
  targets : List (Nat × Nat × Nat) := []
  /-- packets of it that the first of them has got: 0 (R169) -/
  piece : Nat := 0
  /-- the result is formed and waits for its tap or its cask, since this time: no -/
  formed : Bool := false
  formedAt : Nat := 0
  /-- re-run after its RESULT has left (R193): no -/
  again : Bool := false
  /-- complete: RESULT built (R170) -/
  done : Bool := false
  /-- presses of the tap still to be written (R190) -/
  tapLeft : BitVec 64 := 0
  /-- waits for FREE beyond the ageing limit was reported (R191) -/
  stalled : Bool := false
  /-- the cask reserved for its output: none (R172) -/
  out : Option Nat := none
  deriving DecidableEq, Repr

/-- A round of a contract that is not settled (R165, R192). -/
structure Round where
  no : Nat
  pours : Tab Pour := []
  /-- latest local acceptance, ns (R168) -/
  tReady : Nat := 0
  /-- departure of the last RESULT head, ns (R192) -/
  lastOut : Nat := 0
  /-- settlement has been entered (R192) -/
  settling : Bool := false
  /-- contract retention: contributions accepted and partials sent (R192) -/
  kept : List ContribP := []
  deriving DecidableEq, Repr

/-- An open contract (R162, R163, R186, R192). -/
structure Contract where
  par : CollP
  /-- effective pour bytes, window, algorithm (R163, R181, R182) -/
  pourBytes : Nat
  window : Nat
  algo : Nat
  /-- segments in force (R189): at least one -/
  segs : List SegP
  settleId : Option Nat := none
  gid : Nat := 0xFFFF
  layerId : BitVec 16 := 0
  operatorId : BitVec 16 := 0
  /-- replay generation 8: 0 (R193) -/
  gen : Nat := 0
  /-- vat it is resident in: none (R186) -/
  vat : Option Nat := none
  /-- a decant image holds its state: no (R187) -/
  image : Bool := false
  /-- ready since, order of readiness: none (R186) -/
  ready : Option Nat := none
  /-- pours completed since its refill (R186) -/
  quanta : Nat := 0
  rounds : List Round := []
  nextRound : Nat := 0
  /-- contributions pending with the time of arrival (R170) -/
  pending : List (ContribP × Nat) := []
  /-- closing under DRAIN (R167) -/
  closing : Bool := false
  /-- failed for lack of REPLAY (R193) -/
  failed : Bool := false
  /-- retained partials are to be sent again (R351): no -/
  replayDue : Bool := false
  /-- a hole whose participants are not all known to be dual-homed here: no (R194) -/
  split : Bool := false
  /-- holes of the sub-cube when it was opened (R193) -/
  holes : List Nat := []
  duplicates : Nat := 0
  /-- duty counters for the harvest: pours, decants, refills (R418) -/
  pours : Nat := 0
  decants : Nat := 0
  refills : Nat := 0
  deriving DecidableEq, Repr

/-- A vat (R186-R188). -/
structure Vat where
  key : Option Nat := none
  pinned : Bool := false
  contained : Bool := false
  /-- moving: decanting to make room for, or refilling from (R187) -/
  decanting : Bool := false
  refilling : Option Nat := none
  /-- last activity, ns (R186) -/
  idleSince : Nat := 0
  /-- resident since, ns: 0 (R418) -/
  placedAt : Nat := 0
  deriving DecidableEq, Repr

/-- The vat store and its contracts (06). -/
structure Vats where
  contracts : Tab (Option Contract) := []
  vats : Tab Vat := []
  /-- corrected vat-store errors: 0 (R195) -/
  corrected : Nat := 0
  /-- order counter for readiness: 0 (R186, model) -/
  order : Nat := 0
  deriving DecidableEq, Repr

/-- A sync contribution or slot held (R197). -/
structure SyncHeld where
  sender : Nat
  slot : SyncSlot
  deriving DecidableEq, Repr

/-- A result due at a press (R212, R257). -/
structure SyncDue where
  press : Nat
  ls : Nat
  addr : Nat
  value : BitVec 64
  loc : BitVec 32
  flags : Nat
  deriving DecidableEq, Repr

/-- A sync counter (R196-R201). -/
structure Counter where
  /-- operator, 0 unbound: 0 (R196) -/
  op : Nat := 0
  devMask : Nat := 0
  devValue : Nat := 0
  slots : BitVec 256 := 0
  presses : BitVec 64 := 0
  /-- step count D (R196) -/
  steps : Nat := 0
  gid : Nat := 0xFFFF
  /-- relay counter: the FNAs it passes slots toward, none when not a relay (R196) -/
  relay : Bool := false
  /-- PARITY of the running or next use: 0 (R197) -/
  parity : Bool := false
  /-- local contributors received in this use (R197) -/
  got : List Nat := []
  /-- press descriptors that wait for the result: (press, LS, RESULT address) (R257) -/
  waiters : List (Nat × Nat × Nat) := []
  /-- neighbours or sources whose value of the present step has come (R198) -/
  heard : List Nat := []
  /-- this device itself contributes, as a settlement identifier (R192): no -/
  settle : Bool := false
  /-- value folded so far (R198): value, location, and for FSUM the exact sum with the flags of R55; EMPTY -/
  val : BitVec 64 := 0
  loc : BitVec 32 := 0
  limbs : Int := 0
  flags : Nat := 16
  empty : Bool := true
  /-- limbs of the train under way: their sum, and the indices received: none (R199) -/
  train : Int := 0
  trainSeen : List Nat := []
  /-- retained local value for re-runs (R201), of this use and of the one before it -/
  locals : List SyncHeld := []
  last : List SyncHeld := []
  /-- a use has ended: no (R201) -/
  ended : Bool := false
  /-- holes of the sub-cube when this use, and the one before it, became the present one: none (R201) -/
  holesAt : List Nat := []
  lastHoles : List Nat := []
  /-- ABORT has come for this use, or the one before it, and the HOLE notice has not: no (R201) -/
  abort : Bool := false
  abortLast : Bool := false
  /-- the parity and holes for which ABORT was last passed on: none (R201) -/
  aborted : Option (Bool × List Nat) := none
  /-- results of a settlement identifier that no round has taken, oldest first: none (R192) -/
  settled : List (BitVec 64) := []
  /-- present step: none before the local fold is complete (R198) -/
  step : Option Nat := none
  /-- slots of later steps, of the next use, or with REPLAY, held (R197, R201) -/
  heldSlots : List SyncHeld := []
  /-- re-running with REPLAY set (R201) -/
  replay : Bool := false
  /-- contributions of endpoints whose primary is another device, held as a standby (R201): none -/
  standby : List SyncHeld := []
  /-- results due at presses (R212) -/
  due : List SyncDue := []
  deriving DecidableEq, Repr

/-- An address register of a stream (R235). -/
structure AddrReg where
  cur : Nat := 0
  s0 : Int := 0
  s1 : Int := 0
  s2 : Int := 0
  s3 : Int := 0
  deriving DecidableEq, Repr

/-- A queue entry: where it was read, its 32 bytes, and the cause its fetch met, 0 for none (R238, R252). -/
structure QMacro where
  pc : Nat
  bytes : List Byte
  cause : Nat := 0
  deriving DecidableEq, Repr

/-- State of a stream (R204, R238, R240, R254). -/
inductive StState where
  | idle | waiting | busy | stalled
  deriving DecidableEq, Repr

/-- One engine stream of a press (R203-R205, R235-R240). -/
structure Stream where
  /-- FETCH mode, otherwise PUSH (R204) -/
  fetch : Bool := false
  /-- fetching goes on: no END fetched (R238) -/
  fetching : Bool := false
  /-- program counter and fetch pointer (R238) -/
  pc : Nat := 0
  fp : Nat := 0
  /-- queue of at most 32 entries, oldest first (R204) -/
  queue : List QMacro := []
  /-- address registers a0-a7 (R235) -/
  areg : Tab AddrReg := []
  /-- status record FLAGS 5, SAT 32, INEXACT 32 (R240) -/
  flags : BitVec 5 := 0
  sat : Nat := 0
  inexact : Nat := 0
  /-- state (R254 ESTAT) -/
  st : StState := .idle
  /-- the head's wait has been performed (R233) -/
  waited : Bool := false
  /-- flags, SAT and INEXACT of the instruction in progress (R240) -/
  curFlags : BitVec 5 := 0
  curSat : Nat := 0
  curInexact : Nat := 0
  /-- draws the instruction still waits for (R209) -/
  draws : Nat := 0
  /-- start of the instruction in progress, and of RE1's hold, ns (R211, R223) -/
  began : Nat := 0
  heldAt : Nat := 0
  /-- regions (press address, bytes) that the instruction in progress writes (R230, model) -/
  dest : List (Nat × Nat) := []
  /-- what the instruction in progress has overwritten in pads, as (offset in all pads, old bytes), newest first: none
  (R206, model) -/
  before : List (Nat × List Byte) := []
  /-- weight tiles read so far for a TMM, as bytes by offset (R218, model) -/
  tiles : Tab Byte := []
  /-- the pour that RE1 holds, if any (R211), and the iteration it goes on with (R251) -/
  pours : List ContribP := []
  iter : Nat := 0
  deriving DecidableEq, Repr

/-- What a CP waits for. -/
inductive CpWait where
  | none
  | sem (global : Bool) (num count : Nat)
  | queue (e : Nat) (addr : Nat)
  | engines (mask : Nat)
  deriving DecidableEq, Repr

/-- The control processor (R252-R256). -/
structure Cp where
  /-- s1-s15 64: 0 (R252) -/
  regs : Tab (BitVec 64) := []
  pc : Nat := 0
  /-- the instruction at PC and the two fetched after it, each with the cause its fetch met, 0 for none (R252, R256) -/
  pipe : List (Nat × Nat) := []
  running : Bool := false
  halted : Bool := false
  wait : CpWait := .none
  deriving DecidableEq, Repr

/-- Context states (R227). -/
inductive CtxState where
  | empty | loaded | running | done | stopped | faulted
  deriving DecidableEq, Repr

/-- The layout of a context's partitions (R220); sizes in bytes. -/
structure Layout where
  padBase : Nat := 0
  padSize : Nat := 0
  imemBase : Nat := 0
  imemSize : Nat := 0
  dmemBase : Nat := 0
  dmemSize : Nat := 0
  lsFirst : Nat := 0
  lsCount : Nat := 0
  gsFirst : Nat := 0
  gsCount : Nat := 0
  deriving DecidableEq, Repr

/-- One context of a press (R220-R231). -/
structure Ctx where
  st : CtxState := .empty
  lay : Layout := {}
  /-- the layout that PRESS_LAUNCH 0x0682 has recorded for the next load, GS_FIRST 0xFFFF for firmware's choice: none (R319) -/
  recorded : Option Layout := none
  /-- initial values of the layout's local semaphores (R207, R224) -/
  semInit : List Nat := []
  /-- load set, rank in it, cellar range, spare range, bundle facts (R223-R226) -/
  set : BitVec 64 := 0
  rank : Nat := 0
  celBase : Nat := 0
  celSize : Nat := 0
  spareBase : Nat := 0
  spareSize : Nat := 0
  entry : Nat := 0
  maxBeats : Nat := 0
  bundleCrc : BitVec 32 := 0
  /-- the bundle image as PRESS_LOAD read it (R415) -/
  image : List Byte := []
  /-- vintage that was live at launch (R416) -/
  vintage : Nat := 0
  /-- first program counters of the streams with a code section (R224) -/
  code : Tab (Option Nat) := []
  /-- the launch command to answer (R229), its GID and pair -/
  launch : Option SpHdr := none
  gid : Nat := 0xFFFF
  layerId : BitVec 16 := 0
  operatorId : BitVec 16 := 0
  argBlock : List Byte := []
  /-- this press has finished (R229); waiting for IN_DIGEST or OUT_DIGEST (R415) -/
  finished : Bool := false
  inDigest : Option (List Byte) := none
  digestWait : Bool := false
  /-- the graceful PRESS_STOP that waits for the current macro-instructions: none (R230) -/
  stopFor : Option SpHdr := none
  startTime : Nat := 0
  /-- fault record: cause, stream, program counter, address (R260) -/
  cause : Nat := 0
  fstream : Nat := 0
  fpc : Nat := 0
  faddr : Nat := 0
  /-- state saved while descheduled (R221) -/
  saved : Option (Cp × List Stream) := none
  deriving DecidableEq, Repr

/-- A waiter of a semaphore, in order of arrival: engine 0-3, CP 4, or a tap as 5 plus its CKEY with context 8; its need
(R190, R208). -/
structure SemWaiter where
  press : Nat
  ctx : Nat
  who : Nat
  need : Nat
  deriving DecidableEq, Repr

/-- One press (R203). -/
structure Press where
  /-- LS0-LS63 16: 0 (R207) -/
  ls : Tab Nat := []
  /-- waiters of local semaphores: none (R208) -/
  lsWait : Tab (List SemWaiter) := []
  cp : Cp := {}
  streams : Tab Stream := []
  ctxs : Tab Ctx := []
  /-- context that runs: 0 (R221) -/
  cur : Nat := 0
  /-- quantum in us: 1000; when the present context's turn began, ns: 0; the switch is due: no (R222) -/
  quantum : Nat := 1000
  turnAt : Nat := 0
  switchDue : Option Nat := none
  /-- fenced or contained: no (R349, R281) -/
  fenced : Bool := false
  /-- corrected pad and CP errors: 0 (R213) -/
  padCorrected : Nat := 0
  deriving DecidableEq, Repr

/-- The presses and the semaphore unit (07, 08). -/
structure Presses where
  press : Tab Press := []
  /-- pads, keyed press x 2^21 + offset: 0 (R213) -/
  pad : Tab Byte := []
  /-- CP instruction memories, keyed press x 2^17 + offset: 0 (R252) -/
  imem : Tab Byte := []
  /-- CP data memories, keyed press x 2^18 + offset: 0 (R252) -/
  dmem : Tab Byte := []
  /-- injected or real errors of 64-bit words: 1 correctable, 2 uncorrectable (R213, R252, R356) -/
  padErr : Tab Nat := []
  imemErr : Tab Nat := []
  dmemErr : Tab Nat := []
  /-- GS0-GS4095 32: 0 (R210) -/
  gs : Tab Nat := []
  gsWait : Tab (List SemWaiter) := []
  deriving DecidableEq, Repr

/-- What a draw serves (R216, R262, R274, R276, R277): a copy of engine RE0 or RE1 between a pad and the cellar, a weight
tile, an access of a window with its number, the scrubber, the decant or refill of a vat, or another system partition,
whose contents the state holds outside the cellar's bytes (log 70). Offsets place the bytes within the access or tile. -/
inductive DrawUse where
  | toPad (press ctx engine pad : Nat)
  | fromPad (press ctx engine : Nat) (data : List Byte)
  | tile (press ctx off : Nat)
  | readAcc (acc off : Nat)
  | writeAcc (acc : Nat) (data : List Byte)
  | scrub
  | vat (v : Nat)
  /-- a piece of the copy of a packet into the retention store, a holder of its cask (R116, R137) -/
  | retain (cask : Nat)
  | system
  deriving DecidableEq, Repr

/-- An access to the cellar through a window, from its check until its last line has moved (R275). -/
structure Access where
  window : Nat
  epoch : Nat
  /-- generation of the window when it was checked (R275, model) -/
  gen : Nat := 0
  /-- draws still to complete -/
  left : Nat
  addr : Nat
  len : Nat
  read : Bool := true
  /-- the endpoint's request, none for PCIe -/
  req : Option Packet := none
  /-- delivery channel and number of the request -/
  chan : Option (Nat × Nat) := none
  /-- bytes read so far, by offset; whether a line was poisoned -/
  data : Tab Byte := []
  poisoned : Bool := false
  deriving DecidableEq, Repr

/-- One draw: at most 4 KiB in one stave (R216). -/
structure Draw where
  req : Nat
  addr : Nat
  len : Nat
  read : Bool := true
  use : DrawUse
  deriving DecidableEq, Repr

/-- Level, quota and PREEMPT settings of an arbiter (R277). -/
structure ArbSet where
  lvl : Tab (Option Nat) := []
  quota : Tab (Option Nat) := []
  preempt : Tab (Option Bool) := []
  deriving DecidableEq, Repr

/-- A stave arbiter (R277-R281). -/
structure Stave where
  /-- rank list of requesters: ID order (R278) -/
  rank : List Nat := List.range 11
  /-- level, quota and PREEMPT changed by CEL_ARB: none, the defaults of R277 -/
  lvl : Tab (Option Nat) := []
  quota : Tab (Option Nat) := []
  preempt : Tab (Option Bool) := []
  /-- settings of CEL_ARB set aside by POLICY_OVERRIDDEN: none (R302) -/
  aside : Option ArbSet := none
  /-- waiting draws, oldest first: none -/
  wait : List Draw := []
  /-- the granted draw: none; since when, ns -/
  grant : Option Draw := none
  grantAt : Nat := 0
  /-- the level at which the grant counts where it is not the requester's set level: 0 for one granted while masked, 3 for
  SCRUB after a window without a grant (R279): none -/
  grantAs : Option Nat := none
  /-- grants of the present quota window, in all and per requester: 0 (R279) -/
  inWindow : Nat := 0
  used : Tab Nat := []
  /-- SCRUB waited a whole window and is level 3 for its next request: no (R279) -/
  scrubBoost : Bool := false
  scrubWaited : Bool := false
  /-- fenced requester ports: none (R281) -/
  fenced : Tab Bool := []
  /-- scrub position in the stave: 0; start of the pass, ns: 0; FS 0x320 set for it: no (R282) -/
  scrubAt : Nat := 0
  scrubBegan : Nat := 0
  scrubLate : Bool := false
  /-- harvest counters: grants per requester, revoked, masked rounds (R418) -/
  grants : Tab Nat := []
  revoked : Nat := 0
  maskedRounds : Nat := 0
  deriving DecidableEq, Repr

/-- An access window (R273, R275). -/
structure Window where
  base : Nat := 0
  size : Nat := 0
  perm : Nat := 1
  srcValue : Nat := 0
  srcMask : Nat := 0x3FFFFFF
  pcie : Bool := false
  exists_ : Bool := false
  /-- EPOCH 16: 0 at creation -/
  epoch : Nat := 0
  /-- creations, changes and revocations of this number: 0 (R275, model) -/
  gen : Nat := 0
  gid : Nat := 0xFFFF
  deriving DecidableEq, Repr

/-- What differs in a stored line from a faultless one: symbols in error of codewords A and B, and the difference of the
stored TAG from the CRC-32C of the line's number and data (R264, R356). -/
structure LineErr where
  symA : Nat := 0
  symB : Nat := 0
  tag : BitVec 32 := 0
  deriving DecidableEq, Repr

/-- A CEL_ACCESS reply that waits until the accesses checked before it have drained (R275). -/
structure Fence where
  window : Nat
  /-- the window's generation after the command; accesses of earlier ones are waited for (model) -/
  gen : Nat
  epoch : Nat
  hdr : SpHdr
  deriving DecidableEq, Repr

/-- The cellar (09). -/
structure Cellar where
  /-- the 4 GiB by byte address: 0 (R265) -/
  mem : Tab Byte := []
  /-- ranges of stave offsets whose contents the last plan changes left open, with the free number: none; lines of them
  written since (R272) -/
  stale : List (Nat × Nat × Nat) := []
  known : Tab Bool := []
  /-- POISON per line: 0 (R264) -/
  poison : Tab Bool := []
  /-- line errors (R264, R266, R356): none -/
  err : Tab LineErr := []
  /-- context save areas, keyed press x 8 + context: 1 plus the free number of the contents that the last switch wrote,
  whose form is firmware's own: 0, never written (R221, R262) -/
  saves : Tab Nat := []
  /-- plan: tables, retention, decant, extension in 4 MiB: the default plan (R270) -/
  plan : List Nat := [16, 96, 128, 0]
  /-- windows 1-1023: none (R273) -/
  windows : Tab Window := []
  /-- draws of system partitions requested so far: 0 (R270, model) -/
  nextSys : Nat := 0
  /-- accesses in flight, and the number of the next one: none (R275) -/
  accesses : Tab (Option Access) := []
  nextAcc : Nat := 0
  /-- fenced CEL_ACCESS replies that wait: none (R275) -/
  fences : List Fence := []
  /-- staves: `Stave` defaults (R277) -/
  staves : Tab Stave := []
  /-- a plan change, or a move to profile 2 or 3, holds reliable traffic back: no (R272, R376) -/
  changing : Bool := false
  /-- bytes used in retention and decant: 0 (R116, R187) -/
  retained : Nat := 0
  decanted : Nat := 0
  /-- poisoned lines the scrubber skipped: 0 (R282) -/
  skipped : Nat := 0
  /-- when the tiers last left off, ns: no scrub pass began earlier: 0 (R265, R282) -/
  scrubFrom : Nat := 0
  /-- requesters granted since the tiers left off: the initialisation is done (R265) -/
  ready : Bool := false
  deriving DecidableEq, Repr

/-- Kinds of guarantee (R284) with their claims. -/
inductive Claim where
  | contract (ckey deadline : Nat)
  | sync (id deadline : Nat)
  | launch (presses : BitVec 64) (ctx bound beats stave remote : Nat)
  | window (w claim : Nat)
  | gates (link : Nat) (claims : List Nat)
  | power (cap : Nat)
  deriving DecidableEq, Repr

/-- States of the guarantee records that are held (R285); a closed one is held no more. -/
inductive GState where
  | admitted | atRisk
  deriving DecidableEq, Repr

/-- A guarantee record (R285). -/
structure Guarantee where
  gid : Nat
  claim : Claim
  st : GState := .admitted
  deriving DecidableEq, Repr

/-- Admission (10). -/
structure Admission where
  /-- records in admission order: none (R285) -/
  records : List Guarantee := []
  nextGid : Nat := 0
  /-- a re-run is due: no (R301) -/
  rerun : Bool := false
  /-- constraints set aside: power cap, pins (R302) -/
  capAside : Bool := false
  pinsAside : List Nat := []
  deriving DecidableEq, Repr

/-- Power domain states (R24, R25, R372). -/
inductive DomState where
  | off | retention | active
  deriving DecidableEq, Repr

/-- One power domain (R372-R384). -/
structure Domain where
  st : DomState := .off
  /-- transition under way toward (R372): none -/
  going : Option DomState := none
  /-- software floor mV: 0, none (R374); set aside by POLICY_OVERRIDDEN: no (R374, R302) -/
  floor : Nat := 0
  floorAside : Bool := false
  /-- setpoint mV: DESIGN CHOICE 720 (log 5) (R382) -/
  setpoint : Nat := 720
  /-- measured mV: 0 (R418) -/
  measured : Nat := 0
  /-- junction temperature in 0.1 C: DESIGN CHOICE 0 (log 5) (R384) -/
  tj : Int := 0
  /-- DROPOUT: 0 (R381) -/
  dropout : Bool := false
  /-- press issue is paced: no (R381, R383, R384) -/
  paced : Bool := false
  /-- ageing: last corrected canary readings, base readings, last drifts in ppm (R360) -/
  base : List Nat := []
  last : List Nat := []
  drifts : List Nat := []
  /-- stress in units of 2^-32 of 0.01 equivalent hours, powered minutes, and the sum of the minutes' temperatures in
  0.001 C (R362): 0 -/
  stress : Nat := 0
  poweredMin : Nat := 0
  tempSum : Int := 0
  /-- live vintage's FLOOR_MV, CEIL_MV, ASSURED, LEAK_MW, DYN_MW: DESIGN CHOICE (log 5) (R361); ASSURED of D0 and
  D4-D11 is 0 by `State.assured` -/
  floorMv : Nat := 720
  ceilMv : Nat := 800
  assured : Nat := 1710
  leakMw : Nat := 0
  dynMw : Nat := 0
  deriving DecidableEq, Repr

/-- A commanded board rail (R378-R380). -/
structure Rail where
  /-- PMBus address 7 and COMMANDED (R398) -/
  addr : Nat := 0x40
  commanded : Bool := false
  /-- VOUT_MODE read and found linear (R379) -/
  modeRead : Bool := false
  /-- not commandable until the next boot (R379) -/
  dead : Bool := false
  /-- voltage last commanded, or the strapped boot voltage, mV: DESIGN CHOICE 750 (log 5) (R380) -/
  mv : Nat := 750
  /-- transactions in a row whose PEC failed (R379) -/
  fails : Nat := 0
  /-- OPERATION last sent was on (R379): yes -/
  on : Bool := true
  deriving DecidableEq, Repr

/-- What a plan sets for one domain (R363). -/
structure PlanDom where
  domain : Nat
  floorMv : Nat
  ceilMv : Nat
  assured : Nat
  leakMw : Nat
  dynMw : Nat
  deriving DecidableEq, Repr

/-- A vintage plan in progress (R363, R364). -/
structure Plan where
  number : Nat
  cause : Nat
  doms : List PlanDom
  /-- the cause it was planned for, before a budget limit made it 4 -/
  asked : Nat
  deriving DecidableEq, Repr

/-- Power, temperature, vintage (13, 14). -/
structure Power where
  domains : Tab Domain := []
  /-- rails VDD_PRS, VDD_SWC, VDD_CEL: addresses 0x40, 0x41, 0x42 (R379) -/
  rails : Tab Rail := [(1, { addr := 0x41 }), (2, { addr := 0x42 })]
  /-- PWR_CAP mW, 0 none: 0 (R383) -/
  cap : Nat := 0
  capGid : Nat := 0xFFFF
  /-- samples of the last 1 ms, newest first: none (R383) -/
  samples : List Nat := []
  /-- averaged power, mW: 0 (R383) -/
  avg : Nat := 0
  /-- the cap paces contexts without a guarantee, since this time: none (R383) -/
  capPace : Option Nat := none
  /-- live vintage number 64: DESIGN CHOICE 1 (log 5) (R361) -/
  vintage : Nat := 1
  planned : Nat := 0
  cause : Nat := 0
  /-- CEL_FJ_PER_B 16: DESIGN CHOICE 0 (log 5) (R361) -/
  celFj : Nat := 0
  /-- plan in progress (R363, R364) -/
  plan : Option Plan := none
  /-- a vintage is due: (cause) (R363) -/
  planDue : Option Nat := none
  /-- profile 2 or 3 entered after its phase-3 event (R376): none -/
  profileOff : Option Nat := none
  deriving DecidableEq, Repr

/-- Firmware images and update (R397-R408). -/
structure Fw where
  /-- FW_VERSION 32: 0 (R334) -/
  version : BitVec 32 := 0
  /-- firmware feature set 256: DESIGN CHOICE bits 0-12 (log 5) (R326) -/
  features : BitVec 256 := 0x1FFF
  /-- HANDOVER 16 of the running firmware: DESIGN CHOICE 1 (log 5) (R400) -/
  handover : Nat := 1
  /-- version in the active slot: DESIGN CHOICE 1 (log 5) (R397) -/
  activeVersion : BitVec 32 := 1
  /-- staging slot bytes by offset: erased, 0xFF as DESIGN CHOICE 0 unlisted (R406) -/
  staging : Tab Byte := []
  /-- (offset, length) written since the erase: none (R406) -/
  written : List (Nat × Nat) := []
  owner : Option Nat := none
  verified : Bool := false
  /-- header of the FW_ACTIVATE that the new firmware answers: none (R408) -/
  activating : Option SpHdr := none
  /-- a background copy of staging to active runs (R401) -/
  copying : Bool := false
  /-- identity only after a fuse fault or in SCRAPPED (R412, R409) -/
  identityOnly : Bool := false
  deriving DecidableEq, Repr

/-- The state of the device. -/
structure State where
  ident : Ident := {}
  ctl : Ctl := {}
  svc : Svc := {}
  faults : Faults := {}
  time : Time := {}
  aon : Aon := {}
  tele : Telemetry := {}
  links : Links := {}
  sw : Switch := {}
  fab : Fabric := {}
  vats : Vats := {}
  sync : Tab Counter := []
  press : Presses := {}
  cel : Cellar := {}
  adm : Admission := {}
  pwr : Power := {}
  fw : Fw := {}
  /-- SMBus INDEX 6: 0 (R436) -/
  smbIndex : Nat := 0
  /-- what has been sent, newest first (model): nothing -/
  out : List Out := []
  /-- free values used so far (model): DESIGN CHOICE 0 (log 7) -/
  free : Nat := 0
  /-- commands that wait, first in first out (model): none -/
  pending : List Instr := []
  deriving DecidableEq, Repr

/-- Why a command stops the block. -/
inductive Fault where
  /-- Raised by no meaning: the spec gives every command an effect. Safe. -/
  | unused
  deriving DecidableEq, Repr

/-- Why a command has no meaning. -/
inductive Refusal where
  /-- Raised by the dispatch for a command whose meaning is not written yet. Safe. -/
  | notModelled (mnemonic : String)
  deriving DecidableEq, Repr

/-- The device right after D0 power-on with SYS_RST_N (R332, R386): nothing has booted (log 4). -/
def State.reset : State := {}

end Sys2Proof.Machine
end

