-- ==== Sys2Proof/Machine/Ops.lean ====
section
/-!
DEFINITION. The shared operations: sparse tables, bytes and fields, accessors of the state's units, and what the
device sends: host-ring records, interrupts, Spagil messages and originated packets.
-/

namespace Sys2Proof.Machine

/-! ### Sparse tables -/

/-- The value of key `k`: the first one listed, otherwise the default. -/
def look {α : Type} (d : α) : Tab α → Nat → α
  | [], _ => d
  | (k, v) :: t, j => if k = j then v else look d t j

/-- Remove every entry of key `k`. -/
def unlist {α : Type} (k : Nat) : Tab α → Tab α
  | [] => []
  | (j, v) :: t => if j = k then unlist k t else (j, v) :: unlist k t

/-- List `v` under key `k`, keys rising. -/
def enlist {α : Type} (k : Nat) (v : α) : Tab α → Tab α
  | [] => [(k, v)]
  | (j, w) :: t => if j = k then (k, v) :: t else if k < j then (k, v) :: (j, w) :: t else (j, w) :: enlist k v t

/-- Set key `k` to `v`; a default value is not listed. -/
def put {α : Type} [DecidableEq α] (d : α) (t : Tab α) (k : Nat) (v : α) : Tab α :=
  if v = d then unlist k t else enlist k v t

/-- The canonical form: keys strictly rising, no default value listed. -/
def canon {α : Type} [DecidableEq α] (d : α) : Tab α → Bool
  | [] => true
  | (k, v) :: t => decide (v ≠ d) && t.all (fun e => decide (k < e.1)) && canon d t

/-- A byte memory is in canonical form: unlisted bytes read 0 (R265, R372, log 6). -/
def Memory.wf (m : Tab Byte) : Bool := canon 0 m

/-! ### Numbers, bytes and fields -/

/-- Little-endian value of a byte list (00 Notation). -/
def leNat : List Byte → Nat
  | [] => 0
  | b :: bs => b.toNat + 256 * leNat bs

/-- The `n` little-endian bytes of a number. -/
def leBytes : Nat → Nat → List Byte
  | 0, _ => []
  | n + 1, v => BitVec.ofNat 8 v :: leBytes n (v / 256)

/-- Bits `hi` down to `lo` of a number. -/
def bits (v hi lo : Nat) : Nat := v / 2 ^ lo % 2 ^ (hi + 1 - lo)

/-- Bit `i` of a number. -/
def bit (v i : Nat) : Bool := v / 2 ^ i % 2 = 1

/-- The number of a Boolean. -/
def b01 (b : Bool) : Nat := if b then 1 else 0

/-- `w`-bit two's-complement value of a number. -/
def signed (w v : Nat) : Int := if bit (v % 2 ^ w) (w - 1) then (v % 2 ^ w : Nat) - (2 ^ w : Nat) else (v % 2 ^ w : Nat)

/-- `w`-bit two's-complement code of an integer. -/
def unsigned (w : Nat) (v : Int) : Nat := (v % (2 ^ w : Nat)).toNat

/-- Quotient rounded up. -/
def ceilDiv (a b : Nat) : Nat := (a + b - 1) / b

/-- `n` bytes of a byte memory from address `a`. -/
def readMem (m : Tab Byte) (a n : Nat) : List Byte := (List.range n).map fun i => look 0 m (a + i)

/-- Write bytes in ascending address order. -/
def writeMem (m : Tab Byte) (a : Nat) : List Byte → Tab Byte
  | [] => m
  | b :: bs => writeMem (put 0 m a b) (a + 1) bs

/-- The numbers whose bits are set in a mask, ascending. -/
def members (n mask : Nat) : List Nat := (List.range n).filter fun i => bit mask i

/-- A counter of `w` bits that saturates (R343). -/
def satAdd (w : Nat) (c : BitVec w) (k : Nat) : BitVec w := BitVec.ofNat w (min (2 ^ w - 1) (c.toNat + k))

/-- Remove the entries of `n` keys from `lo`. -/
def clearRange {α : Type} (t : Tab α) (lo n : Nat) : Tab α := t.filter fun e => !(decide (lo ≤ e.1) && decide (e.1 < lo + n))

/-- Replace the first element a test accepts. -/
def replaceFirst {α : Type} (p : α → Bool) (f : α → α) : List α → List α
  | [] => []
  | x :: xs => if p x then f x :: xs else x :: replaceFirst p f xs

/-! ### Check codes -/

/-- One byte of CRC-32C in its reflected form (R123, R223, R264). -/
def crc32cByte (c : BitVec 32) (b : Byte) : BitVec 32 :=
  (List.range 8).foldl (fun (c : BitVec 32) _ => if c.getLsbD 0 then (c >>> 1) ^^^ 0x82F63B78#32 else c >>> 1)
    (c ^^^ b.setWidth 32)

/-- The CRC-32C of iSCSI (RFC 3720, R264). -/
def crc32c (bs : List Byte) : BitVec 32 := ~~~ (bs.foldl crc32cByte 0xFFFFFFFF#32)

/-- Split `n` bytes from `addr` at multiples of `size`: (address, length) pieces; `k` bounds the number of pieces. -/
def pieces (size : Nat) : Nat → Nat → Nat → List (Nat × Nat)
  | 0, _, _ => []
  | k + 1, addr, n =>
    if n = 0 then []
    else
      let m := min n (size - addr % size)
      (addr, m) :: pieces size k (addr + m) (n - m)

def piecesOf (size addr n : Nat) : List (Nat × Nat) := pieces size (n / size + 2) addr n

/-! ### Units of the state -/

namespace State

/-- Fabric time in whole nanoseconds (R340). -/
def ns (s : State) : Nat := s.time.now / 2 ^ 40 % 2 ^ 64

/-- Nanoseconds counted without the steps of fabric time: ages and timers are differences of this count, so a step
does not change them (R393). -/
def mono (s : State) : Nat := (((s.time.now : Int) - s.time.stepped) / 2 ^ 40).toNat

/-- Fabric time in TIME_TX format: nanoseconds modulo 2^48 and 16 fraction bits (R66). -/
def timeTx (s : State) : BitVec 64 := BitVec.ofNat 64 (s.time.now / 2 ^ 24)

def emit (s : State) (o : Out) : State := { s with out := o :: s.out }

def ring (s : State) (r : Nat) : Ring := look {} s.svc.rings r

def setRing (s : State) (r : Nat) (v : Ring) : State :=
  { s with svc := { s.svc with rings := put {} s.svc.rings r v } }

def source (s : State) (k : Nat) : Source := look {} s.svc.sources k

def setSource (s : State) (k : Nat) (v : Source) : State :=
  { s with svc := { s.svc with sources := put {} s.svc.sources k v } }

def port (s : State) (p : Nat) : Port := look {} s.links.ports p

def setPort (s : State) (p : Nat) (v : Port) : State :=
  { s with links := { s.links with ports := put {} s.links.ports p v } }

def link (s : State) (l : Nat) : Link := look {} s.links.links l

def setLink (s : State) (l : Nat) (v : Link) : State :=
  { s with links := { s.links with links := put {} s.links.links l v } }

def lane (s : State) (l : Nat) : Lane := look {} s.links.lanes l

def setLane (s : State) (l : Nat) (v : Lane) : State :=
  { s with links := { s.links with lanes := put {} s.links.lanes l v } }

def cask (s : State) (c : Nat) : Cask := look {} s.sw.casks c

def setCask (s : State) (c : Nat) (v : Cask) : State :=
  { s with sw := { s.sw with casks := put {} s.sw.casks c v } }

def queue (s : State) (q : Nat) : Queue := look {} s.sw.queues q

def setQueue (s : State) (q : Nat) (v : Queue) : State :=
  { s with sw := { s.sw with queues := put {} s.sw.queues q v } }

def policer (s : State) (q : Nat) : Policer := look {} s.sw.policers q

def setPolicer (s : State) (q : Nat) (v : Policer) : State :=
  { s with sw := { s.sw with policers := put {} s.sw.policers q v } }

def gate (s : State) (l : Nat) : Gates := look {} s.sw.gates l

def setGate (s : State) (l : Nat) (v : Gates) : State :=
  { s with sw := { s.sw with gates := put {} s.sw.gates l v } }

def account (s : State) (a : Nat) : Account := look {} s.sw.accounts a

def setAccount (s : State) (a : Nat) (v : Account) : State :=
  { s with sw := { s.sw with accounts := put {} s.sw.accounts a v } }

def dim (s : State) (d : Nat) : Dim := look {} s.fab.dims d

def setDim (s : State) (d : Nat) (v : Dim) : State :=
  { s with fab := { s.fab with dims := put {} s.fab.dims d v } }

def slot (s : State) (l : Nat) : EpSlot := look {} s.fab.slots l

def setSlot (s : State) (l : Nat) (v : EpSlot) : State :=
  { s with fab := { s.fab with slots := put {} s.fab.slots l v } }

def inCh (s : State) (f : Nat) : InCh := look {} s.fab.inCh f

def setInCh (s : State) (f : Nat) (v : InCh) : State :=
  { s with fab := { s.fab with inCh := put {} s.fab.inCh f v } }

def egCh (s : State) (f : Nat) : EgCh := look {} s.fab.egCh f

def setEgCh (s : State) (f : Nat) (v : EgCh) : State :=
  { s with fab := { s.fab with egCh := put {} s.fab.egCh f v } }

def hold (s : State) (a : Nat) : Hold := look {} s.fab.holds a

def setHold (s : State) (a : Nat) (v : Hold) : State :=
  { s with fab := { s.fab with holds := put {} s.fab.holds a v } }

def limiter (s : State) (k : Nat) : Limiter := look {} s.fab.limiters k

def setLimiter (s : State) (k : Nat) (v : Limiter) : State :=
  { s with fab := { s.fab with limiters := put {} s.fab.limiters k v } }

def contract (s : State) (k : Nat) : Option Contract := look none s.vats.contracts k

def setContract (s : State) (k : Nat) (v : Option Contract) : State :=
  { s with vats := { s.vats with contracts := put none s.vats.contracts k v } }

def vat (s : State) (v : Nat) : Vat := look {} s.vats.vats v

def setVat (s : State) (v : Nat) (x : Vat) : State :=
  { s with vats := { s.vats with vats := put {} s.vats.vats v x } }

def counter (s : State) (i : Nat) : Counter := look {} s.sync i

def setCounter (s : State) (i : Nat) (v : Counter) : State := { s with sync := put {} s.sync i v }

def pr (s : State) (p : Nat) : Press := look {} s.press.press p

def setPr (s : State) (p : Nat) (v : Press) : State :=
  { s with press := { s.press with press := put {} s.press.press p v } }

def stave (s : State) (n : Nat) : Stave := look {} s.cel.staves n

def setStave (s : State) (n : Nat) (v : Stave) : State :=
  { s with cel := { s.cel with staves := put {} s.cel.staves n v } }

def window (s : State) (w : Nat) : Window := look {} s.cel.windows w

def setWindow (s : State) (w : Nat) (v : Window) : State :=
  { s with cel := { s.cel with windows := put {} s.cel.windows w v } }

def domain (s : State) (d : Nat) : Domain := look {} s.pwr.domains d

def setDomain (s : State) (d : Nat) (v : Domain) : State :=
  { s with pwr := { s.pwr with domains := put {} s.pwr.domains d v } }

def rail (s : State) (r : Nat) : Rail := look {} s.pwr.rails r

def setRail (s : State) (r : Nat) (v : Rail) : State :=
  { s with pwr := { s.pwr with rails := put {} s.pwr.rails r v } }

def setAon (s : State) (v : Aon) : State := { s with aon := v }

def setTime (s : State) (v : Time) : State := { s with time := v }

def setPwr (s : State) (v : Power) : State := { s with pwr := v }

def setCtl (s : State) (v : Ctl) : State := { s with ctl := v }

def setFab (s : State) (v : Fabric) : State := { s with fab := v }

def setSw (s : State) (v : Switch) : State := { s with sw := v }

def setCel (s : State) (v : Cellar) : State := { s with cel := v }

/-- Take a fresh free value's number (log 7). -/
def fresh (s : State) : Nat × State := (s.free, { s with free := s.free + 1 })

/-- PCIe is up while the control complex is powered (R372, R376). -/
def pcieUp (s : State) : Bool := (s.domain 1).st = .active

/-! ### Identity -/

/-- The life-cycle state: the highest target whose commit group is burned (R410). -/
def lcState (s : State) : Nat :=
  if 12 ≤ look 0 s.ident.lcCommit 4 then 4 else if 12 ≤ look 0 s.ident.lcCommit 3 then 3
  else if 12 ≤ look 0 s.ident.lcCommit 2 then 2 else if 12 ≤ look 0 s.ident.lcCommit 1 then 1 else 0

/-- GRADE_PINNED: the pin applied, otherwise GRADE_FUSED (R334, R414). -/
def gradePinned (s : State) : Nat := s.ident.pinApplied.getD s.ident.gradeFused

/-- Press `n` is enabled by fuse and not masked: the pin keeps the lowest-numbered enabled presses (R2, R414). -/
def pressEnabled (s : State) (n : Nat) : Bool :=
  n < 64 && bit s.ident.pressFused.toNat n &&
    (members n s.ident.pressFused.toNat).length < s.gradePinned

/-- PRESS_ENABLED: enabled presses that no containment holds (R334, R349). -/
def pressMask (s : State) : BitVec 64 :=
  BitVec.ofNat 64 (((List.range 64).filter fun n => s.pressEnabled n && !(s.pr n).fenced).foldl (fun m n => m + 2 ^ n) 0)

/-! ### Interrupts and host rings -/

/-- Raise an MSI-X vector (R345). -/
def msix (s : State) (v : Nat) : State := s.emit (.msix v)

/-- A host ring of records is full with one entry free (R341, log 9). -/
def recFull (r : RecRing) : Bool := (r.prod + 1) % 2 ^ r.sizeK = r.cons % 2 ^ r.sizeK

def recPush (r : RecRing) : RecRing := { r with prod := (r.prod + 1) % 2 ^ r.sizeK }

def recDrop (r : RecRing) : RecRing := { r with dropped := min (2 ^ 32 - 1) (r.dropped + 1) }

/-- Write an event record: counted in DROPPED when the ring is full; vector 5 (R341, R419, R420). -/
def logEvent (s : State) (e : EvRec) : State :=
  let r := s.tele.events
  if !r.enable then s
  else if recFull r then { s with tele := { s.tele with events := recDrop r } }
  else ({ s with tele := { s.tele with events := recPush r } }.emit (.eventRec r.prod { e with time := s.ns })).msix 5

/-- Write a harvest record (R418, R419). -/
def logHarvest (s : State) (ty index layer op : Nat) (payload : List (Nat × Nat)) : State :=
  let r := s.tele.harvest
  if !r.enable then s
  else if recFull r then { s with tele := { s.tele with harvest := recDrop r } }
  else ({ s with tele := { s.tele with harvest := recPush r } }.emit
    (.harvestRec r.prod ty index layer op s.ns payload)).msix s.tele.vector

end State

/-! ### The layout rule of parameter blocks (R307) -/

/-- Bytes a field of `w` bits occupies. -/
def fieldBytes (w : Nat) : Nat :=
  if w ≤ 8 then 1 else if w ≤ 16 then 2 else if w ≤ 32 then 4 else if w ≤ 64 then 8 else ceilDiv w 64 * 8

/-- The offset after a field of `w` bits that starts at or after `off`. -/
def fieldEnd (off w : Nat) : Nat :=
  let s := fieldBytes w
  let a := min s 8
  ceilDiv off a * a + s

/-- PLEN of a field list: the end of the last field, rounded up to a multiple of 8. -/
def plenOf (ws : List Nat) : Nat := ceilDiv (ws.foldl fieldEnd 0) 8 * 8

/-- The bytes of a field list. -/
def layoutBytes (fs : List (Nat × Nat)) : List Byte :=
  let go := fs.foldl (fun (bs : List Byte) (f : Nat × Nat) =>
    let s := fieldBytes f.1
    let a := min s 8
    bs ++ List.replicate (ceilDiv bs.length a * a - bs.length) 0 ++ leBytes s f.2) []
  go ++ List.replicate (ceilDiv go.length 8 * 8 - go.length) 0

/-- A pass visits object `pos` at `now`: an object no later than the last begins a new pass. True when the pass that was running
has taken longer than `limit`, once for each pass (R357, log 134). -/
def Pass.visit (p : Pass) (pos now limit : Nat) : Pass × Bool :=
  let late := p.began.any (fun t => decide (t + limit < now)) && !p.late
  (if p.began.isNone || pos ≤ p.place then { place := pos, began := some now, late := false }
   else { p with place := pos, late := p.late || late }, late)

/-- The bytes of a reply or event: the header of R305 and its parameters. -/
def msgBytes (m : SpMsg) : List Byte :=
  let ps := layoutBytes m.params
  [1, if m.event then 0x80 else 0x40] ++ leBytes 2 m.opcode.toNat ++ leBytes 4 m.tag.toNat ++ leBytes 4 ps.length
  ++ [m.auth, 0] ++ leBytes 2 m.layerId.toNat ++ leBytes 2 m.operatorId.toNat ++ leBytes 2 m.status.toNat
  ++ leBytes 4 0 ++ leBytes 8 m.time ++ leBytes 4 ((m.fna.map fun f => f + 2 ^ 31).getD 0)
  ++ leBytes 4 m.retryAfter ++ leBytes 2 m.gid ++ [BitVec.ofNat 8 m.phase, BitVec.ofNat 8 m.phases]
  ++ leBytes 4 m.detail ++ List.replicate 16 0 ++ ps

namespace State

/-! ### Packets the device originates and messages of command service -/

/-- The device's own endpoint address: FNA in bits 25:8 (R102, R103). -/
def ownAddr (s : State) : BitVec 26 := BitVec.ofNat 26 (s.fab.fna.getD 0 * 256)

/-- Hand a packet to the ORIGIN account: it takes its cask when the egress side next serves it (R139, log 10). The
numbers are the links it must leave on, from one cask (R143); or one of 256, for a packet to be routed; 257, for a
retransmission; 258 + f, for a packet to be forwarded toward FNA f; and 2^20, for a packet of the replay vats, which is
charged to the VAT account (R29, R139). -/
def originateMany (s : State) (on : List Nat) (p : Packet) : State :=
  if on.isEmpty then s else { s with sw := { s.sw with originWait := s.sw.originWait ++ [(on, p)] } }

def originate (s : State) (on : Nat) (p : Packet) : State := s.originateMany [on] p

/-- Entries of a reply ring that are neither written and unread nor reserved (R313). -/
def rrFree (r : Ring) : Nat :=
  2 ^ r.sizeK - 1 - ((r.rrProd + 2 ^ r.sizeK - r.rrHead) % 2 ^ r.sizeK) - r.reserved

/-- Write one RR entry (R312). -/
def rrWrite (s : State) (k : Nat) (m : SpMsg) : State :=
  let r := s.ring k
  let n := (r.rrProd + 1) % 2 ^ r.sizeK
  ((s.setRing k { r with rrProd := n, wrap := if n = 0 then !r.wrap else r.wrap }).emit
    (.rrEntry k r.rrProd r.wrap r.crHead m)).msix k

/-- Send a message to a source: a ring entry, held while the RR is full (R313), or a SPAGIL packet on TC7 to the
command's SRC (R314). `useReserved` marks a command's reply, for which an entry was reserved. -/
def sendMsg (s : State) (src : Nat) (devsrc useReserved : Bool) (m : SpMsg) : State :=
  if src < 4 then
    let r := s.ring src
    if !r.enable then s
    else if useReserved && 0 < r.reserved then (s.setRing src { r with reserved := r.reserved - 1 }).rrWrite src m
    else if 0 < rrFree r && r.held.isEmpty then s.rrWrite src m
    else s.setRing src { r with held := r.held ++ [m] }
  else
    s.originate 256 { ty := 0x08, tc := 7, devt := devsrc, dst := BitVec.ofNat 26 (src - 4), src := s.ownAddr,
                      payload := msgBytes m }

/-- A reply or event to a command (R305, R306). -/
def message (s : State) (h : SpHdr) (event : Bool) (status : Nat) : SpMsg :=
  { event := event, opcode := h.opcode, tag := h.tag, auth := h.auth, layerId := h.layerId, operatorId := h.operatorId,
    status := BitVec.ofNat 16 status, time := s.ns, fna := s.fab.fna }

/-- An event of a command; events of a phased command may raise vector 6 (R322, R335). -/
def sendEvent (s : State) (h : SpHdr) (m : SpMsg) : State := s.sendMsg h.src h.devsrc false { m with event := true }

end State

end Sys2Proof.Machine
end

