-- ==== Sys2Proof/Machine/Casks.lean ====
section
/-!
DEFINITION. Casks, accounts and the shared pool (R132-R141), and the links of a port.
-/

namespace Sys2Proof.Machine

/-- The size of a cask of pool `k` (R132). -/
def caskSize (k : Nat) : Nat := 256 * 4 ^ k

/-- Stored length B of a packet (R135). -/
def storedLen (p : Packet) : Nat := 32 + 16 * ceilDiv p.payload.length 16

/-- The smallest pool whose casks hold `b` bytes (R135). -/
def poolFor (b : Nat) : Nat := if b ≤ 256 then 0 else if b ≤ 1024 then 1 else if b ≤ 4096 then 2 else 3

/-- Bytes of a stave: 64 MiB (R262). -/
def staveBytes : Nat := 2 ^ 26

/-- Casks are numbered pool × 2^20 + index. -/
def caskPool (c : Nat) : Nat := c / 2 ^ 20

namespace State

/-! ### Draws requested (R216, R277) -/

/-- Place a draw behind the other requests of its stave (R277). -/
def request (s : State) (req addr len : Nat) (use : DrawUse) : State :=
  let n := addr / staveBytes
  let v := s.stave n
  s.setStave n { v with wait := v.wait ++ [{ req := req, addr := addr, len := len, use := use }] }

/-- Bytes of partition `k` of the plan in each stave: tables, retention, decant, extension (R270). -/
def stavePart (s : State) (k : Nat) : Nat := s.cel.plan.getD k 0 * 65536

/-- Draws of a system partition `part` for `n` bytes (R270, R277). The spec does not say where in the partition an object
lies: successive draws go to successive staves (log 70). -/
def systemDraws (s : State) (req part n : Nat) (use : DrawUse) : State :=
  let size := s.stavePart part
  if size = 0 then s
  else
    let base := ((List.range part).map s.stavePart).sum
    (piecesOf 4096 0 n).foldl (fun s p =>
      let k := s.cel.nextSys
      let s : State := { s with cel := { s.cel with nextSys := k + 1 } }
      s.request req (k % 64 * staveBytes + base + k / 64 * 4096 % size) p.2 use) s

/-- A cask of the cellar extension: it lies behind the casks of its pool's base die (R136, R270). -/
def extension (s : State) (c : Nat) : Bool := 2 ≤ caskPool c && s.sw.pools.getD (caskPool c) 0 ≤ c % 2 ^ 20

/-- The draws that write or read `n` bytes of an extension cask (R136, R277). -/
def extensionDraws (s : State) (c n : Nat) : State := if s.extension c then s.systemDraws 6 3 n .system else s

/-- Bytes of the extension's casks that are held. -/
def extensionBytes (s : State) : Nat :=
  ((s.sw.casks.filter fun e => e.2.alloc && s.extension e.1).map fun e => caskSize (caskPool e.1)).sum

/-! ### Links and casks -/

/-- Links of a port under its split: their lowest sublanes (R62). -/
def sublanes (s : State) (p : Nat) : List Nat :=
  match (s.port p).split with
  | 0 => [0]
  | 1 => [0, 2]
  | _ => [0, 1, 2, 3]

/-- The links of a port, numbered by their lowest lane (R317). -/
def linksOf (s : State) (p : Nat) : List Nat := (s.sublanes p).map fun l => p * 4 + l

/-- Every link of the device. -/
def allLinks (s : State) : List Nat := (List.range 64).flatMap s.linksOf

/-- Width in lanes that a port's split gives its links (R62). -/
def splitWidth (s : State) (p : Nat) : Nat :=
  match (s.port p).split with
  | 0 => 4
  | 1 => 2
  | _ => 1

/-- A link is a dimension link when its port is mapped to a dimension (R98). -/
def linkDim (s : State) (l : Nat) : Option Nat := (look none s.fab.map (l / 4)).map Prod.fst

/-- Ports of a dimension, in member order (R98). -/
def bundle (s : State) (d : Nat) : List Nat :=
  (List.range 8).flatMap fun m => (List.range 64).filter fun p => look none s.fab.map p = some (d, m)

/-- A link of two devices (R80): after discovery a mapped one; before it a whole port counts as one, as in the default
configuration of R132 (log 60). -/
def deviceLink (s : State) (l : Nat) : Bool :=
  if s.fab.disc = .idle then (s.port (l / 4)).split = 0 else (s.linkDim l).isSome

/-- The account that a cask is charged to and the casks it holds; a count is a 9-bit one (R137). -/
def holders (n : Nat) : Nat := n % 512

/-- Guaranteed minimum G and ceiling C of an account, in bytes (R139). -/
def acctLimits (s : State) (a : Nat) : Nat × Nat :=
  let gc := s.sw.limits.getD (if a < 2048 then 0 else a - 2047) (0, 0)
  (gc.1 * 4096, gc.2 * 4096)

/-- Σ G over the accounts that exist. -/
def guaranteedBytes (s : State) : Nat :=
  s.allLinks.length * 8 * (s.acctLimits 0).1 + (s.acctLimits 2048).1 + (s.acctLimits 2049).1

/-- Total cask bytes: casks of the pools and the extension, less the retired ones (R134, R139). -/
def caskBytes (s : State) : Nat :=
  ((List.range 4).map fun k => s.sw.pools.getD k 0 * caskSize k).sum
    + ((List.range 2).map fun k => s.sw.ext.getD k 0 * caskSize (k + 2)).sum - s.sw.retiredBytes

/-- The shared pool S (R139); casks retired later may make it negative (R134). -/
def sharedPool (s : State) : Int := (s.caskBytes : Int) - s.guaranteedBytes

/-- A plan change runs, or the device leaves for profile 2 or 3: no credits to endpoints, no reliable packets originated,
no decant or refill, no extension casks (R272, R376). -/
def planChanging (s : State) : Bool := s.cel.changing

/-- Casks of pool `k` that may be allocated: those of the base die, then those of the extension (R136). While a new
division is prepared only casks that lie inside both divisions are (R138). -/
def poolCasks (s : State) (k : Nat) : Nat :=
  if s.sw.newPools.isEmpty then s.sw.pools.getD k 0 + (if 2 ≤ k && !s.planChanging then s.sw.ext.getD (k - 2) 0 else 0)
  else min (s.sw.pools.getD k 0) (s.sw.newPools.getD k 0)

/-- The lowest-numbered free cask of pool `k` among `n` from index `i` (R136). -/
def firstFree (s : State) (k : Nat) : Nat → Nat → Option Nat
  | 0, _ => none
  | n + 1, i => if (s.cask (k * 2 ^ 20 + i)).alloc then firstFree s k n (i + 1) else some (k * 2 ^ 20 + i)

/-- The first pool from the size class upward that is open and has a free cask (R135, R349). -/
def findCask (s : State) (b : Nat) : Option Nat :=
  (List.range 4).findSome? fun k =>
    if poolFor b ≤ k && !look false s.sw.closed k then s.firstFree k (s.poolCasks k) 0 else none

/-- The part of `z` bytes that account `a` draws above its guarantee (R140). -/
def drawnPart (s : State) (a z : Nat) : Nat :=
  let u := (s.account a).used
  let g := (s.acctLimits a).1
  (u + z - g) - (u - g)

/-- What an admission answers: a cask, no free cask, over the ceiling, or no room in the shared pool. -/
inductive Admit where
  | cask (c : Nat)
  | noCask
  | ceiling
  | shared
  deriving DecidableEq, Repr

/-- The test of R140 for a packet of `b` stored bytes on account `a`. The two conditions hold for every packet, one within its
guarantee included, where R134 speaks of packets above theirs only (log 130). -/
def admitTest (s : State) (a b : Nat) : Admit :=
  match s.findCask b with
  | none => .noCask
  | some c =>
    let z := caskSize (caskPool c)
    if (s.acctLimits a).2 < (s.account a).used + z then .ceiling
    else if s.sharedPool < ((s.sw.shared + s.drawnPart a z : Nat) : Int) then .shared
    else .cask c

/-- Take cask `c` for a packet, charged to account `a`, with its holders (R136, R137, R140). -/
def takeCask (s : State) (c a : Nat) (p : Option Packet) (refs : Nat) (chan : Option (Nat × Nat × Bool)) : State :=
  let z := caskSize (caskPool c)
  let d := s.drawnPart a z
  let s := s.setAccount a { used := (s.account a).used + z }
  let s := { s with sw := { s.sw with shared := s.sw.shared + d } }
  s.setCask c { alloc := true, refs := holders refs, acct := a, drawn := d, pkt := p, stamp := s.mono, chan := chan,
                gen := s.sw.audit % 2 = 1 }

/-- Credit the account and the shared pool of a cask (R140); one that the audit set allocated is charged to none. -/
def creditCask (s : State) (c : Nat) : State :=
  let k := s.cask c
  if k.uncharged then s else
  let s := s.setAccount k.acct { used := (s.account k.acct).used - caskSize (caskPool c) }
  { s with sw := { s.sw with shared := s.sw.shared - k.drawn } }

/-- Free a cask; a retired one keeps its bitmap bit (R134). -/
def freeCask (s : State) (c : Nat) : State :=
  if (s.cask c).retired then s else (s.creditCask c).setCask c {}

/-- One holder is finished with the cask; the one that reaches zero frees it (R137). A count of zero is left. -/
def releaseRef (s : State) (c : Nat) : State :=
  let k := s.cask c
  if k.refs = 0 then s
  else if k.refs = 1 then s.freeCask c
  else s.setCask c { k with refs := k.refs - 1 }

/-- Depth of an egress queue: the sum of the cask sizes of its entries (R142). -/
def queueDepth (s : State) (q : Nat) : Nat :=
  (((s.queue q).aLane ++ (s.queue q).eLane).map fun e => caskSize (caskPool e.cask)).sum

/-- Occupancy of a pool in casks (R342). -/
def poolOccupancy (s : State) (k : Nat) : Nat :=
  (s.sw.casks.filter fun e => e.1 / 2 ^ 20 = k && e.2.alloc).length

/-! ### What a link loses when it retrains (R90) -/

/-- Packets under way to an endpoint are lost before delivery: their numbers may be queued again (R117, R118). -/
def loseEnds (s : State) : List (Nat × Nat) → State
  | [] => s
  | (f, q) :: es =>
    let s := if f = 0 then s else
      let c := s.egCh (f - 1)
      if c.undelivered.contains q then
        s.setEgCh (f - 1) { c with undelivered := c.undelivered.filter (· ≠ q), lost := c.lost ++ [q] }
      else s
    loseEnds s es

/-- An endpoint queue lacks credit from the moment it holds an entry and the link no credit for TCk.A (R129). -/
def lackCheck (s : State) (q : Nat) : State :=
  let x := s.queue q
  let lacks := (s.linkDim (q / 8)).isNone && !(x.aLane.isEmpty && x.eLane.isEmpty) && look 0 (s.link (q / 8)).credits (2 * (q % 8)) = 0
  s.setQueue q { x with lackSince := if lacks then some (x.lackSince.getD s.mono) else none }

/-- Discard replay buffer, credits, sequence state and landing FIFOs, and go to state `st` (R90). -/
def dropLink (s : State) (l : Nat) (st : LinkState) : State :=
  let k := s.link l
  let ends := (k.replay.flatMap Replay.ends) ++ k.txSlots.flatMap fun v => v.2.map TxPacket.ends
  let s := s.loseEnds ends
  let s := s.setLink l { k with
    st := st, goodTraining := 0, paramSent := 0, paramRecv := 0, txSeq := 0, lastAck := 4095, replay := [],
    resend := [], rxSeq := 0, requests := 0, reqDue := [], badRun := 0, ackSent := 4095, credits := [], owed := [],
    farCredits := [], landing := [], txSlots := [], txIdle := false, rxLow := false, relock := none, relockOff := 0,
    relockLane := none, rxLeft := [] }
  (List.range 8).foldl (fun s c => s.lackCheck (l * 8 + c)) s

end State

end Sys2Proof.Machine
end

