-- ==== Sys2Proof/Machine/Faults.lean ====
section
/-!
DEFINITION. The fault block (R338, R346-R356), watermarks (R159, R160), what containment does to a unit, the stop of a
launch (R230) and quiesce (R352).
-/

namespace Sys2Proof.Machine

/-- Default severity of single sources (R131, R161, R202, R283, R304, R328, R371, R396, R422, R433, R42, R54). -/
def faultTable : Tab (Option Nat) :=
  [(0x100, some 1), (0x101, some 1), (0x110, some 2), (0x111, some 4), (0x112, some 4), (0x120, some 1),
   (0x121, some 1), (0x130, some 1), (0x140, some 2), (0x150, some 1), (0x151, some 3)] ++
  [(0x200, some 2), (0x201, some 2), (0x202, some 2), (0x203, some 2), (0x204, some 2), (0x210, some 2),
   (0x211, some 1), (0x220, some 1), (0x240, some 1), (0x242, some 2), (0x243, some 2), (0x250, some 2),
   (0x2C0, some 2), (0x2C1, some 2), (0x2C2, some 1)] ++
  [(0x300, some 1), (0x301, some 2), (0x302, some 2), (0x303, some 1), (0x310, some 1), (0x320, some 2),
   (0x3A1, some 2), (0x4F0, some 1), (0x4F1, some 1)] ++
  [(0x600, some 1), (0x601, some 1), (0x608, some 2), (0x610, some 1), (0x611, some 3), (0x618, some 2),
   (0x620, some 2), (0x621, some 1), (0x622, some 2), (0x630, some 1)] ++
  [(0x680, some 2), (0x681, some 2), (0x682, some 1), (0x683, some 2), (0x684, some 2), (0x685, some 2),
   (0x68E, some 1), (0x68F, some 2), (0x690, some 2), (0x691, some 1), (0x6A0, some 1), (0x6A1, some 2),
   (0x6A2, some 2), (0x6A3, some 1), (0x6B0, some 2), (0x6B1, some 2), (0x6B2, some 2), (0x6B3, some 2),
   (0x6B4, some 2), (0x6B5, some 2), (0x6C0, some 1), (0x6C4, some 1), (0x6C6, some 2), (0x6C7, some 2),
   (0x6C8, some 2)] ++
  [(0x750, some 2), (0x751, some 2), (0x752, some 2), (0x753, some 2), (0x758, some 2), (0x759, some 2),
   (0x75A, some 2), (0x75C, some 1), (0x760, some 1), (0x761, some 1), (0x762, some 2), (0x763, some 1),
   (0x764, some 2), (0x770, some 2), (0x771, some 2), (0x772, some 2), (0x780, some 2), (0x781, some 2),
   (0x782, some 2), (0x783, some 2), (0x784, some 2)]

/-- Default severity of a source, none for a reserved one (R346). -/
def faultDefault (i : Nat) : Option Nat :=
  if i < 0x100 then some (if i % 4 = 3 then 1 else 2)
  else if 0x340 ≤ i ∧ i < 0x380 then some 3
  else if 0x400 ≤ i ∧ i < 0x440 then some 2
  else if 0x440 ≤ i ∧ i < 0x480 then some 1
  else if 0x500 ≤ i ∧ i < 0x5C0 then some 1
  else if 0x688 ≤ i ∧ i < 0x68E then some 1
  else if 0x6B8 ≤ i ∧ i < 0x6BE then some 4
  else if 0x700 ≤ i ∧ i < 0x750 then some 2
  else look none faultTable i

/-- The unit of a source whose unit is an indexed one (R349, R355, R396). -/
def faultUnit (i : Nat) : FUnit :=
  if i < 0x100 then .port (i / 4)
  else if 0x400 ≤ i ∧ i < 0x480 then .press (i % 64)
  else if 0x500 ≤ i ∧ i < 0x5C0 then .press (i % 64)
  else if 0x6B8 ≤ i ∧ i < 0x6BE then .core (i - 0x6B8)
  else if 0x710 ≤ i ∧ i < 0x750 then .press (i - 0x710)
  else .none

/-- The block of a source in the FS ranges (R338, R346). -/
def faultBlock (i : Nat) : Nat :=
  if i < 0x400 then i / 256 else if i < 0x600 then 4 else if i < 0x680 then 5 else if i < 0x700 then 6 else 7

namespace State

/-- The severity of a source (R348); a reserved source reads 0. -/
def severity (s : State) (i : Nat) : Nat := (look none s.faults.sev i).getD ((faultDefault i).getD 0)

/-- FAULT_SUMMARY (R338). -/
def faultSummary (s : State) : Nat :=
  let up := s.faults.sticky.filter fun e => e.2 && 1 ≤ s.severity e.1
  ((List.range 8).map fun k => if up.any fun e => faultBlock e.1 = k then 2 ^ k else 0).sum
    + (up.map fun e => s.severity e.1).foldl max 0 * 256

/-- ALERT_N is driven low (R348, R377). -/
def alertN (s : State) : Bool := (bit s.ctl.gctl.toNat 0 && s.faultSummary % 256 ≠ 0) || s.aon.wakeRequest

/-! ### Watermarks -/

/-- Evaluate watermark `i` on a change of its quantity to `v`; the threshold counts units of `unit` (R159, R160). -/
def markUpdate (s : State) (i v : Nat) (unit : Nat := 1) : State :=
  let w := look {} s.tele.marks i
  let t := w.thresh * unit
  let h := if w.hyst = 0 then 0 else w.thresh / 2 ^ w.hyst * unit
  let crossed := if w.dir then v < t else t < v
  let back := if w.dir then t + h ≤ v else v + h ≤ t
  if !w.lvl && crossed then
    let n := { w with lvl := true, event := true, crossings := min 255 (w.crossings + 1), armed := false }
    let s := { s with tele := { s.tele with marks := put {} s.tele.marks i n } }
    if w.armed then
      let word := b01 n.event * 2 ^ 31 + 2 ^ 30 + n.crossings * 2 ^ 16
      (s.logEvent { code := 0x46, unit := i, detail := [i, word] }).msix s.tele.vector
    else s
  else if w.lvl && back then
    { s with tele := { s.tele with marks := put {} s.tele.marks i { w with lvl := false } } }
  else s

/-- The pool's watermark, and that of the extension where the pool has casks there, after an allocation or a free (R159, R342). -/
def poolMark (s : State) (k : Nat) : State :=
  let s := s.markUpdate (2048 + k) (s.poolOccupancy k)
  if k < 2 then s else s.markUpdate 2055 s.extensionBytes 4096

/-- Bytes of press data in use: the cellar and spare ranges of loaded contexts, and the windows (R270, log 133). -/
def pressDataUsed (s : State) : Nat :=
  (s.press.press.map fun e => ((e.2.ctxs.filter fun x => x.2.st ≠ .empty).map fun x => x.2.celSize + x.2.spareSize).sum).sum
    + ((s.cel.windows.filter fun w => w.2.exists_).map fun w => w.2.size).sum

def dataMark (s : State) : State := s.markUpdate 2056 s.pressDataUsed 4096

/-- Bytes of the tables partition in use (R270, log 133). -/
def tableUse (s : State) : Nat :=
  let n := Config.tableBytes (s.vats.contracts.filter fun e => e.2.isSome).length
    ((s.fab.inCh.filter fun c => c.2.live).length + (s.fab.egCh.filter fun c => c.2.live).length)
    (s.fab.bank0.table.length + s.fab.bank1.table.length) (s.cel.windows.filter fun w => w.2.exists_).length
  min n (s.cel.plan.getD 0 0 * 2 ^ 22)

/-- The tables' watermark after a change (R159, R342); one that no occupancy of the partition can cross is left. -/
def tableMark (s : State) : State :=
  let w := look {} s.tele.marks 2052
  if !w.dir && !w.lvl && s.cel.plan.getD 0 0 * 2 ^ 22 ≤ w.thresh * 4096 then s else s.markUpdate 2052 s.tableUse 4096

/-! ### The stop of a launch (R230) -/

/-- Free bytes: contents the spec leaves unspecified (R230, log 7). -/
def freeBytes (k n : Nat) : List Byte := (List.range n).map fun i => Config.freeByte (k * 2 ^ 32 + i)

/-- Write unspecified contents into the destination regions of an abandoned instruction, given by press address: the own
pad, the cellar, or the pad of a press (R214, R230). -/
def spoil (s : State) (p : Nat) : List (Nat × Nat) → State
  | [] => s
  | (a, n) :: rs =>
    let bs := freeBytes s.free n
    let s := { s with free := s.free + 1 }
    let s := if a < 2 ^ 32 then { s with press := { s.press with pad := writeMem s.press.pad (p * 2 ^ 21 + a) bs } }
      else if a < 2 ^ 33 then s.setCel { s.cel with mem := writeMem s.cel.mem (a - 2 ^ 32) bs }
      else { s with press := { s.press with pad := writeMem s.press.pad (a - 2 ^ 33) bs } }
    spoil s p rs

/-- A draw belongs to a context of a press. -/
def drawOf (p c : Nat) : DrawUse → Bool
  | .toPad q d _ _ => q = p && d = c
  | .fromPad q d _ _ => q = p && d = c
  | .tile q d _ => q = p && d = c
  | _ => false

/-- Abandon one stream: its queue and held pours are discarded, its region spoiled. -/
def abandonStream (s : State) (p e : Nat) : State :=
  let st := look {} (s.pr p).streams e
  let s := s.spoil p st.dest
  let pr := s.pr p
  s.setPr p { pr with
    streams := put {} pr.streams e { st with
      queue := [], fetching := false, st := .idle, waited := false, draws := 0, dest := [], tiles := [],
      before := [], pours := [], iter := 0 } }

/-- Put a running context of press `p` out of work, in state `st` (R230, immediate). Draws that wait are withdrawn;
granted ones complete. -/
def stopContext (s : State) (p c : Nat) (st : CtxState) : State :=
  let pr := s.pr p
  let x := look {} pr.ctxs c
  if x.st ≠ .running then s
  else
    let s := if pr.cur = c then (List.range 4).foldl (fun s e => s.abandonStream p e) s else s
    let pr := s.pr p
    let pr := if pr.cur = c then { pr with cp := { pr.cp with running := false, wait := .none } } else pr
    let keep := fun (w : SemWaiter) => !(w.press = p && w.ctx = c)
    let pr := { pr with
      lsWait := (pr.lsWait.map fun (e : Nat × List SemWaiter) => (e.1, e.2.filter keep)).filter fun e => !e.2.isEmpty,
      ctxs := put {} pr.ctxs c { x with
        st := st
        saved := none
        finished := false
        digestWait := false
        launch := if x.digestWait && !x.finished then x.launch else none
        stopFor := none } }
    let s := s.setPr p pr
    let s := { s with press := { s.press with
      gsWait := (s.press.gsWait.map fun (e : Nat × List SemWaiter) => (e.1, e.2.filter keep)).filter fun e => !e.2.isEmpty } }
    { s with cel := { s.cel with
      staves := (s.cel.staves.map fun (e : Nat × Stave) =>
        (e.1, { e.2 with wait := e.2.wait.filter fun d => !drawOf p c d.use })).filter fun e =>
          decide (e.2 ≠ ({} : Stave)) } }

/-- The cellar book's record of a launch that ends (R415, R416): BOOK_ON is SELECT bit 248, BOOK_FULL bit 249. -/
def bookRecord (s : State) (p c status : Nat) (outDigest : List Byte) : State :=
  if !s.tele.select.getLsbD 248 then s
  else
    let x := look {} (s.pr p).ctxs c
    let r : BookRec :=
      { seq := s.tele.bookSeq, timeStart := x.startTime, timeDone := s.ns, presses := x.set, fwVersion := s.fw.version,
        bundleCrc := x.bundleCrc, vintage := x.vintage, layerId := x.layerId, operatorId := x.operatorId,
        full := s.tele.select.getLsbD 249, context := c, status := status, gradeFused := s.ident.gradeFused,
        gradePinned := s.gradePinned, inDigest := x.inDigest.getD (List.replicate 16 0),
        outDigest := if s.tele.select.getLsbD 249 && status = 0 then outDigest else List.replicate 16 0 }
    { s with tele := { s.tele with bookSeq := s.tele.bookSeq + 1, book := (r :: s.tele.book).take 8192 } }

/-- Close a guarantee record and release its claims (R285). -/
def closeGid (s : State) (g : Nat) : State :=
  { s with adm := { s.adm with records := s.adm.records.filter fun r => r.gid ≠ g } }

/-- Stop the launch that runs in context `c` of press `p`, in immediate mode; `faulted` is the press whose context
becomes FAULTED (R230, R231). -/
def stopLaunch (s : State) (p c : Nat) (faulted : Bool) : State :=
  let x := look {} (s.pr p).ctxs c
  if x.st ≠ .running then s
  else
    let s := s.bookRecord p c (if faulted then 2 else 1) []
    let s := (members 64 x.set.toNat).foldl (fun s q =>
      s.stopContext q c (if faulted && q = p then .faulted else .stopped)) s
    s.closeGid x.gid

/-- The completion notice of a launch (R229, R319). -/
def launchNotice (s : State) (x : Ctx) (status : Nat) : State :=
  match x.launch with
  | some h => s.sendEvent h { s.message h true status with gid := x.gid }
  | none => s

/-- Stop every launch that has a context on press `p` with a device fault (R231, R281, R349). -/
def faultPress (s : State) (p : Nat) : State :=
  (List.range 8).foldl (fun s c =>
    let x := look {} (s.pr p).ctxs c
    if x.st = .running then (s.stopLaunch p c true).launchNotice x 0x0602 else s) s

/-- Stop every launch that has a context on press `p` (R352). -/
def stopPress (s : State) (p : Nat) : State := (List.range 8).foldl (fun s c => s.stopLaunch p c false) s

/-! ### Quiesce (R352) -/

/-- The bytes of a DISCOVERY message (R103). -/
def discBytes (m : DiscMsg) : List Byte :=
  [m.msg, BitVec.ofNat 8 m.hops, m.dim, m.member] ++ leBytes 8 m.serial.toNat
  ++ leBytes 4 (m.fna.toNat + b01 m.fnaValid * 2 ^ 31)
  ++ [m.grade, BitVec.ofNat 8 (b01 m.twisted + 2 * b01 m.marked + 4 * b01 m.rootMarked), m.ndim, 0]
  ++ leBytes 8 m.rootSerial.toNat ++ leBytes 2 m.rootHops ++ [0, 0] ++ leBytes 4 m.subject.toNat
  ++ leBytes 8 m.subjectId.toNat ++ leBytes 4 m.value.toNat ++ List.replicate 16 0

/-- A DISCOVERY message as this device sends it: its own identity fields (R103). -/
def discMsg (s : State) (msg : Nat) : DiscMsg :=
  { msg := BitVec.ofNat 8 msg, serial := s.ident.serial, fna := BitVec.ofNat 18 (s.fab.fna.getD 0),
    fnaValid := s.fab.fna.isSome, grade := BitVec.ofNat 8 s.gradePinned, twisted := s.fab.twisted,
    marked := s.fab.marked, rootMarked := s.fab.root.2.1, ndim := BitVec.ofNat 8 s.fab.ndim,
    rootSerial := s.fab.root.1, rootHops := s.fab.root.2.2 }

/-- Send a DISCOVERY message on a link: TC7, never routed (R103). -/
def sendDisc (s : State) (l : Nat) (m : DiscMsg) : State :=
  let dm := (look none s.fab.map (l / 4)).getD (0xFF, 0)
  let m := { m with dim := BitVec.ofNat 8 dm.1, member := BitVec.ofNat 8 dm.2 }
  s.originate l { ty := 0x09, tc := 7, devt := m.msg ≠ 0x06, dst := if m.msg = 0x06 then m.subject else 0,
                  src := s.ownAddr, payload := discBytes m }

/-- Flood a message on every dimension port but `exceptPort`, from one cask (R104, R143); DIM and MEMBER are those of each
sending port. -/
def floodDisc (s : State) (exceptPort : Nat) (m : DiscMsg) : State :=
  let ports := (s.fab.map.filterMap fun e => e.2.map fun _ => e.1).filter (· ≠ exceptPort)
  s.originateMany (ports.map (· * 4)) { ty := 0x09, tc := 7, devt := true, dst := 0, src := s.ownAddr, payload := discBytes m }

/-- Quiesce: launches stop, HOLE for itself on every dimension port, dimension links carry DISCOVERY and TIME only;
GSTAT.QUIESCED (R352). -/
def quiesce (s : State) : State :=
  if s.ctl.quiesced then s
  else
    let s := (List.range 64).foldl stopPress s
    let s := { s with ctl := { s.ctl with quiesced := true } }
    let s := s.floodDisc 64 { s.discMsg 0x04 with subject := BitVec.ofNat 26 (s.fab.fna.getD 0) }
    let s := (List.range 18).foldl (fun s d => s.setDim d { s.dim d with held := true }) s
    { s with aon := { s.aon with coolDuty := 1000 } }

/-! ### Assertion -/

/-- With STOP_ON_FAULT the first fault of severity 3 or more freezes every trace buffer, writes event 0x44 and sets
FS 0x68E; the frozen buffers are then exported (R421). -/
def traceFreeze (s : State) : State :=
  if !bit s.tele.traceCtl.toNat 8 || s.tele.frozen then s
  else
    let s := { s with tele := { s.tele with frozen := true, releaseArmed := false } }
    let s := s.logEvent { code := 0x44, severity := 1, source := 0x68E, detail := [s.tele.traceCtl.toNat % 64] }
    let s : State := (members 6 s.tele.traceCtl.toNat).foldl (fun s c => s.emit (.traceExport c)) s
    if look false s.faults.sticky 0x68E then s
    else
      let s : State := { s with faults := { s.faults with sticky := put false s.faults.sticky 0x68E true } }
      let v : Nat := s.severity 0x68E
      let s := if 1 ≤ v then s.logEvent { code := 0x01, severity := v, source := 0x68E } else s
      if 2 ≤ v && bit s.ctl.gctl.toNat 1 then s.msix 4 else s

/-- Set the sticky bit of source `i` with the actions of severities 1, 2 and 5: on the change from 0 to 1 a record,
MSI-X vector 4 and quiesce (R348); severities 3 and 4 act as 2. -/
def assertPlain (s : State) (i : Nat) : State :=
  if faultDefault i = none || look false s.faults.sticky i then s
  else
    let v := s.severity i
    let s := { s with faults := { s.faults with sticky := put false s.faults.sticky i true } }
    let s := if 1 ≤ v then s.logEvent { code := 0x01, severity := v, source := i } else s
    let s := if 2 ≤ v && bit s.ctl.gctl.toNat 1 then s.msix 4 else s
    let s := if 3 ≤ v then s.traceFreeze else s
    if v = 5 then s.quiesce else s

/-- Fence a unit other than a vat and hold it out of service (R349). -/
def containPlain (s : State) (u : FUnit) : State :=
  match u with
  | .none | .vat _ => s
  | .port p =>
    let s := s.setPort p { s.port p with held := true }
    (s.linksOf p).foldl (fun s l => s.dropLink l .detect) s
  | .pool k => { s with sw := { s.sw with closed := put false s.sw.closed k true } }
  | .cask c =>
    if (s.cask c).retired then s
    else
      let s := if (s.cask c).alloc then s.creditCask c else s
      let s := s.setCask c { alloc := true, retired := true }
      State.poolMark { s with sw := { s.sw with retiredBytes := s.sw.retiredBytes + caskSize (caskPool c) } } (caskPool c)
  | .dim d => s.setDim d { s.dim d with held := true }
  | .epPort p => s.setPort p { s.port p with quarantined := true }
  | .requester n id => s.setStave n { s.stave n with fenced := put false (s.stave n).fenced id true }
  | .press n =>
    let s := s.faultPress n
    s.setPr n { s.pr n with fenced := true }
  | .core _ => s.quiesce
  | .stave n => s.setStave n { s.stave n with fenced := (List.range 11).map fun r => (r, true) }
  | .syncEngine => { s with faults := { s.faults with syncFenced := true } }
  | .tier k => { s with faults := { s.faults with tierFenced := put false s.faults.tierFenced k true } }

/-- Resets count for the same unit; every core stands for the control complex (R350, R366). -/
def sameUnit : FUnit → FUnit → Bool
  | .core _, .core _ => true
  | u, v => decide (u = v)

/-- The unit resets of a unit that were asked for in the last 10 s (R350, R366). -/
def recentResets (s : State) (u : FUnit) : Nat :=
  (s.faults.resetTimes.filter fun e => sameUnit e.1 u && s.mono < e.2 + 10 ^ 10).length

/-- The control complex restarts: command service pauses, and a vintage plan in progress is abandoned and due again (R327,
R364, R366). -/
def pauseControl (s : State) : State :=
  let due := match s.pwr.plan with
    | some p => some p.asked
    | none => s.pwr.planDue
  { s with ctl := { s.ctl with cmdPaused := true, fwReady := false, pausedAt := s.mono }, pwr := { s.pwr with plan := none, planDue := due } }

/-- Assert source `i` in unit `u`, where `contain` fences a unit: the sticky bit and, on its change from 0 to 1, the actions
of the severity (R347, R348). Severity 4 fences the unit and asks CC4 for its reset; the third within 10 s contains it (R350). -/
def assertWith (contain : State → FUnit → State) (s : State) (i : Nat) (u : FUnit) : State :=
  if faultDefault i = none || look false s.faults.sticky i then s
  else
    let v := s.severity i
    let s := s.assertPlain i
    if u = .none || v < 3 || v = 5 then s
    else if v = 3 then
      let s := contain s u
      let s := { s with faults := { s.faults with contained := s.faults.contained ++ [(i, u)] },
                        adm := { s.adm with rerun := true } }
      s.logEvent { code := 0x22, severity := v, source := i, detail := [i] }
    else if 2 ≤ s.recentResets u then
      let s := contain s u
      let s := { s with faults := { s.faults with contained := s.faults.contained ++ [(i, u)] },
                        adm := { s.adm with rerun := true } }
      let s := s.logEvent { code := 0x22, severity := v, source := i, detail := [i] }
      s.assertPlain 0x6C8
    else
      let s := match u with
        | .core _ => s.pauseControl
        | u => contain s u
      { s with faults := { s.faults with resetDue := s.faults.resetDue ++ [(i, u)],
                                          resetTimes := (u, s.mono) :: s.faults.resetTimes },
               adm := { s.adm with rerun := true } }

/-- A holder is finished with its cask, evaluated by the pool's watermark (R160); a count already zero sets FS 0x112
(R137). -/
def decRef (s : State) (c : Nat) : State :=
  if (s.cask c).refs = 0 then assertWith containPlain s 0x112 (.pool (caskPool c))
  else (s.releaseRef c).poolMark (caskPool c)

/-- Casks that the pours of a contract hold (R172, R180). -/
def pourCasks (x : Pour) : List Nat := x.out.toList ++ x.casks.filterMap Prod.snd

/-- Move the contract of a contained vat (R351): its state is discarded, its rounds are re-run from contract
retention with a new GEN, and a pinned one is pinned again to the lowest free unpinned vat. -/
def moveContract (s : State) (v : Nat) : State :=
  match (s.vat v).key with
  | none => s
  | some key =>
    match s.contract key with
    | none => s
    | some c =>
      let s := ((c.rounds.flatMap fun r => r.pours.flatMap fun p => pourCasks p.2)).foldl (fun s k => s.decRef k) s
      let pinned := (s.vat v).pinned
      let s := s.setVat v { s.vat v with key := none, pinned := false, refilling := none, decanting := false }
      if c.par.replay = 0 then
        (s.setContract key (some { c with failed := true, vat := none, rounds := [] })).assertPlain 0x622
      else
        let lost := fun (r : Round) (k : ContribP) => k.phase = 0 && !(look {} r.pours k.pour.toNat).done
        let again : List ContribP := c.rounds.flatMap fun r => r.kept.filter (lost r)
        let kept := s.cel.retained - (again.map fun (k : ContribP) => k.data.length).sum
        let s := State.markUpdate { s with cel := { s.cel with retained := kept } } 2053 kept 4096
        let rs := c.rounds.map fun r =>
          { r with pours := r.pours.filter fun p => p.2.done, kept := r.kept.filter fun k => !lost r k }
        let free := (List.range 60).find? fun w => !(s.vat w).pinned && !(s.vat w).contained && (s.vat w).key.isNone && w ≠ v
        let target := if pinned then free else none
        let s := s.setContract key (some { c with
          gen := (c.gen + 1) % 256, vat := target, image := false, rounds := rs, replayDue := true,
          pending := (again.map fun (k : ContribP) => ({ k with replay := true, gen := BitVec.ofNat 8 (c.gen + 1), chan := none }, s.mono)) ++ c.pending,
          ready := some s.vats.order })
        let s := { s with vats := { s.vats with order := s.vats.order + 1 } }
        let s := match target with
          | some w => s.setVat w { key := some key, pinned := true, idleSince := s.mono }
          | none => s
        let s := s.assertPlain 0x621
        if pinned then (s.logEvent { code := 0x10, severity := s.severity 0x691, source := 0x691, gid := c.gid, unit := 1 }).assertPlain 0x691
        else s

/-- Fence a unit and hold it out of service (R349). -/
def containUnit (s : State) (u : FUnit) : State :=
  match u with
  | .vat v => (s.setVat v { s.vat v with contained := true }).moveContract v
  | u => s.containPlain u

/-- Assert source `i` in unit `u` (R347-R350). -/
def assertIn (s : State) (i : Nat) (u : FUnit) : State := assertWith containUnit s i u

/-- Assert source `i` in the unit its index names. -/
def assertSrc (s : State) (i : Nat) : State := s.assertIn i (faultUnit i)

/-- A level condition begins or ends to hold (R347): it keeps its bit set without further action. -/
def setLevel (s : State) (i : Nat) (on : Bool) : State :=
  let s := { s with faults := { s.faults with level := put false s.faults.level i on } }
  if on then s.assertSrc i else s

/-! ### Casks and links -/

/-- Take a cask and evaluate the pool's watermark (R160); one of the extension is written through the stave arbiters (R277). -/
def allocCask (s : State) (c a : Nat) (p : Option Packet) (refs : Nat) (chan : Option (Nat × Nat × Bool)) : State :=
  ((s.takeCask c a p refs chan).poolMark (caskPool c)).extensionDraws c ((p.map storedLen).getD (caskSize (caskPool c)))

/-- LINK_DOWN of port `p` holds while a link of it is out of service after having been up or failing (R90). -/
def linkDown (s : State) (p : Nat) : State := s.setLevel (4 * p + 1) true

/-- A retrain: the link loses its state, returns to LOCK, and its port's LINK_DOWN is set (R90). -/
def retrain (s : State) (l : Nat) : State := (s.dropLink l .lock).linkDown (l / 4)

end State

end Sys2Proof.Machine
end

