-- ==== Sys2Proof/Machine/Command.lean ====
section
/-!
DEFINITION. Command service: the checks every Spagil command passes in the order of R315, its reply, and what a
staged, phased, relayed or forwarded command leaves behind (R305-R327).
-/

namespace Sys2Proof.Machine

/-- A refusal: STATUS, DETAIL and RETRY_AFTER (R305, R315). -/
structure Fail where
  status : Nat
  detail : Nat := 0
  retry : Nat := 0
  deriving DecidableEq, Repr

/-- Refuse with `status` when `bad` holds. -/
def chk (bad : Bool) (status : Nat) (detail : Nat := 0) (retry : Nat := 0) : Option Fail :=
  if bad then some { status := status, detail := detail, retry := retry } else none

/-- The first failure found (R315). -/
def firstFail : List (Option Fail) → Option Fail
  | [] => none
  | none :: fs => firstFail fs
  | some f :: _ => some f

/-- Byte offset of field `k` of a parameter block (R307). -/
def offsetOf (ws : List Nat) (k : Nat) : Nat :=
  let b := (ws.take k).foldl fieldEnd 0
  let a := min (fieldBytes (ws.getD k 8)) 8
  ceilDiv b a * a

/-- Field `k` out of range: 0x0105 with its offset in DETAIL (R305, R315). -/
def badField (ws : List Nat) (k : Nat) (bad : Bool) : Option Fail := chk bad 0x0105 (offsetOf ws k)

/-- What R317 lists for an opcode: authority, parameter widths, whether it may carry STAGE or DRAIN, and the features
it needs (R326). `plen` replaces the length of the widths for blocks with records. -/
structure CmdSpec where
  op : Nat
  need : Nat
  widths : List Nat := []
  plen : Option Nat := none
  stage : Bool := false
  /-- STAGE marks an edit of an epoch session, which takes effect at once in the spare bank (R321) -/
  epoch : Bool := false
  drain : Bool := false
  feats : List Nat := []

/-- The checks of one command beyond the common ones, each list in the order its chapter gives (R315). `phases` are
the bounds, in microseconds, of the phases it needs; `load` says that its effect would disturb traffic or state. -/
structure Checks where
  form : List (Option Fail) := []
  auth : List (Option Fail) := []
  state : List (Option Fail) := []
  admission : List (Option Fail) := []
  resources : List (Option Fail) := []
  busy : List (Option Fail) := []
  load : Bool := false
  phases : List Nat := []

/-- What a command's effect answers. `wait` says that no reply is sent yet. -/
structure Done where
  st : State
  params : List (Nat × Nat) := []
  gid : Nat := 0xFFFF
  detail : Nat := 0
  status : Nat := 0
  wait : Bool := false

/-- One command: what R317 lists for it, its checks, its effect. `same` finds staged entries for the same object, and
`claim` is what staging admits (R320). `start k` is what phase `k`, from 0, begins, `undo` what follows them, done or failed, and
`ready` the condition on which a phase ends without an error (R322). -/
structure Cmd where
  hdr : SpHdr
  spec : CmdSpec
  checks : Checks := {}
  eff : State → Done
  same : Instr → Bool := fun _ => false
  claim : State → Done := fun s => { st := s }
  start : Nat → State → State := fun _ s => s
  undo : State → State := id
  ready : Nat → State → Bool := fun _ _ => true

/-- The opcodes R317 lists. -/
def knownOpcodes : List Nat :=
  [0x0101, 0x0102, 0x0103, 0x0104, 0x0201, 0x0281, 0x0202, 0x0283, 0x0204, 0x0301, 0x0381, 0x0302, 0x0382, 0x0303,
   0x0304, 0x0305, 0x0306, 0x0401, 0x0482, 0x0483, 0x0484, 0x0485, 0x0501, 0x0581, 0x0502, 0x0503, 0x0504] ++
  [0x0601, 0x0602, 0x0682, 0x0603, 0x0604, 0x0701, 0x0781, 0x0702, 0x0783, 0x0801, 0x0881, 0x0802, 0x0803, 0x0804,
   0x0901, 0x0981, 0x0982, 0x0983, 0x0904, 0x0A01, 0x0A02, 0x0A03, 0x0A04, 0x0A05, 0x0A06, 0x0B01]

/-- DETAIL of a form fault that lies in the header (log 12). -/
def hdrDetail : Nat := 0xFFFFFFFF

namespace State

/-- The taken entry that a command's reply answers. -/
def takenOf (s : State) (h : SpHdr) : Option Taken :=
  s.svc.taken.find? fun t => t.src = h.src && t.tag = h.tag && t.opcode = h.opcode

/-- Remove the taken entry: the command no longer counts as outstanding (R313, R314). -/
def untake (s : State) (h : SpHdr) : State :=
  match s.takenOf h with
  | none => s
  | some t =>
    let s := { s with svc := { s.svc with taken := s.svc.taken.erase t } }
    if h.src < 4 then s.setRing h.src { s.ring h.src with outstanding := (s.ring h.src).outstanding - 1 }
    else s.setSource h.src { s.source h.src with outstanding := (s.source h.src).outstanding - 1 }

/-- The pair in force for harvest records (R306). -/
def takePair (s : State) (h : SpHdr) : State :=
  { s with svc := { s.svc with
      layerId := if h.layerId = 0 then s.svc.layerId else h.layerId,
      operatorId := if h.operatorId = 0 then s.svc.operatorId else h.operatorId } }

/-- Bytes a reply's parameters may have (R312). -/
def replyLimit (s : State) (h : SpHdr) : Nat :=
  ((s.takenOf h).map Taken.limit).getD (if h.src < 4 then 184 else 16288)

/-- Send the one reply of a command (R306): a reply too long for its buffer carries 0x0502 instead (R312); a 0x01xx
reply sets FS 0x6A0 and a 0x04xx reply FS 0x6A1 (R328). -/
def sendReply (s : State) (h : SpHdr) (m : SpMsg) : State :=
  let len := plenOf (m.params.map Prod.fst)
  let m := if s.replyLimit h < len then { m with status := 0x0502, detail := len, params := [] } else m
  let s := (s.sendMsg h.src h.devsrc (s.takenOf h).isSome m).untake h
  let g := m.status.toNat / 256
  if g = 1 then s.assertSrc 0x6A0 else if g = 4 then s.assertSrc 0x6A1 else s

/-- Refuse a command. -/
def refuse (s : State) (h : SpHdr) (f : Fail) : State :=
  s.sendReply h { s.message h false f.status with detail := f.detail, retryAfter := f.retry }

/-- Complete a command with its reply. -/
def complete (h : SpHdr) (d : Done) : State :=
  let s := d.st.takePair h
  s.sendReply h { s.message h false d.status with params := d.params, gid := d.gid, detail := d.detail }

/-! ### Authority -/

/-- Two positions lie in one partition of the live bank (R101). -/
def samePartition (s : State) (a b : Nat) : Bool :=
  ((if s.fab.live then s.fab.bank1 else s.fab.bank0).partitions).all fun mv =>
    decide ((a &&& mv.1 = mv.2) ↔ (b &&& mv.1 = mv.2))

/-- The partner of position `u` in dimension `d` of a fabric of `n` dimensions (R99). -/
def partnerOf (twisted : Bool) (n u d : Nat) : Nat :=
  if twisted then
    (List.range ((n - 1 - d) / 2)).foldl (fun v i =>
      if bit u (n - 1 - 2 * i) then v ^^^ 2 ^ (n - 2 - 2 * i) else v) (u ^^^ 2 ^ d)
  else u ^^^ 2 ^ d

def partner (s : State) (u d : Nat) : Nat := partnerOf s.fab.twisted s.fab.ndim u d

/-- Authority of a port (R309): what FAB_ENDPOINT set, otherwise NONE for an endpoint port, and for a dimension port
MANAGE within one partition. -/
def portAuth (s : State) (p : Nat) : Nat :=
  match (s.port p).auth with
  | some a => a
  | none =>
    match look none s.fab.map p, s.fab.fna with
    | some (d, _), some f => if s.samePartition f (s.partner f d) then 3 else 0
    | _, _ => 0

/-- Authority of the port a command arrived on; PCIe is FULL (R309). -/
def srcAuth (s : State) (h : SpHdr) : Nat := if h.src < 4 then 4 else s.portAuth h.port

/-! ### The common checks -/

/-- Form checks of the header (R305, R314, R315). -/
def hdrCheck (h : SpHdr) : Option Fail :=
  firstFail [
    chk (h.version ≠ 1) 0x0101 hdrDetail,
    chk (!knownOpcodes.contains h.opcode.toNat) 0x0102 hdrDetail,
    chk (h.kind ≠ 0 || h.rsv) 0x0104 hdrDetail,
    chk (h.indirect && 4 ≤ h.src) 0x0106 hdrDetail,
    chk (h.stage && h.drain) 0x0107 hdrDetail]

/-- Agreed features lack bit `b` (R326). -/
def lacks (s : State) (h : SpHdr) (b : Nat) : Bool := !bit (s.source h.src).agreed.toNat b

/-- Command service serves this source now: after boot, while it pauses only to refuse in-band commands (R327), or the ROM on ring 0 in recovery, or identity alone (R335,
R403, R409). -/
def serving (s : State) (h : SpHdr) : Bool :=
  (s.ctl.fwReady || s.ctl.cmdPaused || (s.ctl.recovery && h.src = 0) || s.fw.identityOnly) && !(s.ctl.cmdPaused && h.src < 4)

/-- The opcode group (R324). -/
def opGroup (op : Nat) : Nat := op / 256

/-- A command waits for every earlier one of its group from its source, with ORDERED for every earlier one of its source,
and FW_ACTIVATE for every one taken before it (R305, R324). -/
def mustWait (s : State) (h : SpHdr) : Bool :=
  (s.takenOf h).isSome &&
    (s.svc.taken.takeWhile fun t => !(t.src = h.src && t.tag = h.tag && t.opcode = h.opcode)).any fun t =>
      h.opcode = 0x0A03 || (t.src = h.src && (h.ordered || opGroup t.opcode.toNat = opGroup h.opcode.toNat))

/-- RETRY_AFTER while a phased command runs: the bound of its present phase (R323). -/
def phasedRetry (s : State) : Nat :=
  match s.svc.phased with
  | none => 0
  | some p => p.bounds.getD p.phase 0

/-- The functions, by opcode group, that a phased command is changing: DEV_PROFILE applies those of three more (R317, R323). -/
def changing (op : Nat) : List Nat := if op = 0x0104 then [1, 4, 7, 8] else [opGroup op]

/-- Microseconds left of a pause of command service (R327). -/
def pauseLeft (s : State) : Nat := ceilDiv (s.ctl.pausedAt + 50 * 10 ^ 6 - s.mono) 1000

/-- The command asks for a place in the staging list: STAGE with a TIME (R320). -/
def stagesAt (h : SpHdr) (c : CmdSpec) : Bool := h.stage && !c.epoch && h.time ≠ 0

/-- The first failure of a command, checks in the order of R315; the time and the room of a staged one are of its form and of
its resources (R320). -/
def failure (s : State) (h : SpHdr) (c : CmdSpec) (k : Checks) : Option Fail :=
  let plen := c.plen.getD (plenOf c.widths)
  firstFail [
    hdrCheck h,
    chk (h.opcode.toNat ≠ c.op) 0x0102 hdrDetail,
    chk (h.plen.toNat ≠ plen) 0x0103 hdrDetail,
    chk (h.src < 4 && !h.indirect && 192 < plen) 0x0103 hdrDetail,
    chk ((h.stage && !c.stage) || (h.drain && !c.drain)) 0x0107 hdrDetail,
    chk (stagesAt h c && (h.time.toNat < s.ns + 10000 || s.ns + 10 ^ 10 < h.time.toNat)) 0x0105 hdrDetail,
    firstFail k.form,
    chk (s.srcAuth h < h.auth.toNat) 0x0401,
    chk (h.auth.toNat < c.need) 0x0402,
    chk (s.lcState = 4 && c.op ≠ 0x0101) 0x0403,
    firstFail k.auth,
    chk (c.op ≠ 0x0101 && c.op ≠ 0x0102 && s.lacks h 0) 0x0307,
    chk (h.indirect && s.lacks h 1) 0x0307,
    chk (h.stage && !c.epoch && s.lacks h 2) 0x0307,
    chk (h.drain && s.lacks h 3) 0x0307,
    chk (c.feats.any fun b => s.lacks h b) 0x0307,
    chk (s.ctl.recovery && !([0x0101, 0x0A01, 0x0A02, 0x0A03].contains c.op)) 0x0302,
    chk (s.fw.identityOnly && c.op ≠ 0x0101) 0x0302,
    chk (s.ctl.quiesced && 1 < c.need && c.op ≠ 0x0103) 0x0302,
    firstFail k.state,
    chk (k.load && !h.drain) 0x0301,
    firstFail k.admission,
    firstFail k.resources,
    chk (stagesAt h c && 256 ≤ s.svc.staged.length) 0x0501,
    chk (s.ctl.cmdPaused) 0x0702 0 s.pauseLeft,
    chk (s.svc.phased.any fun p => (changing p.hdr.opcode.toNat).contains (opGroup c.op) || (h.drain && !k.phases.isEmpty))
      0x0701 0 s.phasedRetry,
    firstFail k.busy]

/-- The FNA in TARGET, when it is valid and names another device (R305, R310). -/
def otherTarget (s : State) (h : SpHdr) : Option Nat :=
  let t := h.target.toNat
  if t < 2 ^ 31 || some (t % 2 ^ 18) = s.fab.fna then none else some (t % 2 ^ 18)

/-- A position that cannot be reached: outside the fabric, or a hole (R100, R310). -/
def unreachable (s : State) (f : Nat) : Bool :=
  s.fab.fna.isNone || 2 ^ s.fab.ndim ≤ f || look false s.fab.holes f

/-- Relay a PCIe command to its TARGET; its reply comes back to the ring (R310). -/
def relay (s : State) (h : SpHdr) (f : Nat) : State :=
  if s.lacks h 4 then s.refuse h { status := 0x0307 }
  else if s.unreachable f then s.refuse h { status := 0x0304 }
  else
    let w : Waiting := { hdr := h, relay := true, left := 1 }
    State.emit { s with svc := { s.svc with waiting := s.svc.waiting ++ [w] } } (.relay f h)

/-- Devices of the sub-cube FNA & mask = value, without this one and holes (R162, R163). -/
def others (s : State) (mask value : Nat) : List Nat :=
  (List.range (2 ^ s.fab.ndim)).filter fun f => f &&& mask = value && some f ≠ s.fab.fna && !look false s.fab.holes f

/-- The command came from a lead that forwarded it (R162, log 13). -/
def forwarded (h : SpHdr) : Bool := 4 ≤ h.src && h.devsrc && h.target.toNat < 2 ^ 31

/-- This device is one that a forwarded command names; before discovery it is position 0 (R97, R317). -/
def named (s : State) (mask value : Nat) : Bool := s.fab.fna.getD 0 &&& mask = value

/-- Forward a command to the other devices it names and wait for their replies, and with `own` for a completion here; with
none to wait for, it is complete (R162, R317). `extra` are parameters beyond those of the command. -/
def forwardTo (d : Done) (h : SpHdr) (fs : List Nat) (own : Bool := false) (key : Nat := 0) (extra : List (Nat × Nat) := []) :
    Done :=
  let fs := if forwarded h then [] else fs
  let left := fs.length + if own then 1 else 0
  if left = 0 then d
  else
    let w : Waiting := { hdr := h, relay := false, left := left, detail := d.detail, gid := d.gid, params := d.params, key := key }
    let s := { d.st with svc := { d.st.svc with waiting := d.st.svc.waiting ++ [w] } }
    { d with st := fs.foldl (fun s f => s.emit (.forward f h extra)) s, wait := true }

/-- One of the completions that a waiting command still needs has come; the last one sends its reply. -/
def waitStep (s : State) (h : SpHdr) : State :=
  let mine := fun (w : Waiting) => w.hdr.src = h.src && w.hdr.tag = h.tag && w.hdr.opcode = h.opcode && !w.relay
  match s.svc.waiting.find? mine with
  | none => s
  | some w =>
    if 1 < w.left then
      { s with svc := { s.svc with waiting := replaceFirst mine (fun w => { w with left := w.left - 1 }) s.svc.waiting } }
    else
      complete h { st := { s with svc := { s.svc with waiting := s.svc.waiting.filter fun x => !mine x } },
                   params := w.params, gid := w.gid, detail := w.detail }

/-! ### Staging and phases -/

/-- Place an entry of the staging list in TIME order, after entries of equal TIME (R320). -/
def stageInsert (e : Staged) : List Staged → List Staged
  | [] => [e]
  | x :: xs => if x.time ≤ e.time then x :: stageInsert e xs else e :: x :: xs

/-- Stage a command, or with TIME = 0 cancel the staged entries of the same object and source (R320). -/
def stage (s : State) (i : Instr) (c : Cmd) : State :=
  let h := c.hdr
  if h.time = 0 then
    let gone := s.svc.staged.filter fun e => e.hdr.src = h.src && e.hdr.opcode = h.opcode && c.same e.instr
    let s : State := { s with svc := { s.svc with staged := s.svc.staged.filter fun e => !gone.contains e } }
    complete h { st := gone.foldl (fun s e => s.closeGid e.gid) s }
  else
    let d := c.claim s
    let e : Staged := { time := h.time.toNat, hdr := h, instr := i, gid := d.gid }
    complete h { d with st := { d.st with svc := { d.st.svc with staged := stageInsert e d.st.svc.staged } } }

/-- The bound of a phase for which the spec gives no time, in microseconds: a free value (R323, log 61). -/
def openBound (s : State) (k : Nat) : Nat := Config.freeNat (s.free + k)

/-- The largest retransmission timeout of a channel, in microseconds (R122). -/
def longestRto (s : State) : Nat := (s.fab.inCh.map fun c => c.2.rto).foldl max 20000 / 1000

/-- Begin the phases of a command: reply 0x0001 with PHASES (R322). -/
def beginPhases (s : State) (i : Instr) (c : Cmd) : State :=
  let h := c.hdr
  let s := s.takePair h
  let s := s.sendReply h { s.message h false 1 with phases := c.checks.phases.length }
  let x : Phased := { hdr := h, instr := i, phase := 0, bounds := c.checks.phases }
  c.start 0 { s with svc := { s.svc with phased := some x }, free := s.free + x.bounds.length }

/-- Run a command: refuse, relay, stage, begin its phases, or apply its effect and reply. A command that nothing
serves is not taken (log 4). -/
def run (s : State) (i : Instr) (c : Cmd) : State :=
  let h := c.hdr
  if !s.serving h || s.mustWait h then s
  else
    match (if h.src < 4 then s.otherTarget h else none) with
    | some f =>
      match firstFail [hdrCheck h, chk (4 < h.auth.toNat) 0x0401, chk (h.auth.toNat < c.spec.need) 0x0402] with
      | some e => s.refuse h e
      | none => s.relay h f
    | none =>
      match s.failure h c.spec c.checks with
      | some f => s.refuse h f
      | none =>
        if h.stage && !c.spec.epoch then s.stage i c
        else if h.drain && !c.checks.phases.isEmpty then s.beginPhases i c
        else
          let d := c.eff s
          if d.wait then d.st else complete h d

end State

end Sys2Proof.Machine
end

