-- ==== Sys2Proof/Machine/Num.lean ====
section
/-!
DEFINITION. Number formats and exact values (R34-R48): decoding, rounding into a format with the IEEE flags, and the
interval arithmetic behind the correctly rounded exp2 and logarithm. Formats are their FORMAT codes (R174). A flag set
is a number: bit 4 invalid, 3 division by zero, 2 overflow, 1 underflow, 0 inexact, and bit 5 for an invalid operation
that produced a NaN from operands that are not NaN (R42, FS 0x4F1).
-/

namespace Sys2Proof.Machine

/-- An exact value. `dy` is ±(m + ε) × 2^e with 0 < ε < 1 when `sticky`, otherwise ε = 0, and m > 0; `lg` is
±2^(L / 256). -/
inductive Val where
  | nan (signalling : Bool)
  | inf (neg : Bool)
  | zero (neg : Bool)
  | dy (neg : Bool) (m : Nat) (e : Int) (sticky : Bool)
  | lg (neg : Bool) (l : Int)
  deriving DecidableEq, Repr

def flInvalid : Nat := 16
def flDivZero : Nat := 8
def flOverflow : Nat := 4
def flUnderflow : Nat := 2
def flInexact : Nat := 1
def flNewNan : Nat := 32

/-- Union of flag sets. -/
def flOr (a b : Nat) : Nat := a ||| b

/-! ### Formats (R34, R39, R174) -/

def fmtLg (f : Nat) : Bool := f = 1 || f = 2 || f = 3
def fmtIeee (f : Nat) : Bool := 0x10 ≤ f && f ≤ 0x13
def fmtInt (f : Nat) : Bool := (0x20 ≤ f && f ≤ 0x23) || (0x28 ≤ f && f ≤ 0x2B)
def fmtSigned (f : Nat) : Bool := f < 0x28
def fmtAcc (f : Nat) : Bool := f = 0x30 || f = 0x31
def fmtKnown (f : Nat) : Bool := fmtLg f || fmtIeee f || fmtInt f || fmtAcc f

/-- Width of a format in bits. -/
def fmtBits (f : Nat) : Nat :=
  match f with
  | 0x01 => 4
  | 0x02 => 8
  | 0x03 => 16
  | 0x10 => 16
  | 0x11 => 16
  | 0x12 => 32
  | 0x13 => 64
  | 0x20 => 8
  | 0x21 => 16
  | 0x22 => 32
  | 0x23 => 64
  | 0x28 => 8
  | 0x29 => 16
  | 0x2A => 32
  | 0x2B => 64
  | 0x30 => 64
  | 0x31 => 96
  | _ => 8

/-- Bytes of an ARG or GUMBEL element (R175). -/
def argLen (f : Nat) : Nat := if fmtBits f = 64 then 16 else 8

/-- Centre code, units of 1/256 octave a code step, and largest finite code of an LG format (R34, R49). -/
def lgCentre (f : Nat) : Nat := if f = 1 then 4 else if f = 2 then 64 else 16384
def lgStep (f : Nat) : Nat := if f = 1 then 128 else if f = 2 then 32 else 1
def lgMax (f : Nat) : Nat := if f = 1 then 6 else if f = 2 then 125 else 0x7FFD
def lgNan (f : Nat) : Nat := if f = 1 then 7 else if f = 2 then 126 else 0x7FFE

/-- Precision and exponent width of an IEEE format (R39). -/
def ieeePrec (f : Nat) : Nat := if f = 0x10 then 11 else if f = 0x11 then 8 else if f = 0x12 then 24 else 53
def ieeeExpBits (f : Nat) : Nat := if f = 0x10 then 5 else if f = 0x13 then 11 else 8
def ieeeBias (f : Nat) : Nat := 2 ^ (ieeeExpBits f - 1) - 1

/-- Bits of a number: floor(log2 m) + 1, and 0 for 0. -/
def bitLen (m : Nat) : Nat := if m = 0 then 0 else Nat.log2 m + 1

/-- The value of a code (R34, R35, R39). -/
def decodeVal (f c : Nat) : Val :=
  if fmtLg f then
    let w := fmtBits f
    let neg := bit c (w - 1)
    let k := c % 2 ^ (w - 1)
    if k = 0 then .zero neg
    else if k = lgNan f then .nan false
    else if lgMax f < k then .inf neg
    else .lg neg (((k : Int) - lgCentre f) * lgStep f)
  else if fmtIeee f then
    let p := ieeePrec f
    let w := fmtBits f
    let neg := bit c (w - 1)
    let ex := c / 2 ^ (p - 1) % 2 ^ ieeeExpBits f
    let fr := c % 2 ^ (p - 1)
    if ex = 2 ^ ieeeExpBits f - 1 then
      if fr = 0 then .inf neg else .nan (!bit fr (p - 2))
    else if ex = 0 then
      if fr = 0 then .zero neg else .dy neg fr (1 - (ieeeBias f : Int) - (p - 1 : Nat)) false
    else .dy neg (fr + 2 ^ (p - 1)) ((ex : Int) - ieeeBias f - (p - 1 : Nat)) false
  else
    let v : Int := if fmtSigned f then signed (fmtBits f) c else (c % 2 ^ fmtBits f : Nat)
    if v = 0 then .zero false else .dy (v < 0) v.natAbs 0 false

/-- The canonical NaN (R35, R41). -/
def canonicalNan (f : Nat) : Nat :=
  if fmtLg f then lgNan f
  else if fmtIeee f then (2 ^ ieeeExpBits f - 1) * 2 ^ (ieeePrec f - 1) + 2 ^ (ieeePrec f - 2)
  else 0

/-! ### Roots: floor(2^(E / 256)) and floor(sqrt n) -/

/-- The largest value below 2^k bits above `acc` that the test accepts, bit by bit. -/
def bitSearch (ok : Nat → Bool) : Nat → Nat → Nat
  | 0, acc => acc
  | k + 1, acc => bitSearch ok k (if ok (acc + 2 ^ k) then acc + 2 ^ k else acc)

/-- floor(2^(E / 256)), 0 when E < 0. -/
def root256 (e : Int) : Nat :=
  if e < 0 then 0
  else
    let n := e.toNat
    if n % 256 = 0 then 2 ^ (n / 256) else bitSearch (fun x => x ^ 256 ≤ 2 ^ n) (n / 256 + 1) 0

/-- floor(sqrt n). -/
def isqrt (n : Nat) : Nat := bitSearch (fun x => x * x ≤ n) (bitLen n / 2 + 1) 0

/-- T[f], the 24-bit significand of the linearisation (R48). -/
def lgT (f : Nat) : Nat := (root256 (256 * 24 + f) + 1) / 2

/-- lin: the binary32 rounding of 2^(L / 256) as an exact value (R48, R49). -/
def lin (neg : Bool) (l : Int) : Val := .dy neg (lgT (l % 256).toNat) (l / 256 - 23) false

/-- An `lg` value as a dyadic with at least 80 significant bits; exact when the log is an integer. -/
def lgDyadic (neg : Bool) (l : Int) : Val :=
  if l % 256 = 0 then .dy neg 1 (l / 256) false
  else .dy neg (root256 (l % 256 + 256 * 80)) (l / 256 - 80) true

/-! ### Rounding -/

/-- Round q = num / den (den > 0) to the nearest integer, ties to even. -/
def rneDiv (num : Int) (den : Nat) : Int :=
  let q := num / den
  let r := num % den
  if 2 * r < den then q else if 2 * r > den then q + 1 else if q % 2 = 0 then q else q + 1

/-- (m + ε) / 2^s to the nearest integer, ties to even, or truncated; and whether it was inexact. -/
def shiftRound (m s : Nat) (sticky trunc : Bool) : Nat × Bool :=
  let q := m / 2 ^ s
  let r := m % 2 ^ s
  let inexact := decide (r ≠ 0) || sticky
  if trunc || s = 0 then (q, inexact)
  else
    let half := 2 ^ (s - 1)
    if half < r || (r = half && (sticky || q % 2 = 1)) then (q + 1, inexact) else (q, inexact)

/-- Round (m + ε) × 2^e to an IEEE format (R39, R42): code without sign, and flags. R47 gives ±infinity, "IEEE rounding",
for an overflow; under truncation that is read as IEEE rounding toward zero, the largest finite value (DEDUCED,
log 120). -/
def roundIeee (f m : Nat) (e : Int) (sticky trunc : Bool) : Nat × Nat :=
  let p := ieeePrec f
  let emin : Int := 1 - ieeeBias f
  let top : Int := e + bitLen m - 1
  let scale := fun (q : Int) => if q ≤ e then (m * 2 ^ (e - q).toNat, sticky) else shiftRound m (q - e).toNat sticky trunc
  let free := scale (top - (p - 1 : Nat))
  let tiny := decide (top < emin) && !(decide (free.1 = 2 ^ p) && decide (top + 1 = emin))
  let q := max (top - (p - 1 : Nat)) (emin - (p - 1 : Nat))
  let r := scale q
  let big := r.1 = 2 ^ p
  let mant := if big then 2 ^ (p - 1) else r.1
  let q := if big then q + 1 else q
  let ex : Int := q + (p - 1 : Nat) + ieeeBias f
  if mant < 2 ^ (p - 1) then (mant, if r.2 then flInexact + (if tiny then flUnderflow else 0) else 0)
  else if (2 ^ ieeeExpBits f - 1 : Nat) ≤ ex then
    (if trunc then (2 ^ ieeeExpBits f - 1) * 2 ^ (p - 1) - 1 else (2 ^ ieeeExpBits f - 1) * 2 ^ (p - 1),
     flOverflow + flInexact)
  else (ex.toNat * 2 ^ (p - 1) + (mant - 2 ^ (p - 1)),
        if r.2 then flInexact + (if tiny then flUnderflow else 0) else 0)

/-- The code of an LG format nearest to centre + r, with its limits (R36, R42, R47); `exact` says that r is no
rounding. -/
def lgLimit (f : Nat) (r : Int) (exact : Bool) : Nat × Nat :=
  let c : Int := r + lgCentre f
  if (lgMax f : Int) < c then (lgMax f, flOverflow + flInexact)
  else if c < 1 then (0, flUnderflow + flInexact)
  else (c.toNat, if exact then 0 else flInexact)

/-- Nearest LG code of the log num / (256 × den) octaves, ties to the even code (R45, R46). -/
def lgFromLog (f : Nat) (num : Int) (den : Nat) : Nat × Nat :=
  let d := den * lgStep f
  lgLimit f (rneDiv num d) (num % d = 0)

/-- Nearest LG code of (m + ε) × 2^e under a scale of `sc` (R38, R45). -/
def lgFromDyadic (f m : Nat) (e sc : Int) (sticky : Bool) : Nat × Nat :=
  let k := bitLen m - 1
  if m = 2 ^ k && !sticky then lgFromLog f (256 * (e + k) - sc) 1
  else
    let fl : Int := (bitLen (m ^ 512) - 1 : Nat) + 512 * e
    let d : Int := lgStep f
    lgLimit f ((fl - 2 * sc + d) / (2 * d)) false

/-- Put the sign bit of a `w`-bit code. -/
def withSign (w : Nat) (neg : Bool) (c : Nat) : Nat := if neg then c + 2 ^ (w - 1) else c

/-- Integer conversion with saturation (R47), from an exact integer. -/
def satInt (f : Nat) (v : Int) : Nat × Nat :=
  let w := fmtBits f
  let lo : Int := if fmtSigned f then -(2 ^ (w - 1) : Nat) else 0
  let hi : Int := if fmtSigned f then (2 ^ (w - 1) : Nat) - 1 else (2 ^ w : Nat) - 1
  if v < lo then (unsigned w lo, flInvalid)
  else if hi < v then (unsigned w hi, flInvalid)
  else (unsigned w v, 0)

/-- Round a value into format `f` under a scale of `sc` for an LG destination (R39, R42, R45-R48). A signalling NaN
raises invalid (R41). -/
def encodeVal (f : Nat) (v : Val) (trunc : Bool := false) (sc : Int := 0) : Nat × Nat :=
  let w := fmtBits f
  if fmtLg f then
    match v with
    | .nan sg => (lgNan f, if sg then flInvalid else 0)
    | .inf n => if f = 1 then (withSign w n 6, flOverflow + flInexact) else (withSign w n (2 ^ (w - 1) - 1), 0)
    | .zero n => (withSign w n 0, 0)
    | .dy n m e st => let r := lgFromDyadic f m e sc st; (withSign w n r.1, r.2)
    | .lg n l => let r := lgFromLog f (l - sc) 1; (withSign w n r.1, r.2)
  else if fmtIeee f then
    match v with
    | .nan sg => (canonicalNan f, if sg then flInvalid else 0)
    | .inf n => (withSign w n ((2 ^ ieeeExpBits f - 1) * 2 ^ (ieeePrec f - 1)), 0)
    | .zero n => (withSign w n 0, 0)
    | .dy n m e st => let r := roundIeee f m e st trunc; (withSign w n r.1, r.2)
    | .lg n l =>
      match lgDyadic n l with
      | .dy _ m e st => let r := roundIeee f m e st trunc; (withSign w n r.1, r.2)
      | _ => (0, 0)
  else
    match v with
    | .nan _ => (0, flInvalid)
    | .inf n => if n then (if fmtSigned f then 2 ^ (w - 1) else 0, flInvalid)
      else (if fmtSigned f then 2 ^ (w - 1) - 1 else 2 ^ w - 1, flInvalid)
    | .zero _ => (0, 0)
    | v =>
      match (match v with | .lg n l => lgDyadic n l | v => v) with
      | .dy n m e st =>
        let r := if 0 ≤ e then (m * 2 ^ e.toNat, st) else shiftRound m (-e).toNat st trunc
        let x : Int := if n then -(r.1 : Int) else r.1
        let y := satInt f x
        (y.1, flOr y.2 (if y.2 = 0 && r.2 then flInexact else 0))
      | _ => (0, 0)

/-! ### Exact arithmetic on values -/

def Val.neg : Val → Bool
  | .nan _ => false
  | .inf n => n
  | .zero n => n
  | .dy n _ _ _ => n
  | .lg n _ => n

def Val.isNan : Val → Bool
  | .nan _ => true
  | _ => false

def Val.signalling : Val → Bool
  | .nan sg => sg
  | _ => false

/-- Negate, NaN unchanged. -/
def Val.flip : Val → Val
  | .nan sg => .nan sg
  | .inf n => .inf !n
  | .zero n => .zero !n
  | .dy n m e st => .dy (!n) m e st
  | .lg n l => .lg (!n) l

/-- The magnitude, NaN unchanged. -/
def Val.mag (v : Val) : Val := if v.neg then v.flip else v

/-- A signed integer times 2^e. -/
def valOfInt (v : Int) (e : Int) (zeroNeg : Bool := false) : Val :=
  if v = 0 then .zero zeroNeg else .dy (v < 0) v.natAbs e false

/-- Linear form of a value: LG values by lin (R48). -/
def Val.linear : Val → Val
  | .lg n l => lin n l
  | v => v

/-- A quiet NaN, or a signalling one when an operand signals (R41). -/
def nanOf (a b : Val) : Val := .nan (a.signalling || b.signalling)

/-- Exact sum of linear values, with R40 for zeros and infinities; the Boolean says that a NaN arose from operands
that are not NaN. -/
def valAdd (a b : Val) : Val × Bool :=
  if a.isNan || b.isNan then (nanOf a b, false)
  else
    match a, b with
    | .inf n, .inf n' => if n = n' then (.inf n, false) else (.nan true, true)
    | .inf n, _ => (.inf n, false)
    | _, .inf n => (.inf n, false)
    | .zero n, .zero n' => (.zero (n && n'), false)
    | .zero _, b => (b, false)
    | a, .zero _ => (a, false)
    | .dy n m e _, .dy n' m' e' _ =>
      let q := min e e'
      let x : Int := (m * 2 ^ (e - q).toNat : Nat)
      let y : Int := (m' * 2 ^ (e' - q).toNat : Nat)
      (valOfInt ((if n then -x else x) + (if n' then -y else y)) q, false)
    | _, _ => (.nan false, false)

/-- Exact product; LG operands add their logs. -/
def valMul (a b : Val) : Val × Bool :=
  let n := a.neg != b.neg
  if a.isNan || b.isNan then (nanOf a b, false)
  else
    match a, b with
    | .inf _, .zero _ => (.nan true, true)
    | .zero _, .inf _ => (.nan true, true)
    | .inf _, _ => (.inf n, false)
    | _, .inf _ => (.inf n, false)
    | .zero _, _ => (.zero n, false)
    | _, .zero _ => (.zero n, false)
    | .lg _ l, .lg _ l' => (.lg n (l + l'), false)
    | .dy _ m e _, .dy _ m' e' _ => (.dy n (m * m') (e + e') false, false)
    | _, _ => (.nan false, false)

/-- Quotient, with division by zero raised by the Boolean pair (new NaN, division by zero). -/
def valDiv (a b : Val) : Val × Bool × Bool :=
  let n := a.neg != b.neg
  if a.isNan || b.isNan then (nanOf a b, false, false)
  else
    match a, b with
    | .inf _, .inf _ => (.nan true, true, false)
    | .zero _, .zero _ => (.nan true, true, false)
    | .inf _, _ => (.inf n, false, false)
    | _, .inf _ => (.zero n, false, false)
    | .zero _, _ => (.zero n, false, false)
    | _, .zero _ => (.inf n, false, true)
    | .lg _ l, .lg _ l' => (.lg n (l - l'), false, false)
    | .dy _ m e _, .dy _ m' e' _ =>
      let k := 80 + bitLen m'
      (.dy n (m * 2 ^ k / m') (e - e' - k) (m * 2 ^ k % m' ≠ 0), false, false)
    | _, _ => (.nan false, false, false)

/-- Three-way comparison of values that are not NaN: −1, 0, 1; −0 equals +0. -/
def valCmp (a b : Val) : Int :=
  let rank : Val → Int := fun v => match v with
    | .inf n => if n then -2 else 2
    | .zero _ => 0
    | v => if v.neg then -1 else 1
  if rank a < rank b then -1
  else if rank b < rank a then 1
  else
    match a, b with
    | .lg n l, .lg _ l' => let c : Int := if l < l' then -1 else if l' < l then 1 else 0
                           if n then -c else c
    | .dy n m e _, .dy _ m' e' _ =>
      let q := min e e'
      let x := m * 2 ^ (e - q).toNat
      let y := m' * 2 ^ (e' - q).toNat
      let c : Int := if x < y then -1 else if y < x then 1 else 0
      if n then -c else c
    | _, _ => 0

/-- The order of *minimum* and *maximum*: as `valCmp` with −0 below +0 (R43). -/
def valOrder (a b : Val) : Int :=
  match a, b with
  | .zero n, .zero n' => if n && !n' then -1 else if !n && n' then 1 else 0
  | a, b => valCmp a b

/-! ### Correctly rounded functions of one argument -/

/-- floor(2^w × atanh(a / b)), low by at most one unit a term: Σ z^(2k+1) / (2k+1), z = a / b ≤ 1/3. -/
def atanhSum (w : Nat) (z z2 : Nat) : Nat → Nat → Nat
  | 0, _ => 0
  | n + 1, k => z / (2 * k + 1) + atanhSum w (z * z2 / 2 ^ w) z2 n (k + 1)

/-- Bounds of 2^w × ln(x / y) for y ≤ x ≤ 2y. -/
def lnBounds (w x y : Nat) : Int × Int :=
  let z := (x - y) * 2 ^ w / (x + y)
  let z2 := z * z / 2 ^ w
  let v := 2 * atanhSum w z z2 (w / 3 + 2) 0
  (v, v + 4 * w + 16)

/-- Bounds of 2^w × ln(m × 2^e). -/
def lnVal (w m : Nat) (e : Int) : Int × Int :=
  let k := bitLen m - 1
  let a := lnBounds w m (2 ^ k)
  let l2 := lnBounds w 2 1
  let q : Int := e + k
  if 0 ≤ q then (a.1 + q * l2.1, a.2 + q * l2.2) else (a.1 + q * l2.2, a.2 + q * l2.1)

/-- Constants 2^(2^-i) × 2^w, low by at most two units. -/
def exp2Prod (w : Nat) : Nat → Nat → Nat → Nat → Nat
  | 0, _, _, acc => acc
  | n + 1, c, f, acc =>
    let c' := isqrt (c * 2 ^ w)
    let f2 := 2 * f
    if 2 ^ w ≤ f2 then exp2Prod w n c' (f2 - 2 ^ w) (acc * c' / 2 ^ w) else exp2Prod w n c' f2 acc

/-- Bounds of 2^w × 2^(f / 2^w) for 0 ≤ f < 2^w. -/
def exp2Bounds (w f : Nat) : Nat × Nat :=
  let r := exp2Prod w w (2 * 2 ^ w) f (2 ^ w)
  (r, r + 16 * w + 32)

/-- Round a number known between lo / 2^w and hi / 2^w: the code, when both ends round to it. The number is
irrational, so the result is inexact. -/
def roundBounds (f w : Nat) (lo hi : Int) (shift : Int) : Option (Nat × Nat) :=
  if lo = 0 || hi = 0 || decide (lo < 0) ≠ decide (hi < 0) then none
  else
    let enc := fun (v : Int) => encodeVal f (.dy (v < 0) v.natAbs (shift - w) true)
    if bitLen lo.natAbs ≤ ieeePrec f + 2 then none
    else if enc lo = enc hi then some (enc lo) else none

/-- Try the working precisions in turn (Ziv's strategy). -/
def firstPrecise (g : Nat → Option (Nat × Nat)) : List Nat → Nat × Nat
  | [] => (0, 0)
  | w :: ws => match g w with
    | some r => r
    | none => firstPrecise g ws

def precisions : List Nat := [96, 192, 384, 1536, 4096]

/-- log2 of m × 2^e, not a power of two, into an IEEE format. -/
def log2Ieee (f m : Nat) (e : Int) : Nat × Nat :=
  firstPrecise (fun w =>
    let a := lnVal (2 * w) m e
    let l2 := lnBounds (2 * w) 2 1
    -- quotient bounds: ends divided by the matching end of ln 2
    let lo := if 0 ≤ a.1 then a.1 * 2 ^ w / l2.2 else -((-a.1) * 2 ^ w / l2.1 + 1)
    let hi := if 0 ≤ a.2 then a.2 * 2 ^ w / l2.1 + 1 else -((-a.2) * 2 ^ w / l2.2)
    roundBounds f w lo hi 0) precisions

/-- exp2 of ±m × 2^e, not an integer, into an IEEE format. -/
def exp2Ieee (f : Nat) (neg : Bool) (m : Nat) (e : Int) : Nat × Nat :=
  firstPrecise (fun w =>
    -- x × 2^w between fl and fl + 1
    let mag : Int := if 0 ≤ e + w then (m * 2 ^ (e + w).toNat : Nat) else (m / 2 ^ (-(e + w)).toNat : Nat)
    let exact := 0 ≤ e + w
    let fl : Int := if neg then (if exact then -mag else -mag - 1) else mag
    let i := fl / (2 ^ w : Nat)
    let fr := (fl % (2 ^ w : Nat)).toNat
    let b := exp2Bounds w fr
    roundBounds f w b.1 (b.2 + 4) i) precisions

/-- −ln(−ln u) for u = n / 2^33 in binary32, correctly rounded (R178). -/
def gumbelNoise (n : Nat) : Nat × Nat :=
  firstPrecise (fun w =>
    let t := lnVal w n (-33)
    let lo := lnVal w (-t.2).toNat (-(w : Int))
    let hi := lnVal w (-t.1).toNat (-(w : Int))
    roundBounds 0x12 w (-hi.2) (-lo.1) 0) precisions

/-- 2^(x) in octaves for a fixed rational num / den, as floor(2^w × 2^(num / den)) within a unit or two (R362). -/
def exp2Fixed (w : Nat) (num : Int) (den : Nat) : Nat :=
  let fl := num * (2 ^ w : Nat) / den
  let i := fl / (2 ^ w : Nat)
  let r := (exp2Bounds w (fl % (2 ^ w : Nat)).toNat).1
  if 0 ≤ i then r * 2 ^ i.toNat else r / 2 ^ (-i).toNat

end Sys2Proof.Machine
end

