-- ==== Sys2Proof/Machine/Power.lean ====
section
/-!
DEFINITION. Power domains, rails, the voltage loop, the cap, junction limits, ageing and vintages (R24, R25, R357,
R360-R364, R372-R384), and what is lost when power is.
-/

namespace Sys2Proof.Machine

/-- The domains a domain requires in order to be active (R24). -/
def requires (d : Nat) : List Nat :=
  if d = 0 then [] else if d = 1 then [0] else if d = 2 then [0, 1]
  else if d < 12 then [2] else if d < 16 then [2] else [2, 3, 12, 13, 14, 15]

/-- D0 and D4-D11 carry no beat-rated logic (R361). -/
def beatRated (d : Nat) : Bool := !(d = 0 || (4 ≤ d && d < 12))

/-- The commanded board rail of a domain: 0 VDD_PRS, 1 VDD_SWC, 2 VDD_CEL (R378). -/
def railOf (d : Nat) : Option Nat :=
  if 16 ≤ d then some 0 else if 12 ≤ d then some 2 else if 1 ≤ d && d < 4 then some 1 else none

namespace State

/-! ### Domains -/

/-- Domains that require `d` (R24). -/
def dependents (d : Nat) : List Nat := (List.range 80).filter fun e => (requires e).contains d

/-- D0 is active while VDD_AON is good (R372). -/
def domActive (s : State) (d : Nat) : Bool := d = 0 || (s.domain d).st = .active

/-- All four tiers are active: the cellar can be accessed (R25). -/
def tiersActive (s : State) : Bool := [12, 13, 14, 15].all s.domActive

/-- Every context of press `n` is EMPTY, its semaphores, pad and CP memories are zeroed (R349, R372). -/
def clearPress (s : State) (n : Nat) : State :=
  let s := s.stopPress n
  let s := s.setPr n { fenced := (s.pr n).fenced }
  State.dataMark { s with press := { s.press with
      pad := clearRange s.press.pad (n * 2 ^ 21) (2 ^ 21)
      imem := clearRange s.press.imem (n * 2 ^ 17) (2 ^ 17)
      dmem := clearRange s.press.dmem (n * 2 ^ 18) (2 ^ 18)
      padErr := clearRange s.press.padErr (n * 2 ^ 21) (2 ^ 21)
      imemErr := clearRange s.press.imemErr (n * 2 ^ 17) (2 ^ 17)
      dmemErr := clearRange s.press.dmemErr (n * 2 ^ 18) (2 ^ 18) } }

/-- What domain `d` loses when it goes off (R372). -/
def domLose (s : State) (d : Nat) : State :=
  if d = 3 then
    { s with vats := {}, sync := [], press := { s.press with gs := [], gsWait := [] } }
  else if 4 ≤ d && d < 12 then
    ((List.range 8).flatMap fun i => s.linksOf (8 * (d - 4) + i)).foldl (fun s l => s.dropLink l .down) s
  else if 12 ≤ d && d < 16 then
    s.setCel { s.cel with mem := [], stale := [], known := [], poison := [], err := [], saves := [], ready := false, staves := [], accesses := [] }
  else if 16 ≤ d then s.clearPress (d - 16)
  else s

/-- Initialisation of the cellar (R265): every line reads 0, and requesters are granted again. -/
def cellarInit (s : State) : State := s.setCel { s.cel with
  mem := [], stale := [], known := [], poison := [], err := [], saves := [], scrubFrom := s.mono, ready := true }

/-- A domain reaches a state (R372). The cellar tiers change together; from off they are initialised, and when they leave
off or retention the cellar book starts again (R416). -/
def domReach (s : State) (d : Nat) (t : DomState) : State :=
  let was := (s.domain d).st
  let s := s.setDomain d { s.domain d with st := t, going := none }
  match t with
  | .off => if was = .off then s else s.domLose d
  | .retention => s
  | .active =>
    if 4 ≤ d && d < 12 then
      ((List.range 8).flatMap fun i => s.linksOf (8 * (d - 4) + i)).foldl (fun s l => s.setLink l { s.link l with st := .detect }) s
    else if d ≠ 15 || was = .active then s
    else
      let s := { s with tele := { s.tele with book := [], bookSeq := 1 } }
      if was = .off then s.cellarInit else s.setCel { s.cel with ready := true }

/-- Begin a transition of a domain, of all four tiers for a tier (R372). -/
def domGo (s : State) (d : Nat) (t : DomState) : State :=
  if 12 ≤ d && d < 16 then
    [12, 13, 14, 15].foldl (fun s d => s.setDomain d { s.domain d with going := some t }) s
  else s.setDomain d { s.domain d with going := some t }

/-- VDD_CEL is within the window of an active tier; a rail that is never commanded holds its strapped voltage, which is
(R25, R378, R380). -/
def celSupply (s : State) : Bool :=
  let r := s.rail 2
  !r.commanded || (700 ≤ r.mv && r.mv ≤ 800)

/-- A domain may turn on: comparators 0 and 1 good, no trip, what it requires is active, a tier has its supply, and VDD_PRS is not
switched off for a press's (R24, R25, R384, R387, R429). -/
def domMayRise (s : State) (d : Nat) : Bool :=
  s.aon.cmp0.lvl && s.aon.cmp1.lvl && !s.aon.tripped && (requires d).all s.domActive &&
    (!(12 ≤ d && d < 16) || s.celSupply) && (d < 16 || (s.rail 0).on)

/-- A domain may leave active: every domain that depends on it has left (R24). -/
def domMayFall (s : State) (d : Nat) : Bool := !(dependents d).any s.domActive

/-- Command a rail in steps of 5 mV from its present voltage to `t`, once VOUT_MODE has been read (R379, R380). -/
def rampTo (s : State) (r t : Nat) : State :=
  let x := s.rail r
  if !x.commanded || x.dead || !x.modeRead then s
  else
    let n := (max t x.mv - min t x.mv + 4) / 5
    let s : State := (List.range n).foldl (fun s i =>
      s.emit (.pmbus r 0x21 (if x.mv ≤ t then min t (x.mv + 5 * (i + 1)) else max t (x.mv - 5 * (i + 1))))) s
    s.setRail r { s.rail r with mv := t }

/-- What the scrubber keeps while the tiers are in retention: where it stopped, and its pass (R282). -/
def scrubPlaces (s : State) : Tab Stave :=
  (s.cel.staves.map fun (e : Nat × Stave) =>
    (e.1, ({ scrubAt := e.2.scrubAt, scrubBegan := e.2.scrubBegan, scrubLate := e.2.scrubLate } : Stave))).filter fun e =>
      decide (e.2 ≠ ({} : Stave))

/-- D1-D79 are off and every content but that of D0, the flash, the fuses and the fault block is lost (R372, R384,
R387, log 20). -/
def powerOff (s : State) (keepTiers : Bool) : State :=
  let doms := s.pwr.domains.map fun (e : Nat × Domain) =>
    (e.1, { e.2 with
      st := if keepTiers && 12 ≤ e.1 && e.1 < 16 then DomState.retention else .off, going := none, dropout := false,
      paced := false })
  { ({} : State) with
    ident := { s.ident with pinApplied := none }
    faults := { s.faults with contained := [], resetDue := [], injLeft := [], injDouble := [], injCount := [],
                                  syncFenced := false, tierFenced := [], sweep := {}, mgmtCopy := [] }
    time := s.time
    aon := s.aon
    pwr := { s.pwr with
      domains := doms.filter fun e => decide (e.2 ≠ ({} : Domain))
      samples := []
      avg := 0
      capPace := none
      plan := none
      planDue := (s.pwr.plan.map Plan.asked).or s.pwr.planDue
      profileOff := none
      cap := 0
      capGid := 0xFFFF }
    cel := if keepTiers then
        { mem := s.cel.mem, stale := s.cel.stale, known := s.cel.known, poison := s.cel.poison, err := s.cel.err,
          saves := s.cel.saves, scrubFrom := s.cel.scrubFrom, staves := s.scrubPlaces }
      else {}
    fw := { features := s.fw.features, handover := s.fw.handover, activeVersion := s.fw.activeVersion, staging := s.fw.staging }
    out := s.out
    free := s.free
    pending := s.pending }

/-! ### Cooling (R395, R398) -/

/-- Hottest junction, 0.1 °C (R384). -/
def hottest (s : State) : Int := ((List.range 80).map fun d => (s.domain d).tj).foldl max 0

/-- Inlet temperature of THERM_IN, 0.1 °C: 10 mV/°C with 0.50 V at 0 °C (R385). -/
def inlet (s : State) : Int := (s.aon.cmp2.inputMv : Int) - 500

/-- The duty between two points of the curve, in 0.1 %. -/
def curveDuty : List (Int × Nat) → Int → Nat
  | [], _ => 1000
  | [(_, d)], _ => d
  | (t0, d0) :: (t1, d1) :: ps, t =>
    if t ≤ t0 then d0
    else if t < t1 then ((d0 : Int) + ((d1 : Int) - d0) * (t - t0) / (t1 - t0)).toNat
    else curveDuty ((t1, d1) :: ps) t

/-- The duty COOL_DEMAND drives (R395). -/
def coolOut (s : State) : Nat :=
  if s.aon.cmp2.lvl || s.ctl.quiesced || s.aon.tripped || s.aon.coolWatchdog then 1000
  else if s.ctl.profile = 2 then s.aon.dutyRetention
  else if s.ctl.profile = 3 then s.aon.dutyDormant
  else s.aon.fwDuty

def coolUpdate (s : State) : State :=
  if s.aon.coolDuty = s.coolOut then s
  else (s.setAon { s.aon with coolDuty := s.coolOut }).emit (.coolDuty s.coolOut)

/-- Firmware writes the duty, while it runs (R395, R398). -/
def coolWrite (s : State) : State :=
  if !s.ctl.fwReady then s.coolUpdate
  else (s.setAon { s.aon with fwDuty := curveDuty s.aon.curve (max s.hottest s.inlet), coolWatchdog := false }).coolUpdate

/-- A context whose launch is admitted with a bound holds a guarantee. -/
def contextGuaranteed (s : State) (p c : Nat) : Bool :=
  s.adm.records.any fun g => g.gid = (look {} (s.pr p).ctxs c).gid && (match g.claim with
    | .launch _ _ bound _ _ _ => bound ≠ 0
    | _ => false)

/-- Issue is paced in context `c` of press `p`: in every context from 110 °C on, in those without a guarantee from 105 °C on, while
the average power exceeds the cap, and while the press's domain is in dropout (R381, R383, R384). What pacing costs is time
(log 113). -/
def issuePaced (s : State) (p c : Nat) : Bool :=
  1100 ≤ s.hottest ||
    (!s.contextGuaranteed p c && (1050 ≤ s.hottest || s.pwr.capPace.isSome || (s.domain (16 + p)).paced))

/-! ### Floors, setpoints and rails -/

/-- ASSURED of the live vintage in M beats/s (R361). -/
def assured (s : State) (d : Nat) : Nat := if beatRated d then (s.domain d).assured else 0

/-- Effective floor (R374); a plan in progress holds the setpoint at its raised floor already (R364). -/
def effFloor (s : State) (d : Nat) : Nat :=
  let x := s.domain d
  let planned := match s.pwr.plan with
    | none => 0
    | some p => ((p.doms.find? fun e => e.domain = d).map PlanDom.floorMv).getD 0
  max planned (max (if x.floorAside then 0 else x.floor) x.floorMv)

/-- Input power limit in mW: the cap, and 600 W while the inlet is hot (R383, R387). -/
def powerLimit (s : State) : Option Nat :=
  let c := if s.pwr.cap = 0 || s.adm.capAside then none else some s.pwr.cap
  if s.aon.cmp2.lvl then some (min 600000 (c.getD 600000)) else c

/-- Every setpoint returns to its effective floor (R383, R384). -/
def toFloors (s : State) : State :=
  (List.range 80).foldl (fun s d =>
    if beatRated d && s.domActive d then s.setDomain d { s.domain d with setpoint := s.effFloor d } else s) s

/-- The voltage to which a rail is commanded: the highest setpoint of its active domains rounded up to 5 mV, 30 mV
more while one is in dropout, within the rail's window; 550 mV for tiers in retention. A domain on its way to active counts as
active, since its rail must be there first (R25, R378, R380, R381). -/
def railTarget (s : State) (r : Nat) : Nat :=
  let ds := (List.range 80).filter fun d =>
    railOf d = some r && ((s.domain d).st = .active || (s.domain d).going = some .active)
  if ds.isEmpty then
    if r = 2 && (s.domain 12).st = .retention then 550 else (s.rail r).mv
  else
    let hi := (ds.map fun d => (s.domain d).setpoint).foldl max (if r = 2 then 700 else 600)
    min (if r = 2 then 800 else 850) (ceilDiv hi 5 * 5 + (if ds.any fun d => (s.domain d).dropout then 30 else 0))

/-- POLICY_OVERRIDDEN (R304). -/
def policyOverridden (s : State) (gid resource : Nat) : State :=
  (s.logEvent { code := 0x10, severity := s.severity 0x691, source := 0x691, gid := gid, unit := resource }).assertPlain 0x691

/-! ### Vintages -/

/-- A new vintage becomes live (R361, R364): the values change together, a plan in progress restarts, software floors
above the new ceiling are set aside (R374), and admission is re-run when a rate fell or a power value rose. -/
def vintageLive (s : State) (cause : Nat) (doms : List PlanDom) : State :=
  let worse := doms.any fun p =>
    decide (p.assured < (s.domain p.domain).assured) || decide ((s.domain p.domain).leakMw < p.leakMw)
      || decide ((s.domain p.domain).dynMw < p.dynMw)
  let s := doms.foldl (fun s p => s.setDomain p.domain { s.domain p.domain with
    floorMv := p.floorMv, ceilMv := p.ceilMv, assured := p.assured, leakMw := p.leakMw, dynMw := p.dynMw }) s
  let aside := (List.range 80).filter fun d =>
    !(s.domain d).floorAside && (s.domain d).ceilMv < (s.domain d).floor && beatRated d
  let s := aside.foldl (fun s d => (s.setDomain d { s.domain d with floorAside := true }).policyOverridden 0xFFFF 5) s
  let s := (List.range 80).foldl (fun s d =>
    let x := s.domain d
    if x.last.isEmpty then s else s.setDomain d { x with base := x.last, drifts := [] }) s
  let s := s.setPwr { s.pwr with vintage := s.pwr.vintage + 1, planned := s.ns, cause := cause,
                                 planDue := s.pwr.plan.map Plan.asked,
                                 plan := none }
  let s := s.logEvent { code := 0x15, detail := [s.pwr.vintage, cause] }
  let s := s.assertPlain 0x6C4
  if worse then { s with adm := { s.adm with rerun := true } } else s

/-- The ageing acceleration factor at `mv` and `milli` °C, in units of 2^-32 (R362). -/
def ageFactor (milli : Int) (mv : Nat) : Nat := exp2Fixed 32 (4 * (milli - 85000) + 1000 * ((mv : Int) - 720)) 40000

/-- The ageing budget in hours (R362). -/
def ageBudget : Nat := 105192

/-- Stress that a future at voltage `mv` projects, against the budget, in units of 2^-32 of 0.01 h (R362). -/
def stressOk (x : Domain) (mv : Nat) : Bool :=
  let mean : Int := if x.poweredMin = 0 then 85000 else x.tempSum / x.poweredMin
  let left := (ageBudget * 60 - x.poweredMin) * 100 / 60
  decide (x.stress + ageFactor mean mv * left ≤ ageBudget * 100 * 2 ^ 32)

/-- The largest k below 2^n + `k` for which 5k mV keeps the budget: a binary search over a falling test. -/
def ceilSearch (x : Domain) : Nat → Nat → Nat
  | 0, k => k
  | n + 1, k => if stressOk x (5 * (k + 2 ^ n)) then ceilSearch x n (k + 2 ^ n) else ceilSearch x n k

/-- CEIL_MV (R362). -/
def ceilOf (x : Domain) : Nat := 5 * ceilSearch x 13 0

/-- Plan one beat-rated domain from its predicted rate at the present floor, in k beats/s, and the slope in ppm per mV
(R363). -/
def planDom (s : State) (d pred slope leak dyn : Nat) : PlanDom :=
  let x := s.domain d
  let ceil := ceilOf x
  let target := 1718550
  let short := (target - pred) * 10 ^ 6
  let need := if pred * slope = 0 then 0 else ceilDiv short (pred * slope)
  let floor := if target ≤ pred then x.floorMv else ceilDiv (x.floorMv + need) 5 * 5
  let unreachable := pred < target && pred * slope = 0
  let floor' := if unreachable || ceil < floor then ceil else floor
  let rate := pred * (10 ^ 6 + slope * (floor' - x.floorMv)) / 10 ^ 6 - pred * slope * (x.floorMv - floor') / 10 ^ 6
  { domain := d, floorMv := floor', ceilMv := ceil, assured := rate * 1000 / 1005 / 1000, leakMw := leak, dynMw := dyn }

end State

/-! ### The rows -/

/-- DOMAIN_TRANSITION_DONE (R372): the tiers complete together. -/
def execDomainTransitionDone (d : Fin 80) (s : State) : Host.Outcome State Fault Refusal :=
  match (s.domain d.val).going with
  | none => .next s
  | some t =>
    if (if t = .active then !s.domMayRise d.val else !s.domMayFall d.val) then .next s
    else if 12 ≤ d.val ∧ d.val < 16 then .next ([12, 13, 14, 15].foldl (fun s d => s.domReach d t) s)
    else .next (s.domReach d.val t)

/-- PROFILE_DOMAINS_OFF (R376): the domains go off; tiers go to retention in profile 2, for which VDD_CEL is commanded to
550 mV before command service ends (R25, R378). -/
def execProfileDomainsOff (s : State) : Host.Outcome State Fault Refusal :=
  match s.pwr.profileOff with
  | none => .next s
  | some p =>
    let s := (if p = 2 then s.rampTo 2 550 else s).powerOff (p = 2)
    .next (s.setCtl { s.ctl with profile := p }).coolUpdate

/-- DROPOUT_SET (R381): FS 0x700 + d, event 0x32, and pacing of a press. -/
def execDropoutSet (d : Fin 80) (s : State) : Host.Outcome State Fault Refusal :=
  let x := s.domain d.val
  if x.dropout || x.st ≠ .active || (railOf d.val).isNone then .next s
  else
    let s := s.setDomain d.val { x with dropout := true, paced := s.ctl.fwReady && 16 ≤ d.val }
    let s := s.setLevel (0x700 + d.val) true
    .next (s.logEvent { code := 0x32, unit := d.val, detail := [d.val] })

/-- DROPOUT_PERSIST (R381): a vintage with CAUSE 2 gives the measured assured rate. -/
def execDropoutPersist (d : Fin 80) (assured : Nat) (s : State) : Host.Outcome State Fault Refusal :=
  let x := s.domain d.val
  if !x.dropout || !s.ctl.fwReady then .next s
  else .next (s.vintageLive 2 [{ domain := d.val, floorMv := x.floorMv, ceilMv := x.ceilMv, assured := assured,
                                 leakMw := x.leakMw, dynMw := x.dynMw }])

/-- DROPOUT_CLEAR (R381). -/
def execDropoutClear (d : Fin 80) (s : State) : Host.Outcome State Fault Refusal :=
  let x := s.domain d.val
  if !x.dropout then .next s
  else
    let s := s.setDomain d.val { x with dropout := false, paced := false }
    .next ((s.setLevel (0x700 + d.val) false).logEvent { code := 0x33, unit := d.val, detail := [d.val] })

/-- VOLTAGE_LOOP_TICK (R382, R384). -/
def execVoltageLoopTick (sample : List LoopSample) (s : State) : Host.Outcome State Fault Refusal :=
  let exceeds := match s.powerLimit with
    | some l => decide (l < s.pwr.avg)
    | none => false
  let room := match s.powerLimit with
    | some l => decide (s.pwr.avg * 100 < l * 95)
    | none => true
  .next ((List.range 80).foldl (fun (s : State) d =>
    if !beatRated d || !s.domActive d then s
    else
      let x := s.domain d
      let eff := s.effFloor d
      let top := max eff (min x.ceilMv (eff + 40))
      let busy := sample.any fun e => e.domain.val = d && 50 < e.utilisationPct
      let v := if exceeds || 1000 ≤ s.hottest then eff
        else if busy && room then min top (max eff (x.setpoint + 5))
        else max eff (min top (x.setpoint - 5))
      s.setDomain d { x with setpoint := v }) s)

/-- RAIL_RAMP_STEP (R379, R380): VOUT_MODE is read first and the first VOUT_COMMAND repeats the boot voltage; later
steps move by at most 5 mV. -/
def execRailRampStep (rail : Fin 3) (acked : Bool) (mode : BitVec 8) (s : State) : Host.Outcome State Fault Refusal :=
  let x := s.rail rail.val
  if !x.commanded || x.dead || !s.ctl.fwReady then .next s
  else if !acked then .next ((s.setRail rail.val { x with dead := true }).assertSrc 0x758)
  else if !x.modeRead then
    if mode.toNat / 32 = 0 && 16 ≤ mode.toNat % 32 then
      .next ((s.setRail rail.val { x with modeRead := true }).emit (.pmbus rail.val 0x21 x.mv))
    else .next ((s.setRail rail.val { x with dead := true }).assertSrc 0x75A)
  else
    let t := s.railTarget rail.val
    let v := if x.mv < t then min t (x.mv + 5) else max t (x.mv - 5)
    if v = x.mv then .next s
    else .next ((s.setRail rail.val { x with mv := v }).emit (.pmbus rail.val 0x21 v))

/-- PMBUS_STATUS_POLL (R379): `result` is 0 read, 1 not acknowledged, 2 PEC failed. -/
def execPmbusStatusPoll (rail : Fin 3) (result : Fin 3) (status : BitVec 16) (s : State) : Host.Outcome State Fault Refusal :=
  let x := s.rail rail.val
  if !x.commanded || x.dead || !s.ctl.fwReady then .next s
  else if result.val = 1 || (result.val = 2 && 2 ≤ x.fails) then
    .next ((s.setRail rail.val { x with dead := true }).assertSrc 0x758)
  else if result.val = 2 then .next (s.setRail rail.val { x with fails := x.fails + 1 })
  else
    let s := s.setRail rail.val { x with fails := 0 }
    let bad := [15, 14, 13, 5, 4, 2, 1].any (bit status.toNat) || (x.on && bit status.toNat 6)
    .next (if bad then s.assertSrc 0x759 else s)

/-- POWER_SAMPLE (R383): floors, then pacing, then, after a whole window of pacing, the cap is set aside. -/
def execPowerSample (mw : Nat) (s : State) : Host.Outcome State Fault Refusal :=
  let w := (mw :: s.pwr.samples).take 100
  let s := s.setPwr { s.pwr with samples := w, avg := w.sum / w.length }
  match s.powerLimit with
  | none => .next (s.setPwr { s.pwr with capPace := none })
  | some l =>
    if s.pwr.avg ≤ l then .next (s.setPwr { s.pwr with capPace := none })
    else if (List.range 80).any fun d => beatRated d && s.domActive d && s.effFloor d < (s.domain d).setpoint then
      .next s.toFloors
    else
      match s.pwr.capPace with
      | none => .next (s.setPwr { s.pwr with capPace := some s.mono })
      | some t =>
        if s.mono < t + 10 ^ 6 || s.pwr.cap = 0 || s.adm.capAside then .next s
        else
          let s := { s with adm := { s.adm with capAside := true } }
          let s := (s.policyOverridden s.pwr.capGid 5).assertSrc 0x75C
          .next (s.setPwr { s.pwr with capPace := none })

/-- JUNCTION_SAMPLE (R384, R395): from 100 °C floors, 105 °C FS 0x750, 110 °C FS 0x751, 120 °C the thermal trip. -/
def execJunctionSample (d : Fin 80) (tj : Int) (s : State) : Host.Outcome State Fault Refusal :=
  let s := s.setDomain d.val { s.domain d.val with tj := tj }
  if s.aon.tripped then .next s
  else if 1200 ≤ s.hottest then
    let s := s.setAon { s.aon with thermtrip := true, tripped := true }
    .next (s.powerOff false).coolUpdate
  else
    let s := s.setLevel 0x750 (1050 ≤ s.hottest)
    let s := s.setLevel 0x751 (1100 ≤ s.hottest)
    let s := if 1000 ≤ s.hottest then s.toFloors else s
    .next s.coolWrite

/-- Canary readings against the previous ones: those within ±10 % are kept, the others discarded (R360). -/
def plausible (last now : List Nat) : List Nat × Bool :=
  let z := now.zipIdx.map fun (e : Nat × Nat) =>
    match last[e.2]? with
    | some l => if e.1 ≠ 0 && l * 90 ≤ e.1 * 100 && e.1 * 100 ≤ l * 110 then (e.1, true) else (l, false)
    | none => (e.1, e.1 ≠ 0)
  (z.map Prod.fst, z.all Prod.snd)

/-- Drift in ppm: the largest of base / now - 1 (R360). -/
def driftPpm (base now : List Nat) : Nat :=
  ((base.zip now).map fun (e : Nat × Nat) => if e.2 = 0 then 0 else e.1 * 10 ^ 6 / e.2 - 10 ^ 6).foldl max 0

/-- CANARY_SAMPLE (R360, R363): a mean drift above 1 % over three samples makes a vintage due with CAUSE 1. -/
def execCanarySample (d : Fin 80) (readings : List Nat) (s : State) : Host.Outcome State Fault Refusal :=
  if !s.domActive d.val || !s.ctl.fwReady then .next s
  else
    let x := s.domain d.val
    let r := plausible x.last (readings.take 4)
    let base := if x.base.isEmpty then r.1 else x.base
    let ds := (driftPpm base r.1 :: x.drifts).take 3
    let s := s.setDomain d.val { x with base := base, last := r.1, drifts := ds }
    let s := if r.2 then s else s.assertSrc 0x6C7
    .next (if ds.length = 3 && 30000 < ds.sum then s.setPwr { s.pwr with planDue := some 1 } else s)

/-- STRESS_ACCRUE (R362): 60 / 3,600 of an hour at the interval's mean temperature and supply. -/
def execStressAccrue (d : Fin 80) (tjMilli : Int) (mv : Nat) (s : State) : Host.Outcome State Fault Refusal :=
  if !s.domActive d.val then .next s
  else
    let x := s.domain d.val
    .next (s.setDomain d.val { x with stress := x.stress + State.ageFactor tjMilli mv * 100 / 60, measured := mv,
                                      poweredMin := x.poweredMin + 1, tempSum := x.tempSum + tjMilli })

/-- SENSOR_CALIBRATION (R357): a failed calibration sets FS 0x6B4. -/
def execSensorCalibration (failed : Bool) (s : State) : Host.Outcome State Fault Refusal :=
  .next (if failed && s.ctl.fwReady then s.assertSrc 0x6B4 else s)

/-- VINTAGE_PLAN (R363): 7 days after the live vintage (CAUSE 0), on drift (1) or at boot (3). A floor that would
exceed CEIL_MV makes the cause 4 and sets FS 0x6C6. -/
def execVintagePlan (cause : BitVec 8) (predicted slope leak dyn : Tab Nat) (s : State) : Host.Outcome State Fault Refusal :=
  let week := 7 * 86400 * 10 ^ 9
  let due := (cause = 0 && s.pwr.planned + week ≤ s.ns)
    || ((cause.toNat < 2 || cause.toNat = 3) && s.pwr.planDue = some cause.toNat)
  if !due || !s.ctl.fwReady then .next s
  else
    let ds := (List.range 80).filter beatRated
    let ps := ds.map fun d => s.planDom d (look ((s.domain d).assured * 1005) predicted d) (look 0 slope d)
      (look (s.domain d).leakMw leak d) (look (s.domain d).dynMw dyn d)
    let limited := ps.any fun p => p.assured < 1710
    let s := s.setPwr { s.pwr with
      planDue := none
      plan := some { number := s.pwr.vintage + 1, cause := if limited then 4 else cause.toNat, doms := ps, asked := cause.toNat } }
    .next (if limited then s.assertSrc 0x6C6 else s)

/-- VINTAGE_ADOPT (R364): the raised floors have been reached and the canaries confirm the rates; the record is written
to flash (a failed write sets FS 0x6B5 and leaves the old one live), and the vintage becomes live. -/
def execVintageAdopt (confirmed writeOk : Bool) (s : State) : Host.Outcome State Fault Refusal :=
  match s.pwr.plan with
  | none => .next s
  | some p =>
    if !confirmed || !s.ctl.fwReady then .next s
    else if !writeOk then .next (s.assertSrc 0x6B5)
    else .next (State.vintageLive (s.setPwr { s.pwr with plan := none }) p.cause p.doms)

end Sys2Proof.Machine
end

