-- ==== Sys2Proof/Machine/Aon.lean ====
section
/-!
DEFINITION. The always-on domain: comparators, chattering inputs, COOL_DEMAND's watchdog, RACK_CLK, RACK_PPS, the
alarm, and the time servo with its TIME packets (R340, R385-R395, R432).
-/

namespace Sys2Proof.Machine

namespace State

/-! ### Comparators -/

def cmp (s : State) (c : Nat) : Comparator :=
  match c with
  | 0 => s.aon.cmp0
  | 1 => s.aon.cmp1
  | 2 => s.aon.cmp2
  | _ => s.aon.cmp3

def setCmp (s : State) (c : Nat) (v : Comparator) : State :=
  match c with
  | 0 => s.setAon { s.aon with cmp0 := v }
  | 1 => s.setAon { s.aon with cmp1 := v }
  | 2 => s.setAon { s.aon with cmp2 := v }
  | _ => s.setAon { s.aon with cmp3 := v }

/-- The safe value of a comparator's LEVEL (R386). -/
def cmpSafe (c : Nat) : Bool := c = 2

/-- The side an input lies on; none within the band (R385). WAKE_N is inverted. -/
def cmpSide (s : State) (c mv : Nat) : Option Bool :=
  let hl := match c with
    | 0 => (710, 690)
    | 2 => (s.aon.vtHi, s.aon.vtLo)
    | _ => (1170, 630)
  if hl.1 < mv then some (c ≠ 3) else if mv < hl.2 then some (c = 3) else none

/-! ### Time quality and TIME packets -/

/-- This device is the discovery root, and so the time root (R106, R389). -/
def isRoot (s : State) : Bool := s.fab.disc = .ready && s.fab.root.1 = s.ident.serial

/-- A dimension link is up: one member of its bundle is ACTIVE, and it is not declared down (R98, R100). -/
def dimUp (s : State) (d : Nat) : Bool :=
  !(s.dim d).down && (s.bundle d).any fun p => (s.link (p * 4)).st = .active && !(s.port p).quarantined && !(s.port p).excluded

/-- Time root's FNA as this device knows it. -/
def timeRootFna (s : State) : Nat := if s.isRoot then s.fab.fna.getD 0 else s.time.rootFna

/-- Type-specific bytes of a TIME packet (R391). -/
def timeTspec (s : State) (msg : Nat) : List Byte :=
  let rq := if s.isRoot then s.time.quality else s.time.rootQuality
  [BitVec.ofNat 8 msg, BitVec.ofNat 8 (s.time.quality + 4 * rq), BitVec.ofNat 8 s.time.depth, 0]
  ++ leBytes 4 s.timeRootFna ++ leBytes 4 (if s.isRoot then 0 else 0xFFFFFFFF) ++ [0, 0, 0, 0]

/-- Send one TIME packet on links, from a single cask (R143, R391); a miswired link carries DISCOVERY only (R105). -/
def sendTimes (s : State) (ls : List Nat) (msg : Nat) (tA tB : BitVec 64) : State :=
  let on := ls.filter fun l => (s.link l).st = .active && !((s.linkDim l).any fun d => (s.dim d).miswired)
  s.originateMany on { ty := 0x0A, tc := 7, devt := true, dst := 0, src := s.ownAddr, tspec := s.timeTspec msg,
                       payload := leBytes 8 tA.toNat ++ leBytes 8 tB.toNat }

def sendTime (s : State) (l msg : Nat) (tA tB : BitVec 64) : State := s.sendTimes [l] msg tA tB

/-- Dimension ports, and links of endpoints that hold an address. -/
def dimPorts (s : State) : List Nat := s.fab.map.filterMap fun e => e.2.map fun _ => e.1

def endpointLinks (s : State) : List Nat := (s.fab.slots.filter fun e => e.2.assigned && !e.2.quarantined).map Prod.fst

/-- ANNOUNCE to each endpoint (R391). -/
def announceTime (s : State) : State :=
  s.sendTimes s.endpointLinks 1 (BitVec.ofNat 64 s.ns) 0

/-- A change of quality: event 0x31 TIME_STATE and ANNOUNCE (R390, R391). -/
def setQuality (s : State) (q : Nat) : State :=
  if s.time.quality = q then s
  else
    let s := s.setTime { s.time with quality := q }
    (s.logEvent { code := 0x31, detail := [q] }).announceTime

/-- STEP to the device's children and endpoints: every dimension port but the parent's (R389, R393). -/
def sendStep (s : State) (deltaNs : Int) : State :=
  let t := BitVec.ofInt 64 deltaNs
  let up := s.dimPorts.filter fun p => (look none s.fab.map p).map Prod.fst ≠ s.time.parent
  s.sendTimes (up.map (· * 4) ++ s.endpointLinks) 3 t 0

/-- Fabric time steps by `delta`, in 2^-40 ns (R393). -/
def stepTime (s : State) (delta : Int) : State :=
  let n := (s.time.now : Int) + delta
  let n' := if n < 0 then 0 else n
  s.setTime { s.time with now := n'.toNat, stepped := s.time.stepped + (n' - s.time.now) }

/-- Dimension `d` may lead to the time parent: FNA and root's FNA differ there, and its link is up, is not miswired and does
not lead to a hole (R105, R389). -/
def leadsToRoot (s : State) (d : Nat) : Bool :=
  match s.fab.fna with
  | none => false
  | some f => bit (f ^^^ s.timeRootFna) d && s.dimUp d && !(s.dim d).miswired && !look false s.fab.holes (s.partner f d)

/-- The dimension of the time parent: the lowest one that leads to the root (R389). -/
def timeParentOf (s : State) : Option Nat :=
  if s.isRoot then none else (List.range s.fab.ndim).find? s.leadsToRoot

/-- Take the time parent again after a link or a hole changed: a parent that is lost, not one that gives way to a lower
dimension, sets FS 0x760, and a device without one enters HOLDOVER (R389). -/
def reparent (s : State) : State :=
  let p := s.timeParentOf
  if s.time.parent = p then s
  else
    let was := s.time.parent
    let s := s.setTime { s.time with parent := p, goodRun := 0 }
    let s := if was.any fun d => !s.leadsToRoot d then s.assertSrc 0x760 else s
    if p.isNone && was.isSome && !s.isRoot then s.setQuality 3 else s

/-- INCR as the servo sets it: within 100 ppm of nominal, the gains being left open (R389, log 7). -/
def servo (s : State) : State :=
  let f := s.fresh
  let m := 10 * 2 ^ 40 / 10000
  f.2.setTime { s.time with incr := 10 * 2 ^ 40 - m + Config.freeNat f.1 % (2 * m + 1) }

/-- One period of the counting clock (R388), with the slew of TIME_SET at 100 ppm (R393). -/
def tick (s : State) : State :=
  let m := ((s.time.incr / 10000 : Nat) : Int)
  let x := if s.time.slewLeft < 0 then max s.time.slewLeft (-m) else min s.time.slewLeft m
  s.setTime { s.time with now := (s.time.now + s.time.incr + x).toNat % 2 ^ 104, slewLeft := s.time.slewLeft - x }

/-- What an empty queue does: while RACK_CLK is lost, one period of D0's own 100 MHz oscillator at the last INCR (R388);
otherwise the block idles (log 2). -/
def idle (s : State) : State := if s.time.clkLost then s.tick else s

/-! ### What a comparator does -/

/-- D1-D79 go off for want of a supply; D0 still knows that the device was in profile 2 or 3, from which it wakes (R377, R387,
R432). -/
def supplyLost (s : State) : State :=
  let t := s.powerOff false
  if s.ctl.profile = 2 || s.ctl.profile = 3 then t.setCtl { t.ctl with profile := s.ctl.profile } else t

/-- Set LEVEL and BAND and act on a change of LEVEL (R387). -/
def cmpAct (s : State) (c : Nat) (lvl band : Bool) : State :=
  let x := s.cmp c
  if x.lvl = lvl && x.band = band then s
  else
    let s := s.setCmp c { x with lvl := lvl, band := band, since := s.mono }
    if x.lvl = lvl then s
    else match c with
      | 0 => if lvl then s.setLevel 0x770 false else (s.setLevel 0x770 true).setQuality 0
      | 1 => if lvl then s.setLevel 0x771 false
             else (s.supplyLost.setLevel 0x771 true).coolUpdate
      | 2 => (s.setLevel 0x753 lvl).coolUpdate
      | _ =>
        if !lvl then s
        else
          let s := s.setAon { s.aon with wakeRequest := false }
          if s.ctl.profile = 2 || s.ctl.profile = 3 then s.setAon { s.aon with waking := true } else s

/-- Evaluate a comparator on its input (R385, R386); a masked one holds its safe value (R432). -/
def cmpEval (s : State) (c mv : Nat) : State :=
  let x := s.cmp c
  let s := s.setCmp c { x with inputMv := mv }
  if x.chatter then s
  else match s.cmpSide c mv with
    | some v => s.cmpAct c v false
    | none => s

/-- Declare an input chattering (R432): LEVEL holds its safe value, which for comparators 0 and 1 turns D1-D79 off, or RACK_PPS
pulses are ignored. -/
def chatterSet (s : State) (i : Nat) : State :=
  if i = 4 then (s.setAon { s.aon with ppsChatter := true }).setLevel 0x784 true
  else
    let s := s.setCmp i { s.cmp i with chatter := true }
    let s := (s.cmpAct i (cmpSafe i) (s.cmp i).band).setLevel (0x780 + i) true
    if i = 0 then s.supplyLost.coolUpdate else s

/-- The THERM_IN or WAKE_N comparator is re-armed by a write of 1 to its CHATTER bit; comparators 0 and 1 only by D0
power-on (R340, R432). -/
def rearm (s : State) (c : Nat) : State :=
  let x := s.cmp c
  if !x.chatter || c < 2 then s
  else ((s.setCmp c { x with chatter := false }).setLevel (0x780 + c) false).cmpEval c x.inputMv

end State

/-! ### The rows -/

def execComparatorRearm (v : BitVec 32) (s : State) : Host.Outcome State Fault Refusal :=
  .next ((List.range 4).foldl (fun s c => if bit v.toNat (4 * c + 2) then s.rearm c else s) s)

def execComparatorChange (c : Fin 4) (mv : Nat) (s : State) : Host.Outcome State Fault Refusal :=
  .next (s.cmpEval c.val mv)

/-- COMPARATOR_POWER_ON (R386): D0 powers on, every other domain is off; the time and AON block takes its reset values
(R332), and each comparator is first evaluated. -/
def execComparatorPowerOn (mv : List Nat) (s : State) : Host.Outcome State Fault Refusal :=
  let s := { s.powerOff false with aon := {}, time := {}, faults := {} }
  .next ((List.range 4).foldl (fun s c => s.cmpEval c (mv.getD c 0)) s)

def execInputChatter (i : Fin 5) (s : State) : Host.Outcome State Fault Refusal := .next (s.chatterSet i.val)

/-- INPUT_STUCK_TIMEOUT (R432): only WAKE_N and RACK_PPS have a stuck limit. -/
def execInputStuckTimeout (i : Fin 5) (s : State) : Host.Outcome State Fault Refusal :=
  .next (if i.val < 3 then s else s.chatterSet i.val)

/-- ALARM_FIRE (R394). -/
def execAlarmFire (s : State) : Host.Outcome State Fault Refusal :=
  if s.time.alarmAction = 0 || s.ns < s.time.alarm then .next s
  else
    let s' := s.setTime { s.time with fired := true, alarmAction := 0 }
    let s' := s'.logEvent { code := 0x30, detail := [s.time.alarm] }
    .next (if s.time.alarmAction = 2 then s'.setAon { s'.aon with wakeRequest := true } else s')

/-- RACK_CLK_LOSS (R388): FS 0x762 and HOLDOVER. -/
def execRackClkLoss (s : State) : Host.Outcome State Fault Refusal :=
  .next (((s.setTime { s.time with clkLost := true }).setLevel 0x762 true).setQuality 3)

/-- RACK_CLK_RETURN (R388): D0 counts from RACK_CLK again; the root's quality is again its own (R390), a child's
follows its next EXCHANGE. -/
def execRackClkReturn (s : State) : Host.Outcome State Fault Refusal :=
  if !s.time.clkLost then .next s
  else
    let s := (s.setTime { s.time with clkLost := false }).setLevel 0x762 false
    .next (if s.isRoot then s.setQuality (if s.time.timeSet then 2 else 0) else s)

/-- RACK_CLK_EDGE (R388): INCR is added; edges of a lost clock do not count. -/
def execRackClkEdge (s : State) : Host.Outcome State Fault Refusal :=
  .next (if s.time.clkLost then s else s.tick)

/-- HEARTBEAT_TICK (R335). -/
def execHeartbeatTick (s : State) : Host.Outcome State Fault Refusal :=
  .next (if s.ctl.fwReady && !s.ctl.cmdPaused then s.setCtl { s.ctl with heartbeat := s.ctl.heartbeat + 1 } else s)

/-- Two pulse offsets agree within 50 ns (R392). -/
def ppsNear (a b : Int) : Bool := decide (a - b ≤ 50) && decide (b - a ≤ 50)

/-- The last four ignored pulses, the present one of offset `off` included (R392). -/
def State.ppsWindow (s : State) (off : Int) : List Int := ((s.time.ppsIgnored ++ [off]).reverse.take 4).reverse

/-- Four consecutive ignored pulses agree with one another (R392). -/
def ppsAgree (w : List Int) : Bool := w.length = 4 && w.all fun a => w.all fun b => ppsNear a b

/-- RACK_PPS_PULSE (R392): `offsetNs` is the pulse's distance from 100,000,000 RACK_CLK periods after the last accepted
one. The fourth ignored pulse of four that agree is counted as ignored and its phase is accepted. -/
def execRackPpsPulse (offsetNs : Int) (s : State) : Host.Outcome State Fault Refusal :=
  let ign := s.ppsWindow offsetNs
  let first := !s.time.ppsValid && s.time.ppsIgnored.isEmpty && s.time.ppsIgnoredCount = 0
  let good := !s.aon.ppsChatter && (first || ppsNear offsetNs 0)
  let s := if good then s
    else (s.setTime { s.time with ppsIgnoredCount := s.time.ppsIgnoredCount + 1 }).assertSrc 0x763
  if s.aon.ppsChatter then .next s
  else if good || ppsAgree ign then
    let half : Int := 500000000
    let off := ((s.ns : Int) + half) % 10 ^ 9 - half
    let s := s.setTime { s.time with ppsValid := true, ppsIgnored := [], ppsNs := off }
    match s.time.stepDue with
    | some t =>
      let delta := (t : Int) - s.time.now
      let s := (s.setTime { s.time with stepDue := none, timeSet := true }).stepTime delta
      .next ((s.sendStep (delta / 2 ^ 40)).setQuality 2)
    | none => .next (if s.isRoot then s.servo else s)
  else
    .next (s.setTime { s.time with ppsValid := false, ppsIgnored := ign })

/-- TIME_EXCHANGE_TIMER (R389, R391). -/
def execTimeExchangeTimer (s : State) : Host.Outcome State Fault Refusal :=
  let s := s.dimPorts.foldl (fun s p =>
    match look none s.time.lastRx p with
    | some (a, b) => s.sendTime (p * 4) 2 a b
    | none => s) s
  .next s.announceTime

/-- TIME_EXCHANGE_RECEIVE (R389, R390): `t1`, `t2` are the TIME_TX and receive stamp of a flit from the parent. -/
def execTimeExchangeReceive (port : Fin 64) (m : TimeMsg) (t1 t2 : BitVec 64) (s : State) : Host.Outcome State Fault Refusal :=
  let s := if s.time.parent.isNone && !s.isRoot then (s.setTime { s.time with rootFna := m.rootFna.toNat }).reparent else s
  let d := (look none s.fab.map port.val).map Prod.fst
  if m.msg ≠ 2 || d.isNone || d ≠ s.time.parent then .next s
  else
    let s := s.setTime { s.time with rootFna := m.rootFna.toNat, rootQuality := m.rootQuality.toNat, depth := min 255 (m.depth.toNat + 1) }
    if 10 ^ 6 * 2 ^ 16 < (t2 - m.tA).toInt.natAbs then .next s
    else
      let off := ((t2 - t1).toInt - (m.tB - m.tA).toInt).tdiv 2
      let a := off.natAbs
      let s := s.setTime { s.time with offset := off }
      let s := if s.time.quality = 0 || s.time.quality = 3 && !s.time.clkLost then s.setQuality 1 else s
      let s := if s.time.quality = 2 && 100 * 2 ^ 16 < a then (s.setQuality 1).assertSrc 0x764 else s
      let run := if a ≤ 20 * 2 ^ 16 then s.time.goodRun + 1 else 0
      let s := s.setTime { s.time with goodRun := run }
      let s := if s.time.quality = 1 && 8 ≤ run then s.setQuality 2 else s
      if 1000 * 2 ^ 16 < a then .next (((s.stepTime (-off * 2 ^ 24)).assertSrc 0x761).sendStep (-(off.tdiv (2 ^ 16))))
      else .next s.servo

/-- TIME_STEP_RECEIVE (R393): a STEP from the time parent steps this device and is passed on. -/
def execTimeStepReceive (port : Fin 64) (m : TimeMsg) (s : State) : Host.Outcome State Fault Refusal :=
  let d := (look none s.fab.map port.val).map Prod.fst
  if m.msg ≠ 3 || d.isNone || d ≠ s.time.parent then .next s
  else .next ((s.stepTime (m.tA.toInt * 2 ^ 40)).sendStep m.tA.toInt)

/-- COOL_DEMAND_WATCHDOG (R395). -/
def execCoolDemandWatchdog (s : State) : Host.Outcome State Fault Refusal :=
  if s.ctl.profile = 2 ∨ s.ctl.profile = 3 then .next s
  else .next ((s.setAon { s.aon with coolWatchdog := true }).assertSrc 0x772).coolUpdate

end Sys2Proof.Machine
end

