-- ==== Sys2Proof/Machine/Rings.lean ====
section
/-!
DEFINITION. The command rings and the taking of commands: CR_TAIL_WRITE, RR_HEAD_WRITE, RING_RESET, CR_ENTRY_TAKE,
SPAGIL_INBAND_RECEIVE, RR_EVENT_FLUSH (R311-R314, R324, R336, R337).
-/

namespace Sys2Proof.Machine

namespace State

/-- A ring stops: STOPPED and FS 0x6A2 (R313, R337). -/
def stopRing (s : State) (r : Nat) : State := (s.setRing r { s.ring r with stopped := true }).assertSrc 0x6A2

/-- CR_TAIL doorbell (R337). A value of at least 2^SIZE_K stops the ring; a smaller one never places more than
2^SIZE_K - 1 entries ahead of CR_HEAD. -/
def crTail (s : State) (r v : Nat) : State :=
  let g := s.ring r
  if 2 ^ g.sizeK ≤ v % 4096 then s.stopRing r else s.setRing r { g with crTail := v % 4096 }

/-- RR_HEAD doorbell: one past an entry not yet written is ignored (R337). -/
def rrHead (s : State) (r v : Nat) : State :=
  let g := s.ring r
  let n := 2 ^ g.sizeK
  if n ≤ v % 4096 || (g.rrProd + n - g.rrHead) % n < (v % 4096 + n - g.rrHead) % n then s
  else s.setRing r { g with rrHead := v % 4096 }

/-- RING_CTRL (R336, R337): SIZE_K is taken only while ENABLE is 0, and RESET acts before ENABLE. -/
def ringCtrl (s : State) (r v : Nat) : State :=
  let g := s.ring r
  let g : Ring := if bit v 31 then
      { g with enable := false, stopped := false, crHead := 0, crTail := 0, rrHead := 0, rrProd := 0, wrap := true,
               held := [] }
    else g
  let k := bits v 4 1
  let g : Ring := if !g.enable && 4 ≤ k && k ≤ 12 then { g with sizeK := k } else g
  s.setRing r { g with enable := bit v 0 }

/-- Write the held replies and events, oldest first, as far as entries are free (R313). -/
def flushHeld (s : State) (r : Nat) : List SpMsg → State
  | [] => s
  | m :: ms =>
    let g := s.ring r
    if 0 < rrFree g then ((s.setRing r { g with held := ms }).rrWrite r m).flushHeld r ms else s

/-- Account a command as taken (R313, R314). -/
def take (s : State) (h : SpHdr) (limit : Nat) : State :=
  let t : Taken := { src := h.src, tag := h.tag, opcode := h.opcode, limit := limit }
  let s : State := { s with svc := { s.svc with taken := s.svc.taken ++ [t] } }
  if h.src < 4 then
    let g := s.ring h.src
    s.setRing h.src { g with outstanding := g.outstanding + 1, reserved := g.reserved + 1 }
  else s.setSource h.src { s.source h.src with outstanding := (s.source h.src).outstanding + 1 }

/-- The device may take an entry of ring `r` (R313); not before FW_READY but in ROM recovery on ring 0 (R335, R403),
nor while paused (R327). -/
def mayTake (s : State) (r : Nat) : Bool :=
  let g := s.ring r
  g.enable && !g.stopped && g.crHead ≠ g.crTail && g.outstanding < 64 && 0 < rrFree g &&
    (s.ctl.fwReady || (s.ctl.recovery && r = 0) || s.fw.identityOnly) && !s.ctl.cmdPaused

/-- The ring that the device serves now: the first one in rotating order from which it may take an entry (R311). -/
def serves (s : State) : Option Nat := ((List.range 4).map fun i => (s.svc.turn + i) % 4).find? s.mayTake

end State

def execCrTailWrite (r : Fin 4) (v : BitVec 32) (s : State) : Host.Outcome State Fault Refusal :=
  .next (if s.pcieUp then s.crTail r.val v.toNat else s)

def execRrHeadWrite (r : Fin 4) (v : BitVec 32) (s : State) : Host.Outcome State Fault Refusal :=
  .next (if s.pcieUp then s.rrHead r.val v.toNat else s)

def execRingReset (r : Fin 4) (v : BitVec 32) (s : State) : Host.Outcome State Fault Refusal :=
  .next (if s.pcieUp then s.ringCtrl r.val v.toNat else s)

/-- The form of an entry beyond its header (R312): the addresses and the length of an indirect one, reserved bytes, and parameters
that could not be read. -/
def entryCheck (e : CrEntry) : Option Fail :=
  firstFail [
    chk e.rsv 0x0104 hdrDetail,
    chk (e.hdr.indirect && 2 ^ 20 < e.hdr.plen.toNat) 0x0103 hdrDetail,
    chk (e.hdr.indirect && (e.paramAddr.toNat % 8 ≠ 0 || e.replyAddr.toNat % 64 ≠ 0 || e.replyMax.toNat % 64 ≠ 0 ||
      2 ^ 20 < e.replyMax.toNat)) 0x0105 hdrDetail,
    chk (e.hdr.indirect && !e.paramOk) 0x0106 hdrDetail]

/-- CR_ENTRY_TAKE: one entry of the ring whose turn it is (R311); a failed read of the entry stops the ring (R313); a header
at fault is answered at once (R315), and so is a parameter or reply buffer that could not be read (0x0106). A command of
another opcode then runs as its own row. -/
def execCrEntryTake (r : Fin 4) (e : CrEntry) (s : State) : Host.Outcome State Fault Refusal :=
  if s.serves ≠ some r.val then .next s
  else if !e.readOk then .next (({ s with svc := { s.svc with turn := (r.val + 1) % 4 } } : State).stopRing r.val)
  else
    let g := s.ring r.val
    let s : State := { s with svc := { s.svc with turn := (r.val + 1) % 4 } }
    let s := s.setRing r.val { g with crHead := (g.crHead + 1) % 2 ^ g.sizeK }
    let h := { e.hdr with src := r.val }
    let s := s.take h (if h.indirect && e.replyAddr ≠ 0 then max 184 e.replyMax.toNat else 184)
    match firstFail [State.hdrCheck h, entryCheck e] with
    | some f => .next (s.refuse h f)
    | none => .next s

/-- SPAGIL_INBAND_RECEIVE: at most 16 outstanding (0x0703), none taken in a FW_ACTIVATE pause (0x0702); a header at
fault is answered at once (R314, R327). -/
def execSpagilInbandReceive (h : SpHdr) (s : State) : Host.Outcome State Fault Refusal :=
  if !(s.ctl.fwReady || s.ctl.cmdPaused || s.fw.identityOnly) then .next s
  else
    let over16 := 16 ≤ (s.source h.src).outstanding
    match firstFail [State.hdrCheck h, chk (16288 < h.plen.toNat) 0x0103 hdrDetail,
        chk s.ctl.cmdPaused 0x0702 0 s.pauseLeft, chk over16 0x0703] with
    | some f => .next ((s.take h 16288).refuse h f)
    | none => .next (s.take h 16288)

def execRrEventFlush (r : Fin 4) (s : State) : Host.Outcome State Fault Refusal :=
  .next (if (s.ring r.val).enable then s.flushHeld r.val (s.ring r.val).held else s)

end Sys2Proof.Machine
end

