-- ==== Sys2Proof/Machine/Bar0.lean ====
section
/-!
DEFINITION. BAR0: what every register reads (R329-R343), what a write does by access type (R331), the fault registers
(R338, R339, R354-R356), watermark records and TRACE_CTL (R160, R421).
-/

namespace Sys2Proof.Machine

namespace State

/-! ### Reading -/

def ringStatus (g : Ring) : Nat :=
  g.crHead + (if g.stopped then 2 else if g.enable then 1 else 0) * 2 ^ 14 + g.outstanding * 2 ^ 16

/-- GSTAT (R335). -/
def gstat (s : State) : Nat :=
  b01 s.ctl.fwReady + 2 * b01 s.ctl.cmdPaused + 4 * b01 s.svc.phased.isSome + 8 * b01 s.ctl.quiesced
    + 16 * s.ctl.bootStage + 256 * s.ctl.profile

/-- AON_CMP (R340). -/
def aonCmp (s : State) : Nat :=
  ((List.range 4).map fun c =>
    (b01 (s.cmp c).lvl + 2 * b01 (s.cmp c).band + 4 * b01 (s.cmp c).chatter) * 2 ^ (4 * c)).sum

/-- Word `k` of FAULT_STICKY or FAULT_FORCE (R338). -/
def faultWord (t : Tab Bool) (k : Nat) : Nat := ((List.range 32).map fun i => b01 (look false t (32 * k + i)) * 2 ^ i).sum

/-- Record and configuration words of a watermark (R159). -/
def markRecord (w : Watermark) : Nat :=
  b01 w.event * 2 ^ 31 + b01 w.lvl * 2 ^ 30 + b01 w.armed * 2 ^ 28 + w.crossings * 2 ^ 16

def markConfig (w : Watermark) : Nat := b01 w.dir * 2 ^ 31 + w.hyst * 2 ^ 24 + w.thresh

def linkCode : LinkState → Nat
  | .detect => 0
  | .base => 1
  | .eq => 2
  | .lock => 3
  | .param => 4
  | .active => 5
  | .down => 7

/-- PORT_STATE (R343): 0 until the port's SerDes group is first powered. -/
def portState (s : State) (p : Nat) : Nat :=
  if !s.domActive (4 + p / 8) && s.ctl.bootStage ≠ 15 then 0
  else
    ((List.range 4).map fun l =>
      let k := s.link (4 * p + l)
      let w := if k.width = 4 then 2 else if k.width = 2 then 1 else 0
      (if (s.sublanes p).contains l then linkCode k.st + 8 * w + 32 * k.rate + 128 * b01 k.zp5208 else 7) * 2 ^ (8 * l)).sum

/-- The 64-bit registers, by the offset of their low half. -/
def reg64 (s : State) (off : Nat) : Option Nat :=
  if off = 0x8 then some s.ident.serial.toNat
  else if off = 0x18 then some s.pwr.vintage
  else if off = 0x28 then some s.pressMask.toNat
  else if 0x10000 ≤ off ∧ off < 0x10400 ∧ off % 256 = 0 then some (s.ring ((off - 0x10000) / 256)).crBase.toNat
  else if 0x10000 ≤ off ∧ off < 0x10400 ∧ off % 256 = 8 then some (s.ring ((off - 0x10000) / 256)).rrBase.toNat
  else if off = 0x30000 then some s.ns
  else if off = 0x30010 then some s.time.alarm
  else if off = 0x40000 then some s.tele.harvest.base.toNat
  else if off = 0x40020 then some s.tele.events.base.toNat
  else if 0x100000 ≤ off ∧ off < 0x140000 ∧ 0x100 ≤ off % 0x1000 ∧ off % 0x1000 < 0x300 then
    let k := s.lane ((off - 0x100000) / 0x1000 * 4 + (off % 0x1000 - 0x100) / 0x80)
    match off % 0x80 with
    | 0x00 => some k.corrected.toNat
    | 0x08 => some k.bad.toNat
    | 0x18 => some k.replayed.toNat
    | _ => none
  else none

/-- Registers of a record ring at `o` of its set (R341). -/
def recReg (r : RecRing) (o : Nat) : Nat :=
  match o with
  | 0x08 => b01 r.enable + 2 * r.sizeK
  | 0x0C => r.prod
  | 0x10 => r.cons
  | 0x14 => r.dropped
  | _ => 0

/-- The 32-bit registers; an unassigned offset reads 0 (R329). -/
def reg32 (s : State) (off : Nat) : Nat :=
  if off < 0x1000 then
    match off with
    | 0x00 => 0x7410 * 2 ^ 16 + s.ident.stepping.toNat
    | 0x04 => s.lcState * 2 ^ 16 + s.gradePinned * 2 ^ 8 + s.ident.gradeFused
    | 0x10 => s.fw.version.toNat
    | 0x20 => match s.fab.fna with
      | some f => f + 2 ^ 31
      | none => 0
    | _ => 0
  else if off < 0x8000 then
    match off with
    | 0x1000 => s.ctl.gctl.toNat
    | 0x1004 => s.gstat
    | 0x1008 => s.ctl.heartbeat.toNat
    | _ => if 0x1010 ≤ off ∧ off < 0x1020 then (look 0 s.ctl.scratch ((off - 0x1010) / 4)).toNat else 0
  else if off < 0x8400 then (look 0 s.ctl.msixWords off).toNat
  else if off < 0x10000 then 0
  else if off < 0x10400 then
    let g := s.ring ((off - 0x10000) / 256)
    match off % 256 with
    | 0x10 => b01 g.enable + 2 * g.sizeK
    | 0x14 => ringStatus g
    | _ => 0
  else if off < 0x20000 then
    if 0x18000 ≤ off ∧ off % 0x1000 = 0 then
      let g := s.ring ((off - 0x18000) / 0x2000)
      if off % 0x2000 = 0 then g.crTail else g.rrHead
    else 0
  else if off < 0x20100 then faultWord s.faults.sticky ((off - 0x20000) / 4)
  else if off < 0x20200 then faultWord s.faults.force ((off - 0x20100) / 4)
  else if off = 0x20200 then s.faultSummary
  else if off = 0x20204 then s.faults.injectReg.toNat
  else if 0x21000 ≤ off ∧ off < 0x21800 then
    ((List.range 4).map fun m => s.severity (off - 0x21000 + m) * 256 ^ m).sum
  else if off < 0x30000 then 0
  else if off < 0x40000 then
    match off with
    | 0x30008 => s.time.fracLatch.toNat
    | 0x30018 => b01 s.time.fired
    | 0x30020 => s.aonCmp
    | 0x30024 => s.aon.coolDuty
    | 0x30028 => b01 s.aon.thermtrip
    | _ => 0
  else if off < 0x40020 then recReg s.tele.harvest (off - 0x40000)
  else if off < 0x40040 then recReg s.tele.events (off - 0x40020)
  else if off = 0x40040 then s.tele.traceCtl.toNat
  else if 0x48000 ≤ off ∧ (off - 0x48000) / 8 < 2121 then
    let w := look {} s.tele.marks ((off - 0x48000) / 8)
    if off % 8 = 0 then markConfig w else markRecord w
  else if 0x100000 ≤ off ∧ off < 0x140000 then
    let p := (off - 0x100000) / 0x1000
    let o := off % 0x1000
    if o = 0 then s.portState p
    else if o = 4 then s.portAuth p
    else if o = 8 then (s.port p).windowRefused.toNat
    else if 0x100 ≤ o ∧ o < 0x300 then
      let k := s.lane (4 * p + (o - 0x100) / 0x80)
      match o % 0x80 with
      | 0x10 => k.retryTx.toNat
      | 0x14 => k.retryRx.toNat
      | 0x20 => k.rmDeleted.toNat
      | 0x24 => k.fom
      | _ => 0
    else 0
  else 0

/-- A 4-byte read (R330): a low half latches its high half, and FTIME also latches FTIME_FRAC; the next read of the high
half returns the latched value. -/
def read4 (s : State) (off : Nat) : Nat × State :=
  match s.reg64 off with
  | some v =>
    let s := s.setCtl { s.ctl with latchHi := put none s.ctl.latchHi off (some (BitVec.ofNat 32 (v / 2 ^ 32))) }
    let s := if off = 0x30000 then s.setTime { s.time with fracLatch := BitVec.ofNat 16 (s.time.now / 2 ^ 24) } else s
    (v % 2 ^ 32, s)
  | none =>
    if off < 4 then (s.reg32 off, s)
    else match s.reg64 (off - 4) with
      | some v =>
        match look none s.ctl.latchHi (off - 4) with
        | some h => (h.toNat, s.setCtl { s.ctl with latchHi := put none s.ctl.latchHi (off - 4) none })
        | none => (v / 2 ^ 32, s)
      | none => (s.reg32 off, s)

/-- An 8-byte read (R330): a 64-bit register at once, without a latch but that of FTIME_FRAC, or two 32-bit ones. -/
def read8 (s : State) (off : Nat) : Nat × State :=
  match s.reg64 off with
  | some v => (v, if off = 0x30000 then s.setTime { s.time with fracLatch := BitVec.ofNat 16 (s.time.now / 2 ^ 24) } else s)
  | none => (s.reg32 off + 2 ^ 32 * s.reg32 (off + 4), s)

/-! ### The fault registers -/

/-- Write severity `v` of source `i`: 6, 7 and reserved sources are ignored (R339). -/
def setSev (s : State) (i v : Nat) : State :=
  match faultDefault i with
  | none => s
  | some d =>
    if 5 < v then s
    else { s with faults := { s.faults with sev := put none s.faults.sev i (if v = d then none else some v) } }

/-- Clear the sticky bit of source `i` (R354): a cause that persists asserts again at once; otherwise the units it
contained return through a unit reset, once no other source contains them. -/
def clearSticky (s : State) (i : Nat) : State :=
  if !look false s.faults.sticky i then s
  else
    let s := { s with faults := { s.faults with sticky := put false s.faults.sticky i false } }
    let s := if i = 0x784 && s.aon.ppsChatter then
        let s := s.setAon { s.aon with ppsChatter := false }
        { s with faults := { s.faults with level := put false s.faults.level i false } }
      else s
    if look false s.faults.force i || look false s.faults.level i then s.assertSrc i
    else
      let mine := s.faults.contained.filter fun e => e.1 = i
      let rest := s.faults.contained.filter fun e => e.1 ≠ i
      let back := mine.filter fun e => !(rest.any fun o => o.2 = e.2)
      { s with faults := { s.faults with contained := rest, resetDue := s.faults.resetDue ++ back } }

/-- Set or clear the force bit of source `i`; a reserved one ignores the write (R339, R346, R355). -/
def setForce (s : State) (i : Nat) (on : Bool) : State :=
  if faultDefault i = none then s
  else
    let was := look false s.faults.force i
    let s := { s with faults := { s.faults with
      force := put false s.faults.force i on
      forceTime := if on then s.faults.forceTime else put 0 s.faults.forceTime i 0 } }
    if on && !was then s.assertSrc i else s

/-- Where the words left of an injection are counted: per press for the pads and the CP memories (R356). -/
def injKey (g p : Nat) : Nat := if g = 0x44 ∨ g = 0x45 then 128 + 64 * (g - 0x44) + p else g

/-- Words left of group `g`'s injection, over every place it counts. -/
def injRemains (s : State) (g : Nat) : Bool := (List.range 64).any fun p => look 0 s.faults.injLeft (injKey g p) ≠ 0

def injRunning (s : State) (g : Nat) : Bool := look 0 s.faults.injCount g ≠ 0

/-- Start the injection of a group (R356); COUNT 0 starts and ends at once. -/
def injStart (s : State) (group count : Nat) : State :=
  let g := group % 128
  let s := s.logEvent { code := 0x20, unit := g, detail := [group, count] }
  if count = 0 then s.logEvent { code := 0x21, unit := g, detail := [group, count] }
  else
    let ps := if g = 0x44 ∨ g = 0x45 then (List.range 64).filter s.pressEnabled else [0]
    { s with faults := { s.faults with
        injLeft := ps.foldl (fun t p => put 0 t (injKey g p) count) s.faults.injLeft
        injDouble := put false s.faults.injDouble g (bit group 7)
        injCount := put 0 s.faults.injCount g count } }

/-- A write of FAULT_INJECT (R338, R339, R356). -/
def faultInject (s : State) (v : Nat) : State :=
  let s := { s with faults := { s.faults with injectReg := BitVec.ofNat 32 (v % 2 ^ 24) } }
  let g := v % 128
  if bit v 31 && g ≤ 0x46 && !s.injRunning g then s.injStart (v % 256) (bits v 23 8) else s

/-- Take one word of a running injection of group `g` at press `p`: none, or whether it carries the DOUBLE pattern. -/
def injTake (s : State) (g p : Nat) : Option Bool × State :=
  let n := look 0 s.faults.injLeft (injKey g p)
  if n = 0 then (none, s)
  else (some (look false s.faults.injDouble g),
        { s with faults := { s.faults with injLeft := put 0 s.faults.injLeft (injKey g p) (n - 1) } })

/-- The same for `n` words written at once. -/
def injTakeN (s : State) (g p n : Nat) : Option Bool × State :=
  let left := look 0 s.faults.injLeft (injKey g p)
  if left = 0 || n = 0 then (none, s)
  else (some (look false s.faults.injDouble g),
        { s with faults := { s.faults with injLeft := put 0 s.faults.injLeft (injKey g p) (left - n) } })

/-! ### Writing -/

/-- A write of a record word: EVENT W1C, ARM W1S, CROSSINGS CNT (R159, R331). -/
def markWrite (s : State) (i v : Nat) : State :=
  let w := look {} s.tele.marks i
  let w := { w with event := w.event && !bit v 31, armed := w.armed || bit v 29, crossings := bits v 23 16 }
  { s with tele := { s.tele with marks := put {} s.tele.marks i w } }

/-- TRACE_CTL (R341, R421): a freeze is released by CORE_EN 0 and then a nonzero value. -/
def traceWrite (s : State) (v : Nat) : State :=
  let t := s.tele
  let en := v % 64
  let armed := t.frozen && (t.releaseArmed || en = 0)
  let free := t.frozen && t.releaseArmed && en ≠ 0
  { s with tele := { t with traceCtl := BitVec.ofNat 32 (en + 256 * b01 (bit v 8)), frozen := t.frozen && !free,
                            releaseArmed := armed && !free } }

/-- A record ring's CTRL, CONS and DROPPED (R341). A SIZE_K outside 6 to 20, for which the spec states no effect, leaves the field as
it was (log 101). -/
def recWrite (r : RecRing) (o v : Nat) : RecRing :=
  match o with
  | 0x08 =>
    let k := bits v 5 1
    { r with enable := bit v 0, sizeK := if 6 ≤ k ∧ k ≤ 20 then k else r.sizeK }
  | 0x10 => { r with cons := v }
  | 0x14 => { r with dropped := v }
  | _ => r

/-- A write of a whole 64-bit register (R330, R331): base addresses are taken only while their ring is disabled. -/
def write64 (s : State) (off v : Nat) : State :=
  let b := BitVec.ofNat 64 v
  if 0x10000 ≤ off ∧ off < 0x10400 then
    let r := (off - 0x10000) / 256
    let g := s.ring r
    if g.enable then s
    else if off % 256 = 0 then s.setRing r { g with crBase := b &&& ~~~4095#64 }
    else s.setRing r { g with rrBase := b &&& ~~~4095#64 }
  else if off = 0x40000 then
    if s.tele.harvest.enable then s
    else { s with tele := { s.tele with harvest := { s.tele.harvest with base := b &&& ~~~4095#64 } } }
  else if off = 0x40020 then
    if s.tele.events.enable then s
    else { s with tele := { s.tele with events := { s.tele.events with base := b &&& ~~~4095#64 } } }
  else if 0x100000 ≤ off then
    let l := (off - 0x100000) / 0x1000 * 4 + (off % 0x1000 - 0x100) / 0x80
    let k := s.lane l
    match off % 0x80 with
    | 0x00 => s.setLane l { k with corrected := b }
    | 0x08 => s.setLane l { k with bad := b }
    | _ => s.setLane l { k with replayed := b }
  else s

/-- A write of a 32-bit register; RO registers and unassigned offsets ignore it (R12, R329, R331). -/
def write32 (s : State) (off v : Nat) : State :=
  if off < 0x1000 then s
  else if off < 0x8000 then
    if off = 0x1000 then s.setCtl { s.ctl with gctl := BitVec.ofNat 32 (v % 8) }
    else if off = 0x1008 then s.setCtl { s.ctl with heartbeat := BitVec.ofNat 32 v }
    else if 0x1010 ≤ off ∧ off < 0x1020 then
      s.setCtl { s.ctl with scratch := put 0 s.ctl.scratch ((off - 0x1010) / 4) (BitVec.ofNat 32 v) }
    else s
  else if off < 0x8400 then s.setCtl { s.ctl with msixWords := put 0 s.ctl.msixWords off (BitVec.ofNat 32 v) }
  else if off < 0x10000 then s
  else if off < 0x10400 then
    if off % 256 = 0x10 then s.ringCtrl ((off - 0x10000) / 256) v else s
  else if off < 0x20000 then
    if 0x18000 ≤ off ∧ off % 0x1000 = 0 then
      let r := (off - 0x18000) / 0x2000
      if off % 0x2000 = 0 then s.crTail r v else s.rrHead r v
    else s
  else if off < 0x20100 then
    (members 32 v).foldl (fun s i => s.clearSticky ((off - 0x20000) / 4 * 32 + i)) s
  else if off < 0x20200 then
    (List.range 32).foldl (fun s i => s.setForce ((off - 0x20100) / 4 * 32 + i) (bit v i)) s
  else if off = 0x20204 then s.faultInject v
  else if 0x21000 ≤ off ∧ off < 0x21800 then
    (List.range 4).foldl (fun s m => s.setSev (off - 0x21000 + m) (bits v (8 * m + 2) (8 * m))) s
  else if off < 0x30000 then s
  else if off = 0x30018 then s.setTime { s.time with fired := s.time.fired && !bit v 0 }
  else if off = 0x30020 then (List.range 4).foldl (fun s c => if bit v (4 * c + 2) then s.rearm c else s) s
  else if off = 0x30028 then s.setAon { s.aon with thermtrip := s.aon.thermtrip && !bit v 0 }
  else if off < 0x40000 then s
  else if off < 0x40020 then { s with tele := { s.tele with harvest := recWrite s.tele.harvest (off - 0x40000) v } }
  else if off < 0x40040 then { s with tele := { s.tele with events := recWrite s.tele.events (off - 0x40020) v } }
  else if off = 0x40040 then s.traceWrite v
  else if 0x48000 ≤ off ∧ (off - 0x48000) / 8 < 2121 then
    let i := (off - 0x48000) / 8
    if off % 8 = 4 then s.markWrite i v
    else
      let w := { look {} s.tele.marks i with dir := bit v 31, hyst := bits v 27 24, thresh := v % 2 ^ 24 }
      { s with tele := { s.tele with marks := put {} s.tele.marks i w } }
  else if 0x100000 ≤ off ∧ off < 0x140000 then
    let p := (off - 0x100000) / 0x1000
    let o := off % 0x1000
    if o = 8 then s.setPort p { s.port p with windowRefused := BitVec.ofNat 32 v }
    else if 0x100 ≤ o ∧ o < 0x300 then
      let l := 4 * p + (o - 0x100) / 0x80
      let k := s.lane l
      match o % 0x80 with
      | 0x10 => s.setLane l { k with retryTx := BitVec.ofNat 32 v }
      | 0x14 => s.setLane l { k with retryRx := BitVec.ofNat 32 v }
      | 0x20 => s.setLane l { k with rmDeleted := BitVec.ofNat 32 v }
      | _ => s
    else s
  else s

/-- A 4-byte write (R330): a low half is held, and the whole value takes effect on the write of the high half. -/
def write4 (s : State) (off v : Nat) : State :=
  match s.reg64 off with
  | some _ => s.setCtl { s.ctl with heldLo := put none s.ctl.heldLo off (some (BitVec.ofNat 32 v)) }
  | none =>
    if off < 4 then s.write32 off v
    else match s.reg64 (off - 4) with
      | some w =>
        let lo := ((look none s.ctl.heldLo (off - 4)).map BitVec.toNat).getD (w % 2 ^ 32)
        (s.setCtl { s.ctl with heldLo := put none s.ctl.heldLo (off - 4) none }).write64 (off - 4) (v * 2 ^ 32 + lo)
      | none => s.write32 off v

/-- An 8-byte write: one 64-bit register, or two 32-bit ones. -/
def write8 (s : State) (off v : Nat) : State :=
  match s.reg64 off with
  | some _ => s.write64 off v
  | none => (s.write4 off (v % 2 ^ 32)).write4 (off + 4) (v / 2 ^ 32)

end State

/-! ### The rows: none has an effect while PCIe is down -/

def execFaultStickyClear (word : Fin 64) (v : BitVec 32) (s : State) : Host.Outcome State Fault Refusal :=
  .next (if s.pcieUp then s.write32 (0x20000 + 4 * word.val) v.toNat else s)

def execFaultForceWrite (word : Fin 64) (v : BitVec 32) (s : State) : Host.Outcome State Fault Refusal :=
  .next (if s.pcieUp then s.write32 (0x20100 + 4 * word.val) v.toNat else s)

def execFaultSevWrite (reg : Fin 512) (v : BitVec 32) (s : State) : Host.Outcome State Fault Refusal :=
  .next (if s.pcieUp then s.write32 (0x21000 + 4 * reg.val) v.toNat else s)

def execFaultInjectGo (v : BitVec 32) (s : State) : Host.Outcome State Fault Refusal :=
  .next (if s.pcieUp then s.faultInject v.toNat else s)

def execWatermarkArm (i : Fin 2121) (v : BitVec 32) (s : State) : Host.Outcome State Fault Refusal :=
  .next (if s.pcieUp then s.markWrite i.val v.toNat else s)

def execTraceCtlWrite (v : BitVec 32) (s : State) : Host.Outcome State Fault Refusal :=
  .next (if s.pcieUp then s.traceWrite v.toNat else s)

/-- REG64_LOW_READ (R329, R330): a read of 4 bytes, or an indivisible one of 8. -/
def execReg64LowRead (a : RegRead) (s : State) : Host.Outcome State Fault Refusal :=
  let off := a.off.toNat
  if !s.pcieUp then .next s
  else if off % (if a.eight then 8 else 4) ≠ 0 then .next ((s.setCtl { s.ctl with aerUr := s.ctl.aerUr + 1 }).emit (.ur off))
  else
    let r := if a.eight then s.read8 off else s.read4 off
    .next (r.2.emit (.bar0 off r.1))

def execRegisterWrite (off : BitVec 26) (eight : Bool) (v : BitVec 64) (s : State) : Host.Outcome State Fault Refusal :=
  if !s.pcieUp then .next s
  else if off.toNat % (if eight then 8 else 4) ≠ 0 then
    .next ((s.setCtl { s.ctl with aerUr := s.ctl.aerUr + 1 }).emit (.ur off.toNat))
  else .next (if eight then s.write8 off.toNat v.toNat else s.write4 off.toNat (v.toNat % 2 ^ 32))

/-- BAR0_UNSUPPORTED_ACCESS (R329): the access of a size or alignment that is accepted is no such row. -/
def execBar0UnsupportedAccess (off : BitVec 26) (size : Nat) (_write : Bool) (s : State) : Host.Outcome State Fault Refusal :=
  if !s.pcieUp || ((size = 4 || size = 8) && off.toNat % size = 0) then .next s
  else .next ((s.setCtl { s.ctl with aerUr := s.ctl.aerUr + 1 }).emit (.ur off.toNat))

/-- FORCE_TIMER_EXPIRY (R355): the time of a LEVEL 0 injection has passed. -/
def execForceTimerExpiry (source : BitVec 11) (s : State) : Host.Outcome State Fault Refusal :=
  let t := look 0 s.faults.forceTime source.toNat
  .next (if t = 0 || s.mono < t then s else s.setForce source.toNat false)

/-- INJECT_DONE (R356): COUNT words have been written. -/
def execInjectDone (group : BitVec 7) (s : State) : Host.Outcome State Fault Refusal :=
  let g := group.toNat
  if !s.injRunning g || s.injRemains g then .next s
  else
    let n := look 0 s.faults.injCount g
    let full := g + 128 * b01 (look false s.faults.injDouble g)
    let s := { s with faults := { s.faults with
      injCount := put 0 s.faults.injCount g 0
      injDouble := put false s.faults.injDouble g false } }
    .next (s.logEvent { code := 0x21, unit := g, detail := [full, n] })

end Sys2Proof.Machine
end

