-- ==== Sys2Proof/Machine/Line.lean ====
section
/-!
DEFINITION. A flit on the line (R63, R66, R70-R72, R88): its 640 bytes, its CRC, its Reed-Solomon codeword, the lanes its
symbols take and the levels they are sent at; and what a receiver makes of the symbols it got.
-/

namespace Sys2Proof.Machine

/-! ### The bytes of a flit (R66) -/

/-- The sync slot, bytes 0-15. -/
def syncBytes (x : SyncSlot) : List Byte :=
  leBytes 2 (x.syncId.toNat + x.op.toNat * 4096) ++ [x.step, x.flags] ++ leBytes 4 x.loc.toNat ++ leBytes 8 x.payload.toNat

/-- The link-control field, bytes 16-31, as a number. -/
def linkControl (f : Flit) : Nat :=
  f.seq.toNat + f.ack.toNat * 2 ^ 12 + f.ftype.toNat * 2 ^ 24 + f.pvc.toNat * 2 ^ 28
    + ((List.range 16).map fun v => look 0 f.credits v % 64 * 2 ^ (32 + 6 * v)).sum

/-- A slot as 16 bytes; what a flit does not hold is pad (R69). -/
def slotBytes (x : Slot) : List Byte := x.take 16 ++ List.replicate (16 - x.length) 0

/-- Bytes 0-623: everything before the CRC. -/
def flitHead (f : Flit) : List Byte :=
  syncBytes f.sync ++ leBytes 16 (linkControl f) ++ (List.range 37).flatMap fun i => slotBytes (f.slots.getD i [])

/-- One bit of the CRC's division (R70). -/
def crcBit (c : Nat) : Nat := if c < 2 ^ 63 then 2 * c else (2 * c % 2 ^ 64) ^^^ 0x42F0E1EBA9EA3693

/-- One byte, most significant bit first (R70). -/
def crcByte (c : Nat) (b : Byte) : Nat :=
  crcBit (crcBit (crcBit (crcBit (crcBit (crcBit (crcBit (crcBit (c ^^^ (b.toNat * 2 ^ 56)))))))))

/-- The ECMA-182 CRC-64 of R70 over bytes, from a start value: no reflection and no final inversion. -/
def crc64 : List Byte → Nat → Nat
  | [], c => c
  | b :: bs, c =>
    match crcByte c b with
    | 0 => crc64 bs 0
    | n + 1 => crc64 bs (n + 1)

/-- The CRC of a flit: bytes 0-623, then TIME_TX (R70). -/
def flitCrc (f : Flit) : BitVec 64 := BitVec.ofNat 64 (crc64 (flitHead f ++ leBytes 8 f.timeTx.toNat) 0)

/-- The flit with its CRC filled in, after every other field (R70). -/
def sealFlit (f : Flit) : Flit := { f with crc := flitCrc f }

/-- The 640 bytes (R66). -/
def flitBytes (f : Flit) : List Byte := flitHead f ++ leBytes 8 f.crc.toNat ++ leBytes 8 f.timeTx.toNat

/-- The flit of 640 bytes (R66). -/
def flitOfBytes (b : List Byte) : Flit :=
  let w := fun (o n : Nat) => leNat ((b.drop o).take n)
  let c := w 16 16
  { sync := { syncId := BitVec.ofNat 12 (w 0 2), op := BitVec.ofNat 4 (w 0 2 / 4096), step := b.getD 2 0, flags := b.getD 3 0,
              loc := BitVec.ofNat 32 (w 4 4), payload := BitVec.ofNat 64 (w 8 8) }
    seq := BitVec.ofNat 12 c
    ack := BitVec.ofNat 12 (c / 2 ^ 12)
    ftype := BitVec.ofNat 4 (c / 2 ^ 24)
    pvc := BitVec.ofNat 4 (c / 2 ^ 28)
    credits := (List.range 16).filterMap fun v =>
      let n := c / 2 ^ (32 + 6 * v) % 64
      if n = 0 then none else some (v, n)
    slots := (List.range 37).map fun i => (b.drop (32 + 16 * i)).take 16
    crc := BitVec.ofNat 64 (w 624 8)
    timeTx := BitVec.ofNat 64 (w 632 8) }

/-- A flit whose CRC matches (R72). -/
def goodCrc (f : Flit) : Bool := f.crc = flitCrc f

/-! ### TRAINING content (R88) -/

/-- SLOT0 to SLOT2 of a TRAINING flit: its content, and in PARAM the initial credits. -/
def trainingSlots (t : Training) : List Slot :=
  let c := fun (lo : Nat) => (List.range 8).flatMap fun i => leBytes 2 (t.creditInit.getD (lo + i) 0).toNat
  ([t.tphase, t.rates, t.widths, t.mode] ++ leBytes 2 t.replay.toNat ++ leBytes 8 t.serial.toNat ++ [0, 0])
    :: (if t.tphase = 4 then [c 0, c 8] else [])

/-- The TRAINING flit that carries a content (R67, R88). -/
def trainingFlit (t : Training) : Flit := sealFlit { ftype := 5, slots := trainingSlots t }

/-- The content of a TRAINING flit: reserved bits are ignored (R88). -/
def trainingOf (f : Flit) : Training :=
  let x := f.slots.getD 0 []
  let c := fun (k i : Nat) => BitVec.ofNat 16 (leNat (((f.slots.getD k []).drop (2 * i)).take 2))
  let ph := x.getD 0 0
  { tphase := ph, rates := x.getD 1 0 &&& 0x0F, widths := x.getD 2 0 &&& 7, mode := x.getD 3 0,
    replay := BitVec.ofNat 16 (leNat ((x.drop 4).take 2)), serial := BitVec.ofNat 64 (leNat ((x.drop 6).take 8)),
    creditInit := if ph = 4 then (List.range 8).map (c 1) ++ (List.range 8).map (c 2) else [] }

/-! ### GF(2^10) (R71): elements as numbers below 1,024 -/

/-- Multiplication by α, a root of x^10 + x^3 + 1. -/
def gfStep (a : Nat) : Nat := if a < 512 then 2 * a else (2 * a % 1024) ^^^ 9

/-- The product: `n` bits of `b` are still to be used. -/
def gfMulFrom (a b : Nat) : Nat → Nat
  | 0 => 0
  | n + 1 => gfStep (gfMulFrom a b n) ^^^ (if bit b (9 - n) then a else 0)

def gfMul (a b : Nat) : Nat := gfMulFrom a b 10

/-- a to the power n. -/
def gfPow (a : Nat) : Nat → Nat
  | 0 => 1
  | n + 1 => gfMul (gfPow a n) a

/-- α to the power n. -/
def gfAlpha (n : Nat) : Nat := (gfStep^[n % 1023]) 1

/-- The inverse of a nonzero element: a to the power 1,022, by squaring. -/
def gfInv (a : Nat) : Nat :=
  let r := (List.range 9).foldl (fun (x : Nat × Nat) _ => (gfMul x.1 x.1, gfMul x.2 (gfMul x.1 x.1))) (a, 1)
  r.2

/-- Value at `x` of the polynomial whose coefficients are listed from the highest. -/
def gfEval (p : List Nat) (x : Nat) : Nat := p.foldl (fun acc c => gfMul acc x ^^^ c) 0

/-- Product with (y − r) of a polynomial listed from the highest coefficient. -/
def gfTimesRoot (p : List Nat) (r : Nat) : List Nat :=
  List.zipWith (fun a b => a ^^^ gfMul b r) (p ++ [0]) (0 :: p)

/-- The generator ∏ (x − α^i), i = 0 to 15, from the highest coefficient (R71). -/
def rsGenerator : List Nat := (List.range 16).foldl (fun p i => gfTimesRoot p (gfAlpha i)) [1]

/-! ### The code (R71) -/

/-- The 512 message symbols: symbol j holds flit bits 10j + 9 to 10j. -/
def messageSymbols (b : List Byte) : List Nat :=
  (List.range 512).map fun j => leNat ((b.drop (10 * j / 8)).take 2) / 2 ^ (10 * j % 8) % 1024

/-- One message symbol through the divider by the generator. -/
def rsDivide (g r : List Nat) (m : Nat) : List Nat :=
  let f := m ^^^ r.headD 0
  List.zipWith (fun a c => a ^^^ gfMul f c) (r.drop 1 ++ [0]) g

/-- The 16 parity symbols (R71): the remainder of the message, symbol 0 as coefficient of x^527, by the generator. -/
def rsParity (m : List Nat) : List Nat := m.foldl (rsDivide (rsGenerator.drop 1)) (List.replicate 16 0)

/-- The codeword of a flit, symbols 0 to 527 (R71). -/
def flitSymbols (f : Flit) : List Nat :=
  let m := messageSymbols (flitBytes f)
  m ++ rsParity m

/-- The PAM4 level of a bit pair, its first bit the most significant (R63). -/
def pam4 : Bool → Bool → Int
  | false, false => -3
  | false, true => -1
  | true, true => 1
  | true, false => 3

/-- The five unit intervals of a symbol: interval i carries bits 2i + 1 and 2i (R71). -/
def symbolLevels (x : Nat) : List Int := (List.range 5).map fun i => pam4 (bit x (2 * i + 1)) (bit x (2 * i))

/-- What lane `k` of a ×w link sends for a codeword: the levels of symbols j with j mod w = k, in order (R71). -/
def laneLevels (w k : Nat) (c : List Nat) : List Int :=
  (c.zipIdx.filter fun e => e.2 % w = k).flatMap fun e => symbolLevels e.1

/-- The levels a flit takes on each lane of a ×w link, its CRC formed after TIME_TX (R63, R70, R71). -/
def flitLevels (w : Nat) (f : Flit) : List (List Int) :=
  let c := flitSymbols (sealFlit f)
  (List.range w).map fun k => laneLevels w k c

/-- The bits of a level (R63). -/
def pam4Bits (x : Int) : Bool × Bool :=
  if x ≤ -2 then (false, false) else if x ≤ 0 then (false, true) else if x ≤ 2 then (true, true) else (true, false)

/-! ### Decoding (R71): up to 8 symbol errors -/

/-- The 16 syndromes of a received word. -/
def rsSyndromes (c : List Nat) : List Nat := (List.range 16).map fun i => gfEval c (gfAlpha i)

/-- Where the search for the error locator stands: the locator C and the helper B, each from its constant coefficient, the
length L, the shift m of B and the last discrepancy b. -/
structure RsSearch where
  c : List Nat := [1]
  b : List Nat := [1]
  len : Nat := 0
  shift : Nat := 1
  disc : Nat := 1
  deriving DecidableEq, Repr

/-- C − k x^m B. -/
def rsCombine (c b : List Nat) (k m : Nat) : List Nat :=
  let y := List.replicate m 0 ++ b.map (gfMul k)
  (List.range (max c.length y.length)).map fun i => c.getD i 0 ^^^ y.getD i 0

/-- One syndrome of the search for the shortest recurrence that gives them all (Berlekamp and Massey). -/
def rsSearchStep (s : List Nat) (x : RsSearch) (n : Nat) : RsSearch :=
  let d := (List.range (x.len + 1)).foldl (fun a i => a ^^^ gfMul (x.c.getD i 0) (s.getD (n - i) 0)) 0
  if d = 0 then { x with shift := x.shift + 1 }
  else
    let k := gfMul d (gfInv x.disc)
    let c := rsCombine x.c x.b k x.shift
    if 2 * x.len ≤ n then { c := c, b := x.c, len := n + 1 - x.len, shift := 1, disc := d }
    else { x with c := c, shift := x.shift + 1 }

/-- The error locator of a list of syndromes. -/
def rsLocator (s : List Nat) : RsSearch := (List.range 16).foldl (rsSearchStep s) {}

/-- Value of a polynomial listed from its constant coefficient. -/
def gfEvalUp (p : List Nat) (x : Nat) : Nat := gfEval p.reverse x

/-- The error in the coefficient of x^p: X·Ω(1/X) / C'(1/X) with X = α^p (Forney). -/
def rsErrorAt (s c : List Nat) (p : Nat) : Nat :=
  let inv := gfAlpha (1023 - p % 1023)
  let omega := (List.range 16).map fun n => (List.range (n + 1)).foldl (fun a i => a ^^^ gfMul (c.getD i 0) (s.getD (n - i) 0)) 0
  let slope := (List.range c.length).map fun i => if i % 2 = 0 then c.getD (i + 1) 0 else 0
  gfMul (gfAlpha p) (gfMul (gfEvalUp omega inv) (gfInv (gfEvalUp slope inv)))

/-- Decode a received word of 528 symbols: the codeword within 8 symbol errors of it, and the symbols corrected; none when
there is no such codeword (R71). -/
def rsDecode (r : List Nat) : Option (List Nat × List Nat) :=
  let s := rsSyndromes r
  if s.all (· = 0) then some (r, [])
  else
    let x := rsLocator s
    let at_ := (List.range 528).filter fun j => gfEvalUp x.c (gfAlpha (1023 - (527 - j))) = 0
    if 8 < x.len || at_.length ≠ x.len then none
    else
      let c := r.zipIdx.map fun e => if at_.contains e.2 then e.1 ^^^ rsErrorAt s x.c (527 - e.2) else e.1
      if (rsSyndromes c).all (· = 0) then some (c, at_) else none

/-- The bytes of the message symbols. -/
def messageBytes (c : List Nat) : List Byte :=
  (List.range 640).map fun i =>
    let j := 8 * i / 10
    BitVec.ofNat 8 ((c.getD j 0 + 1024 * c.getD (j + 1) 0) / 2 ^ (8 * i % 10))

/-- What a receiver of a ×w link makes of 528 symbols (R71, R72, R91): the flit and the corrected symbols of each lane, or
none for a bad flit, one that does not decode or fails its CRC. The receive rows of good flits and BAD_FLIT_RECEIVE are its
two outcomes. -/
def receiveLine (w : Nat) (r : List Nat) : Option (Flit × Tab Nat) :=
  match rsDecode r with
  | none => none
  | some (c, at_) =>
    let f := flitOfBytes (messageBytes (c.take 512))
    if goodCrc f then some (f, at_.foldl (fun t j => put 0 t (j % w) (look 0 t (j % w) + 1)) []) else none

end Sys2Proof.Machine
end

