-- ==== Sys2Proof/Machine/Cellar.lean ====
section
/-!
DEFINITION. The cellar: reads and writes of lines (R262-R269), partitions (R270), access windows (R273-R276), draws and
the stave arbiter (R277-R281), the scrubber (R282).
-/

namespace Sys2Proof.Machine

/-- Both codewords of a line decode, correcting at most one symbol each (R264). -/
def LineErr.decodes (e : LineErr) : Bool := e.symA ≤ 1 && e.symB ≤ 1

/-- A line verifies when both codewords decode and the recomputed TAG matches (R264). -/
def LineErr.verifies (e : LineErr) : Bool := e.decodes && e.tag = 0

namespace State

/-! ### Lines -/

def lineErr (s : State) (line : Nat) : LineErr := look {} s.cel.err line

/-- The outcome of verifying a line (R266): 0 verifies, 1 verifies after correction, 2 a codeword does not decode, 3 only
the TAG disagrees. -/
def lineBad (s : State) (line : Nat) : Nat :=
  let e := s.lineErr line
  if !e.decodes then 2 else if e.tag ≠ 0 then 3 else if e.symA = 1 || e.symB = 1 then 1 else 0

def setLine (s : State) (line : Nat) (poison : Bool) (err : LineErr) : State :=
  s.setCel { s.cel with poison := put false s.cel.poison line poison, err := put {} s.cel.err line err }

/-- Read one line's status (R266): true when it returns poison. -/
def readLine (s : State) (line : Nat) : Bool × State :=
  if look false s.cel.poison line then (true, s.assertSrc 0x303)
  else match s.lineBad line with
    | 0 => (false, s)
    | 1 => (false, (s.setLine line false {}).assertSrc 0x300)
    | 2 => (true, (s.setLine line true {}).assertSrc 0x301)
    | _ => (true, (s.setLine line true {}).assertSrc 0x302)

/-- A line written under the injections of groups 0x41 and 0x42: check symbols of codeword A, and TAG bit 0 (R356). -/
def injectLine (s : State) (line : Nat) : State :=
  let a := s.injTake 0x41 0
  let s := match a.1 with
    | some dbl => a.2.setLine line (look false a.2.cel.poison line) { a.2.lineErr line with symA := if dbl then 2 else 1 }
    | none => a.2
  let b := s.injTake 0x42 0
  match b.1 with
  | some _ => b.2.setLine line (look false b.2.cel.poison line) { b.2.lineErr line with tag := (b.2.lineErr line).tag ^^^ 1 }
  | none => b.2

/-- Offset of the context save areas in a stave: its top 64 KiB (R262). -/
def saveBase : Nat := staveBytes - 65536

/-- The free number of a line whose contents a switch of contexts or a change of plan left open, and nothing has written
since (R221, R272). -/
def openLine (s : State) (line : Nat) : Option Nat :=
  if look false s.cel.known line then none
  else
    let o := line * 128 % staveBytes
    let area := if o < saveBase then 0 else look 0 s.cel.saves (line * 128 / staveBytes * 8 + (o - saveBase) / 8192)
    if area ≠ 0 then some (area - 1)
    else (s.cel.stale.find? fun r => decide (r.1 ≤ o) && decide (o < r.2.1)).map fun r => r.2.2

/-- Firmware saves a context: the 8 KiB of its save area are written whole, in a form of its own (R221, R262). -/
def writeSaveArea (s : State) (p c : Nat) : State :=
  let first := (p * staveBytes + saveBase + c * 8192) / 128
  let out := fun (k : Nat) => decide (k < first) || decide (first + 64 ≤ k)
  let s := s.setCel { s.cel with
    saves := put 0 s.cel.saves (p * 8 + c) (s.free + 1)
    known := s.cel.known.filter fun e => out e.1
    poison := s.cel.poison.filter fun e => out e.1
    err := s.cel.err.filter fun e => out e.1 }
  (List.range 64).foldl (fun s i => s.injectLine (first + i)) { s with free := s.free + 1 }

/-- The byte at an address: a free value in a line left open (R221, R272). -/
def celByte (s : State) (a : Nat) : Byte :=
  match s.openLine (a / 128) with
  | some k => Config.freeByte (k * 2 ^ 32 + a)
  | none => look 0 s.cel.mem a

/-! #### What a line is stored as (R264) -/

/-- The data of a line. -/
def lineData (s : State) (line : Nat) : List Byte := (List.range 128).map fun i => s.celByte (line * 128 + i)

/-- TAG of a line that holds `bs`: the CRC-32C over its number and its data. -/
def tagOf (line : Nat) (bs : List Byte) : BitVec 32 := crc32c (leBytes 4 line ++ bs)

/-- The TAG a line holds. -/
def lineTag (s : State) (line : Nat) : BitVec 32 := tagOf line (s.lineData line) ^^^ (s.lineErr line).tag

/-- META of a line: bit 0 is POISON, bits 15:1 read 0. -/
def lineMeta (s : State) (line : Nat) : BitVec 16 := if look false s.cel.poison line then 1 else 0

/-- 16-bit symbols of a byte list. -/
def symbols (bs : List Byte) : List (BitVec 16) :=
  (List.range (bs.length / 2)).map fun i => BitVec.ofNat 16 (leNat ((bs.drop (2 * i)).take 2))

/-- A codeword as it is encoded: 34 symbols of content, and two check symbols, for which the spec gives no generator (log
102). Errors in stored symbols are counted in `lineErr`. -/
def codeword (content : List (BitVec 16)) : List (BitVec 16) :=
  content ++ [Config.checkSymbol 0 content, Config.checkSymbol 1 content]

/-- Codewords A and B of a line, 36 symbols each. -/
def codewordA (s : State) (line : Nat) : List (BitVec 16) :=
  codeword (symbols ((s.lineData line).take 64) ++ [(s.lineTag line).setWidth 16, 0])

def codewordB (s : State) (line : Nat) : List (BitVec 16) :=
  codeword (symbols ((s.lineData line).drop 64) ++ [((s.lineTag line) >>> 16).setWidth 16, s.lineMeta line])

/-- Store bytes of one line; the rest of a line left open keeps its free values. -/
def storeLine (s : State) (addr : Nat) (bs : List Byte) : State :=
  let line := addr / 128
  match s.openLine line with
  | none => s.setCel { s.cel with mem := writeMem s.cel.mem addr bs }
  | some _ =>
    let old := (List.range 128).map fun i => s.celByte (line * 128 + i)
    let m := writeMem (writeMem s.cel.mem (line * 128) old) addr bs
    s.setCel { s.cel with mem := m, known := put false s.cel.known line true }

/-- Write bytes that lie in one line (R267, R268): true when a partial write met a line that does not verify. -/
def writeLine (s : State) (addr : Nat) (bs : List Byte) : Bool × State :=
  let line := addr / 128
  if bs.length = 128 then
    let s := s.storeLine addr bs
    (false, (s.setLine line false {}).injectLine line)
  else if look false s.cel.poison line || 2 ≤ s.lineBad line then
    (true, (s.setLine line true {}).assertSrc 0x3A1)
  else
    let s := if s.lineBad line = 1 then (s.setLine line false {}).assertSrc 0x300 else s
    let s := s.storeLine addr bs
    (false, s.injectLine line)

/-- Read a range: its bytes, and whether a line returned poison (R266). -/
def readRange (s : State) (addr n : Nat) : List Byte × Bool × State :=
  let r := (piecesOf 128 addr n).foldl (fun (a : Bool × State) (p : Nat × Nat) =>
    let x := a.2.readLine (p.1 / 128)
    (a.1 || x.1, x.2)) (false, s)
  ((List.range n).map fun i => s.celByte (addr + i), r.1, r.2)

/-- Write a range line by line: true when some line refused a partial write (R268). -/
def writeRange (s : State) (addr : Nat) (bs : List Byte) : Bool × State :=
  (piecesOf 128 addr bs.length).foldl (fun (a : Bool × State) (p : Nat × Nat) =>
    let x := a.2.writeLine p.1 ((bs.drop (p.1 - addr)).take p.2)
    (a.1 || x.1, x.2)) (false, s)

/-! ### Partitions -/

/-- Offset of press data in every stave under a plan: 64 KiB for each 4 MiB of system partitions (R270). -/
def pressDataStart (plan : List Nat) : Nat := plan.sum * 65536

/-- A range lies wholly in the press data of one stave (R270, R271, R273). -/
def inPressData (plan : List Nat) (base size : Nat) : Bool :=
  let o := base % staveBytes
  pressDataStart plan ≤ o && o + size ≤ staveBytes && base + size ≤ 2 ^ 32

/-- Bytes of partition `k` of the plan: tables, retention, decant, extension (R270). -/
def partitionBytes (s : State) (k : Nat) : Nat := s.cel.plan.getD k 0 * 2 ^ 22

/-- Bytes in retention change; its watermark is evaluated (R116, R342). -/
def setRetained (s : State) (n : Nat) : State := (s.setCel { s.cel with retained := n }).markUpdate 2053 n 4096

/-- An entry of a table in the cellar is made or removed: a draw of TABLES, and the partition's watermark (R159, R270, R277). The
spec gives no entry's size: the draw is one line (log 70). -/
def tableChange (s : State) : State := (s.systemDraws 7 0 128 .system).tableMark

def setDecanted (s : State) (n : Nat) : State := (s.setCel { s.cel with decanted := n }).markUpdate 2054 n 4096

/-! ### Windows -/

/-- The check of an endpoint access (R274): `write`, the window, the source address, and the range. -/
def windowAllows (s : State) (w : Nat) (src : Nat) (write : Bool) (addr n : Nat) : Bool :=
  let x := s.window w
  w ≠ 0 && x.exists_ && (src &&& x.srcMask = x.srcValue) && bit x.perm (b01 write)
    && x.base ≤ addr && addr + n ≤ x.base + x.size

/-- The window a PCIe access is checked against (R276): the lowest-numbered one that admits it. -/
def pcieWindow (s : State) (write : Bool) (addr n : Nat) : Option Nat :=
  (s.cel.windows.find? fun e =>
    e.2.exists_ && e.2.pcie && bit e.2.perm (b01 write) && e.2.base ≤ addr && addr + n ≤ e.2.base + e.2.size).map Prod.fst

/-- Accesses of a window checked before its generation `g` are still in flight (R275). -/
def windowBusy (s : State) (w g : Nat) : Bool :=
  s.cel.accesses.any fun a => match a.2 with
    | some x => x.window = w && x.gen < g
    | none => false

/-! ### Draws -/

def reqFenced (s : State) (addr req : Nat) : Bool := look false (s.stave (addr / staveBytes)).fenced req

/-- Start an access of a window: one draw for each 4 KiB piece (R216, R275). -/
def startAccess (s : State) (req w : Nat) (pkt : Option Packet) (chan : Option (Nat × Nat)) (addr n : Nat)
    (data : Option (List Byte)) : State :=
  let ps := piecesOf 4096 addr n
  let id := s.cel.nextAcc
  let a : Access := { window := w, epoch := (s.window w).epoch, gen := (s.window w).gen, left := ps.length, addr := addr, len := n, read := data.isNone, req := pkt, chan := chan }
  let s := s.setCel { s.cel with accesses := put none s.cel.accesses id (some a), nextAcc := id + 1 }
  ps.foldl (fun s p =>
    s.request req p.1 p.2 (match data with
      | some d => .writeAcc id ((d.drop (p.1 - addr)).take p.2)
      | none => .readAcc id (p.1 - addr))) s

/-! ### The arbiter -/

def defLevel (r : Nat) : Nat := if r = 4 then 3 else if 5 ≤ r ∧ r ≤ 7 then 2 else if r = 9 ∨ r = 10 then 0 else 1

def defQuota (r : Nat) : Nat := if r = 4 then 64 else if r = 5 ∨ r = 6 then 32 else if r = 7 then 16 else if r = 10 then 2 else 0

/-- Level of a requester; SCRUB is level 3 for one request after a window without a grant (R277, R279). -/
def level (v : Stave) (r : Nat) : Nat :=
  if r = 10 then (if v.scrubBoost then 3 else 0) else (look none v.lvl r).getD (defLevel r)

def quota (v : Stave) (r : Nat) : Nat := if r = 10 then 2 else (look none v.quota r).getD (defQuota r)

def preempts (v : Stave) (r : Nat) : Bool := r ≠ 10 && (look none v.preempt r).getD (r = 4)

/-- The requester has received its quota in this window (R279). -/
def masked (v : Stave) (r : Nat) : Bool :=
  let q := quota v r
  r ≠ 10 && 2 ≤ level v r && q ≠ 0 && q ≤ look 0 v.used r

/-- SCRUB has had its two grants of the window (R279). -/
def scrubSpent (v : Stave) : Bool := 2 ≤ look 0 v.used 10

/-- Requesters that wait and may be granted. -/
def waiting (v : Stave) : List Nat :=
  (List.range 11).filter fun r =>
    !look false v.fenced r && !(r = 10 && scrubSpent v) && v.wait.any fun d => d.req = r

/-- The winner of a round (R278, R279). -/
def roundWinner (v : Stave) : Option Nat :=
  let ws := waiting v
  let open_ := ws.filter fun r => !masked v r
  let sel := if open_.isEmpty then ws
    else
      let top := (open_.map (level v)).foldl max 0
      open_.filter fun r => level v r = top
  v.rank.find? fun r => sel.contains r

/-- Grant requester `r` its oldest draw: it moves to the bottom of the rank list, and the quota window advances (R278,
R279). -/
def grantTo (v : Stave) (r : Nat) : Stave :=
  match v.wait.find? fun d => d.req = r with
  | none => v
  | some d =>
    let anyMasked := (waiting v).any (masked v)
    let at_ : Option Nat := if masked v r then some 0 else if r = 10 && v.scrubBoost then some 3 else none
    let v := { v with
      rank := v.rank.filter (· ≠ r) ++ [r]
      wait := v.wait.erase d
      grant := some d
      grantAs := at_
      used := put 0 v.used r (look 0 v.used r + 1)
      inWindow := v.inWindow + 1
      grants := put 0 v.grants r (look 0 v.grants r + 1)
      maskedRounds := v.maskedRounds + b01 anyMasked
      scrubBoost := v.scrubBoost && r ≠ 10
      scrubWaited := v.scrubWaited && r ≠ 10 }
    if v.inWindow < 256 then v
    else
      let w := v.wait.any fun d => d.req = 10
      { v with inWindow := 0, used := [], scrubBoost := v.scrubBoost || (v.scrubWaited && w), scrubWaited := w }

/-- Requesters other than the scrubber are granted only once the cellar is initialised; nothing while a tier is not
active (R25, R265). -/
def mayGrant (s : State) : Bool := s.tiersActive && s.cel.ready && s.faults.tierFenced.isEmpty

/-- Revoke the grant: the draw is first of its requester again (R280); a request of SCRUB that counted as level 3 is
still its next one (R279). -/
def revoke (v : Stave) : Stave :=
  match v.grant with
  | none => v
  | some d => { v with grant := none, grantAs := none, wait := d :: v.wait, revoked := v.revoked + 1,
                       scrubBoost := v.scrubBoost || v.grantAs = some 3 }

/-- The level of the holder of the grant (R279, R280). -/
def holderLevel (v : Stave) (d : Draw) : Nat := v.grantAs.getD (level v d.req)

/-- A waiting requester whose PREEMPT bit is 1 outranks the holder's level (R280); a masked one counts as level 0. -/
def preemptor (v : Stave) : Bool :=
  match v.grant with
  | none => false
  | some d => (waiting v).any fun r => preempts v r && !masked v r && holderLevel v d < level v r

/-- The bytes that a draw writes, none for a read. -/
def drawData : DrawUse → Option (List Byte)
  | .fromPad _ _ _ bs => some bs
  | .writeAcc _ bs => some bs
  | _ => none

/-- What a revoked draw has moved stands: the first lines of a write, how many of them is open (R280). -/
def movedLines (s : State) (d : Draw) : State :=
  match drawData d.use with
  | none => s
  | some bs =>
    let ps := piecesOf 128 d.addr bs.length
    let m := (((ps.take (Config.freeNat s.free % ps.length)).map Prod.snd)).sum
    (({ s with free := s.free + 1 } : State).writeRange d.addr (bs.take m)).2

end State

/-! ### The rows that need no other unit -/

def execArbiterRound (stave : Fin 64) (s : State) : Host.Outcome State Fault Refusal :=
  let v := s.stave stave.val
  if v.grant.isSome || !s.mayGrant then .next s
  else match State.roundWinner v with
    | none => .next s
    | some r => .next (s.setStave stave.val { State.grantTo v r with grantAt := s.mono })

/-- PREEMPT_REVOKE (R280): the lines already moved stand, and the draw waits to be made again from its first line. -/
def execPreemptRevoke (stave : Fin 64) (s : State) : Host.Outcome State Fault Refusal :=
  let v := s.stave stave.val
  .next (match v.grant with
    | none => s
    | some d => if State.preemptor v then (s.movedLines d).setStave stave.val (State.revoke v) else s)

/-- One line under the scrubber (R282). -/
def State.scrubLine (s : State) (line : Nat) : State :=
  if look false s.cel.poison line then s.setCel { s.cel with skipped := s.cel.skipped + 1 }
  else (s.readLine line).2

/-- The 32 lines of a granted scrub draw are checked, and the scrubber moves on (R282). -/
def State.scrubDone (s : State) (n : Nat) : State :=
  let base := (n * staveBytes + (s.stave n).scrubAt) / 128
  let s := (List.range 32).foldl (fun s i => s.scrubLine (base + i)) s
  let v := s.stave n
  let pos := (v.scrubAt + 4096) % staveBytes
  s.setStave n { v with
    grant := none
    grantAs := none
    scrubAt := pos
    scrubBegan := if pos = 0 then s.mono else v.scrubBegan
    scrubLate := v.scrubLate && pos ≠ 0 }

/-- SCRUB_DRAW (R279, R282): the scrubber requests its draw; once granted it checks the 32 lines and moves on. -/
def execScrubDraw (stave : Fin 64) (s : State) : Host.Outcome State Fault Refusal :=
  let v := s.stave stave.val
  if !s.tiersActive then .next s
  else if v.grant.any fun d => d.req = 10 then .next (s.scrubDone stave.val)
  else if v.wait.any fun d => d.req = 10 then .next s
  else .next (s.request 10 (stave.val * staveBytes + v.scrubAt) 4096 .scrub)

/-- SCRUB_PASS_TIMEOUT (R282, R358): set once for a pass that is late; the scrubber runs while the tiers are active, and
the first pass begins when they have left off (R265). -/
def execScrubPassTimeout (stave : Fin 64) (s : State) : Host.Outcome State Fault Refusal :=
  let v := s.stave stave.val
  if !s.tiersActive || v.scrubLate || s.mono < max v.scrubBegan s.cel.scrubFrom + 900 * 10 ^ 9 then .next s
  else .next ((s.setStave stave.val { v with scrubLate := true }).assertSrc 0x320)

/-- BAR2_READ (R276, R344): refused with Unsupported Request, logged, and FS 0x310. -/
def execBar2Read (addr : BitVec 32) (len : Nat) (s : State) : Host.Outcome State Fault Refusal :=
  if !s.pcieUp || len = 0 then .next s
  else
    let refuse := ((s.setCtl { s.ctl with aerUr := s.ctl.aerUr + 1 }).emit (.ur (2 ^ 32 + addr.toNat))).assertSrc 0x310
    match s.pcieWindow false addr.toNat len with
    | none => .next refuse
    | some w => .next (if s.reqFenced addr.toNat 9 then refuse else s.startAccess 9 w none none addr.toNat len none)

/-- BAR2_WRITE (R276): a refused write is discarded. -/
def execBar2Write (addr : BitVec 32) (data : List Byte) (s : State) : Host.Outcome State Fault Refusal :=
  if !s.pcieUp || data.isEmpty then .next s
  else
    let refuse := (s.setCtl { s.ctl with aerUr := s.ctl.aerUr + 1 }).assertSrc 0x310
    match s.pcieWindow true addr.toNat data.length with
    | none => .next refuse
    | some w => .next (if s.reqFenced addr.toNat 9 then refuse
                       else s.startAccess 9 w none none addr.toNat data.length (some data))

/-- WINDOW_FENCE_DRAINED (R275): the fenced replies whose earlier accesses have drained are sent. -/
def execWindowFenceDrained (window : BitVec 16) (s : State) : Host.Outcome State Fault Refusal :=
  let w := window.toNat
  let done := s.cel.fences.filter fun f => f.window = w && !s.windowBusy w f.gen
  let s := s.setCel { s.cel with fences := s.cel.fences.filter fun f => !done.contains f }
  .next (done.foldl (fun s f =>
    if f.hdr.opcode = 0x0306 then s.waitStep f.hdr
    else State.complete f.hdr { st := s, params := [(16, f.epoch)], gid := (s.window w).gid }) s)

end Sys2Proof.Machine
end

