-- ==== Sys2Proof/Machine/Route.lean ====
section
/-!
DEFINITION. Routing (R98-R101, R107-R113), the choice of a channel and of a bundle member (R98, R109, R110), and
placing an entry in an egress queue (R142, R147-R149, R158).
-/

namespace Sys2Proof.Machine

/-- Slots of a packet: its header and its payload (R69). -/
def slotCount (p : Packet) : Nat := 2 + ceilDiv p.payload.length 16

/-- Flits a packet takes. -/
def flitCount (p : Packet) : Nat := ceilDiv (slotCount p) 37

/-- Reliable types: DATA_WRITE to RESULT, and SPAGIL (R114). -/
def reliable (p : Packet) : Bool := (1 ≤ p.ty.toNat && p.ty.toNat ≤ 5) || p.ty = 0x08

def dstFna (p : Packet) : Nat := p.dst.toNat / 256

def srcFna (p : Packet) : Nat := p.src.toNat / 256

/-- Positions reached from `front` layer by layer, among present ones (R108). -/
def layers (twisted : Bool) (n : Nat) (gone : Tab Bool) : Nat → List Nat → List Nat → List (List Nat)
  | 0, _, _ => []
  | k + 1, front, seen =>
    if front.isEmpty then []
    else
      let next := (front.flatMap fun u => (List.range n).map fun d => State.partnerOf twisted n u d).filter fun v =>
        !look false gone v && !seen.contains v && !front.contains v
      front :: layers twisted n gone k next.dedup (seen ++ front)

/-- Distance of position `u` from the source of the layers. -/
def distIn (ls : List (List Nat)) (u : Nat) : Option Nat := ls.findIdx? fun l => l.contains u

namespace State

/-- Routing bank of an EPOCH value (R112). -/
def bank (s : State) (e : Bool) : Bank := if e then s.fab.bank1 else s.fab.bank0

def setBank (s : State) (e : Bool) (b : Bank) : State :=
  if e then s.setFab { s.fab with bank1 := b } else s.setFab { s.fab with bank0 := b }

def staged (s : State) (e : Bool) : Bool := if e then s.fab.staged1 else s.fab.staged0

/-- The bank that routes a packet with EPOCH `e`, the EPOCH it leaves with, and whether FS 0x220 is set (R112, R113). -/
def epochBank (s : State) (e : Bool) : Bool × Bool × Bool :=
  if e = s.fab.live then (e, e, false)
  else if !s.staged e then (s.fab.live, e, true)
  else if s.fab.oldHeld || s.fab.commit.isSome then (e, e, false)
  else (s.fab.live, s.fab.live, false)

/-- Dimensions that begin a minimal path (R108). In the binary variant the differing bits; in the twisted one the bank's table:
the entry loaded explicitly, or the one computed over the positions present at its last computation. A bank that was copied
keeps the entries it had computed beside those loaded into it. -/
def minimalDims (s : State) (b : Bank) (dst : Nat) : List Nat :=
  let own := s.fab.fna.getD 0
  let n := s.fab.ndim
  if own = dst then []
  else if !s.fab.twisted then (List.range n).filter fun d => bit (own ^^^ dst) d
  else match look none b.table dst with
    | some e => (List.range n).filter fun d => bit e.toNat d
    | none =>
      let ls := layers true n b.holes (2 ^ n) [dst] []
      match distIn ls own with
      | none => []
      | some k => (List.range n).filter fun d =>
          let v := partnerOf true n own d
          !look false b.holes v && decide (distIn ls v = some (k - 1))

/-- A dimension carries ordinary traffic: its link is up, exchanged HELLO, is neither miswired nor contained, leads to no
hole and stays within the partition (R100, R101, R105, R349). -/
def dimUsable (s : State) (b : Bank) (d : Nat) : Bool :=
  let own := s.fab.fna.getD 0
  let far := s.partner own d
  let x := s.dim d
  s.dimUp d && !x.miswired && !x.held && !look false s.fab.holes far &&
    b.partitions.all fun mv => decide ((own &&& mv.1 = mv.2) ↔ (far &&& mv.1 = mv.2))

/-- The productive set P, before a pin (R108). -/
def productive (s : State) (b : Bank) (dst : Nat) : List Nat := (s.minimalDims b dst).filter (s.dimUsable b)

/-- The next dimension of a pinned sequence: the first of it that begins a minimal path (R108, log 24). -/
def pinNext (s : State) (b : Bank) (dst cls : Nat) : Option Nat :=
  match look [] b.pins (dst * 8 + cls) with
  | [] => none
  | seq => seq.find? fun d => (s.minimalDims b dst).contains d

/-- P restricted by a route pin, which is set aside while its next dimension is down (R108, R111). -/
def pinned (s : State) (b : Bank) (dst cls : Nat) : List Nat :=
  match s.pinNext b dst cls with
  | some d => if s.dimUsable b d then [d] else s.productive b dst
  | none => s.productive b dst

/-- Set pins aside or restore them after a link changed, with POLICY_OVERRIDDEN for each change (R111). -/
def pinsCheck (s : State) : State :=
  (s.bank s.fab.live).pins.foldl (fun s e =>
    let b := s.bank s.fab.live
    match s.pinNext b (e.1 / 8) (e.1 % 8) with
    | none => s
    | some d =>
      let aside := s.adm.pinsAside.contains e.1
      if s.dimUsable b d = aside then
        let s := { s with adm := { s.adm with
          pinsAside := if aside then s.adm.pinsAside.erase e.1 else s.adm.pinsAside ++ [e.1] } }
        s.policyOverridden 0xFFFF 4
      else s) s

/-! ### Credits -/

/-- Virtual channel of a class: 2k for A, 2k + 1 for E (R66). -/
def vcOf (cls : Nat) (esc : Bool) : Nat := 2 * cls + b01 esc

/-- Flits queued for a virtual channel of a link: entries of its queue's lane and packets selected for sending. -/
def queuedFlits (s : State) (l cls : Nat) (esc : Bool) : Nat :=
  let q := s.queue (l * 8 + cls)
  let es := if esc then q.eLane else q.aLane
  (es.map fun e => ((s.cask e.cask).pkt.map flitCount).getD 1).sum
    + ((look [] (s.link l).txSlots (vcOf cls esc)).map fun t => ceilDiv t.slots.length 37).sum

/-- Free credits beyond the queued flits (R109). -/
def spare (s : State) (l cls : Nat) (esc : Bool) : Int :=
  ((look 0 (s.link l).credits (vcOf cls esc) : Nat) : Int) - s.queuedFlits l cls esc

/-- Links of a dimension that carry traffic now, the lower port first (R98). -/
def upLinks (s : State) (d : Nat) : List Nat :=
  (((List.range 64).filter fun p => (look none s.fab.map p).map Prod.fst = some d).map fun p => p * 4).filter fun l =>
    (s.link l).st = .active && !(s.port (l / 4)).quarantined && !(s.port (l / 4)).excluded

/-- The larger of two measured choices, the earlier one on a tie. -/
def best {α : Type} (f : α → Int) : List α → Option α
  | [] => none
  | x :: xs => match best f xs with
    | none => some x
    | some y => if f x < f y then some y else some x

/-- The bundle member with the most free credits on the channel, lower port first (R98). -/
def member (s : State) (d cls : Nat) (esc : Bool) : Option Nat :=
  best (fun l => ((look 0 (s.link l).credits (vcOf cls esc) : Nat) : Int)) (s.upLinks d)

/-- A dimension holds a credit of the channel for a packet (R109). -/
def holdsCredit (s : State) (d cls : Nat) (esc : Bool) : Bool := (s.upLinks d).any fun l => decide (0 < s.spare l cls esc)

/-- What R109 and R110 offer a packet: a link and lane, a wait, or a discard when no dimension link is up. -/
inductive Choice where
  | take (link : Nat) (esc : Bool)
  | wait
  | discard
  deriving DecidableEq, Repr

def choose (s : State) (b : Bank) (dst cls : Nat) : Choice :=
  let own := s.fab.fna.getD 0
  let n := s.fab.ndim
  let p := s.pinned b dst cls
  let a := p.filter fun d => s.holdsCredit d cls false
  match best (fun d => ((s.upLinks d).map fun l => s.spare l cls false).sum) a with
  | some d => match s.member d cls false with
    | some l => .take l false
    | none => .wait
  | none =>
    let lowest := (List.range n).find? fun d => bit (own ^^^ dst) d
    let up := (List.range n).filter (s.dimUsable b)
    let esc := match lowest with
      | some d => if up.contains d then some d else match p with
        | e :: _ => some e
        | [] => up.head?
      | none => up.head?
    match esc with
    | none => .discard
    | some d =>
      if s.holdsCredit d cls true then
        match s.member d cls true with
        | some l => .take l true
        | none => .wait
      else .wait

/-! ### Egress queues -/

/-- Account the depth of a queue since its last change (R158). -/
def depthSample (s : State) (q : Nat) : State :=
  let x := s.queue q
  let d := s.queueDepth q
  s.setQueue q { x with depthSum := x.depthSum + d * (s.mono - x.depthAt), depthAt := s.mono }

/-- Record a new depth and evaluate the queue's watermark (R158, R160). -/
def depthNow (s : State) (q : Nat) : State :=
  let x := s.queue q
  let d := s.queueDepth q
  let s := s.setQueue q { x with maxDepth := max x.maxDepth d }
  s.markUpdate q d 4096

/-- Place cask `c`, for address `dst`, in the queue of a link and class (R142, R149). -/
def enqueueOf (s : State) (l cls : Nat) (esc : Bool) (c : Nat) (dst : BitVec 26) (chan : Option (Nat × Nat)) : State :=
  let q := l * 8 + cls
  let x := s.queue q
  let mark := x.markDepth ≠ 0 && x.markDepth * 4096 < s.queueDepth q
  let e : QEntry := { cask := c, dst := dst, mark := mark, enq := s.mono, chan := chan }
  let s := s.depthSample q
  let x := s.queue q
  let tag := if x.aLane.isEmpty && x.eLane.isEmpty then (s.link l).vtime else x.tag
  let x := { x with tag := tag }
  ((s.setQueue q (if esc then { x with eLane := x.eLane ++ [e] } else { x with aLane := x.aLane ++ [e] })).depthNow q).lackCheck q

/-- Take an entry out of a queue. -/
def unqueue (s : State) (q : Nat) (e : QEntry) : State :=
  let s := s.depthSample q
  let x := s.queue q
  ((s.setQueue q { x with aLane := x.aLane.erase e, eLane := x.eLane.erase e }).depthNow q).lackCheck q

/-- Place a cask's only entry, with the delivery channel it arrived on. -/
def enqueue (s : State) (l cls : Nat) (esc : Bool) (c : Nat) (dst : BitVec 26) : State :=
  s.enqueueOf l cls esc c dst (match (s.cask c).chan with
    | some (f, n, true) => some (f, n)
    | _ => none)

/-- The class of a packet. -/
def cls (p : Packet) : Nat := p.tc.toNat

/-- Discard a packet that holds cask `c` on the escape rules (R110); FS 0x240 concerns its escape dimension. -/
def escapeDiscard (s : State) (c : Nat) : State :=
  let dst := ((s.cask c).pkt.map dstFna).getD 0
  let d := ((List.range s.fab.ndim).find? fun d => bit (s.fab.fna.getD 0 ^^^ dst) d).getD 0
  (s.decRef c).assertIn 0x240 (.dim d)

/-- The address a packet is routed to: a redirect entry of its bank replaces the destination's FNA (R107). -/
def routeTo (b : Bank) (p : Packet) : Nat := (look none b.redirects p.dst.toNat).getD (dstFna p)

/-- Offer the packet in cask `c` its channels: it is queued, discarded, or left waiting with the time at which it was
first offered an E channel (R107-R110, R113). -/
def routeCask (s : State) (c : Nat) : State :=
  match (s.cask c).pkt with
  | none => s
  | some p =>
    let e := s.epochBank p.epoch
    let b := s.bank e.1
    let s := if e.2.2 then s.assertSrc 0x220 else s
    match s.choose b ((s.cask c).toward.getD (routeTo b p)) (cls p) with
    | .take l esc =>
      let s := s.setCask c { s.cask c with pkt := some { p with epoch := e.2.1, esc := esc }, escapeSince := none }
      s.enqueue l (cls p) esc c p.dst
    | .wait =>
      let k := s.cask c
      s.setCask c { k with escapeSince := some (k.escapeSince.getD s.mono) }
    | .discard => s.escapeDiscard c

end State

end Sys2Proof.Machine
end

