-- ==== Sys2Proof/Machine/Channels.lean ====
section
/-!
DEFINITION. Delivery channels (R114-R122), congestion control (R123), failover (R125, R126) and unresponsive endpoints
(R129). A packet this device sends to itself runs through a channel of its own.
-/

namespace Sys2Proof.Machine

/-- (a − b) mod 2^32. -/
def seqDiff (a b : Nat) : Nat := (a + 2 ^ 32 - b % 2 ^ 32) % 2 ^ 32

/-- A DCSEQ so many numbers on. -/
def seqAdd (a n : Nat) : Nat := (a + n) % 2 ^ 32

/-- `a` is after `b` (R115). -/
def seqAfter (a b : Nat) : Bool := 1 ≤ seqDiff a b && seqDiff a b ≤ 2 ^ 31 - 1

/-- Bytes `lo` on of a packet's header, `n` of them, as a number: the type-specific field starts at 16 (R82). -/
def tsp (p : Packet) (lo n : Nat) : Nat := leNat ((p.tspec.drop (lo - 16)).take n)

/-- The packet comes from an endpoint, not from a device (R84, R169, R305): only then is an EDGE_NACK sent to SRC. -/
def fromEndpoint (p : Packet) : Bool :=
  match p.ty.toNat with
  | 3 => tsp p 24 2 = 0
  | 4 => tsp p 22 2 / 2 ^ 13 = 0
  | 5 => false
  | 8 => (p.payload.getD 1 0).toNat &&& 0xD0 = 0
  | _ => true

namespace State

def own (s : State) : Nat := s.fab.fna.getD 0

/-! ### EDGE_ACK and EDGE_NACK -/

/-- EDGE_NACK between devices, with the TYPE of the packet concerned when there is one (R120). -/
def nackDevice (s : State) (peer cause nseq expected : Nat) (otype : BitVec 8 := 0) : State :=
  s.originate 256 { ty := 0x07, tc := 7, devt := true, dst := BitVec.ofNat 26 (peer * 256), src := s.ownAddr,
                    tspec := leBytes 4 nseq ++ [BitVec.ofNat 8 cause, otype, 0, 0] ++ leBytes 4 expected ++ leBytes 4 0 }

/-- EDGE_NACK to the source endpoint of packet `p` (R120). -/
def nackEndpoint (s : State) (p : Packet) (cause : Nat) : State :=
  if fromEndpoint p then
    s.originate 256 { ty := 0x07, tc := 7, dst := p.src, src := p.dst,
                      tspec := leBytes 4 0 ++ [BitVec.ofNat 8 cause, p.ty, 0, 0] ++ leBytes 8 (tsp p 16 8) }
  else s

/-- One EDGE_ACK from address `src` (R119). -/
def sendAckFrom (s : State) (src dst : BitVec 26) (devt : Bool) (seq count marks : Nat) : State :=
  s.originate 256 { ty := 0x06, tc := 7, devt := devt, dst := dst, src := src,
                    tspec := leBytes 4 seq ++ leBytes 2 count ++ [0, 0] ++ leBytes 8 marks }

def sendAck (s : State) (dst : BitVec 26) (devt : Bool) (seq count marks : Nat) : State :=
  s.sendAckFrom s.ownAddr dst devt seq count marks

/-- The first number that is not delivered; ACKED is one below it (R118). -/
def ackedPoint (c : EgCh) : Nat :=
  (best (fun q => (seqDiff c.expected q : Int)) (c.undelivered ++ c.lost)).getD c.expected

/-- MARKS of `n` numbers that end at `q` (R119). -/
def marksOf (c : EgCh) (q n : Nat) : Nat :=
  ((List.range n).map fun i => if look false c.marks (seqDiff q i) then 2 ^ i else 0).sum

/-- The EDGE_ACKs of a jump of `n` from `q`, at most 64 numbers each (R119): (ACK_SEQ, COUNT). -/
def ackChunks : Nat → Nat → Nat → List (Nat × Nat)
  | 0, _, _ => []
  | k + 1, q, n => if n ≤ 64 then [(seqAdd q (n + 2 ^ 32 - 1), n)] else (seqAdd q 63, 64) :: ackChunks k (seqAdd q 64) (n - 64)

/-- Send the EDGE_ACKs that channel `f` owes (R119). -/
def sendAcks (s : State) (f : Nat) : State :=
  let c := s.egCh f
  let p := ackedPoint c
  let n := seqDiff p c.acked
  let dst := BitVec.ofNat 26 (c.ackTo.getD f * 256)
  let s := (ackChunks (n / 64 + 1) c.acked n).foldl (fun s a => s.sendAck dst true a.1 a.2 (marksOf c a.1 a.2)) s
  let left := c.marks.filter fun m => seqDiff m.1 c.acked ≥ n
  s.setEgCh f { c with acked := p, ackDue := false, count := 0, marks := left }

/-- Number `q` of channel `f` is delivered (R118); 64 deliveries send an EDGE_ACK at once (R119). -/
def chanDelivered (s : State) (f q : Nat) : State :=
  let c := s.egCh f
  if !c.undelivered.contains q then s
  else
    let n : EgCh := { c with undelivered := c.undelivered.filter (· ≠ q), handed := put none c.handed q none,
                             ackDue := true, count := c.count + 1 }
    let s := s.setEgCh f n
    let s := match look none c.handed q with
      | some k => s.decRef k
      | none => s
    if 64 ≤ n.count then s.sendAcks f else s

/-- A released packet was discarded before its delivery (R117): its number may be queued again. -/
def chanLost (s : State) (f q : Nat) : State := s.loseEnds [(f + 1, q)]

/-! ### Errors in the packet buffer (R134) -/

/-- A pour without cask `c`: a contribution that waited in it is gone, and may come again. -/
def pourForget (c : Nat) (p : Pour) : Pour :=
  let hit := (p.casks.filter fun e => e.2 = some c).map Prod.fst
  hit.foldl (fun p b => { p with casks := put none p.casks b none, inputs := put none p.inputs b none,
                                 bitmap := p.bitmap &&& ~~~((1 : BitVec 384) <<< b) }) { p with out := if p.out = some c then none else p.out }

/-- Every place that holds cask `c` lets go of it: queues, reorder windows, waiting places, pours (R134, R137). -/
def forgetCask (s : State) (c : Nat) : State :=
  let s := s.sw.queues.foldl (fun s q =>
    (q.2.aLane ++ q.2.eLane).foldl (fun s e =>
      if e.cask ≠ c then s
      else match e.chan with
        | some x => (s.unqueue q.1 e).chanLost x.1 x.2
        | none => s.unqueue q.1 e) s) s
  let s := match (s.cask c).chan with
    | some (f, q, true) =>
      let h := s.egCh f
      let s := s.setEgCh f { h with held := put none h.held q none, handed := put none h.handed q none }
      s.chanLost f q
    | _ => s
  let drop := fun (h : InCh) => { h with kept := h.kept.map fun r => if r.cask = some c then { r with cask := none } else r }
  let s := s.setFab { s.fab with
    inCh := s.fab.inCh.map fun (e : Nat × InCh) => (e.1, drop e.2)
    mirrorWait := s.fab.mirrorWait.map fun m => if m.2.2 = some c then (m.1, m.2.1, none) else m
    relayWait := s.fab.relayWait.filter fun m => m.2.2.2 ≠ c }
  let held := s.vats.contracts.filterMap fun e => e.2.bind fun k =>
    if k.rounds.any fun r => r.pours.any fun p => (pourCasks p.2).contains c then some (e.1, k) else none
  held.foldl (fun s e =>
    let rounds := e.2.rounds.map fun r => { r with pours := r.pours.map fun p => (p.1, pourForget c p.2) }
    s.setContract e.1 (some { e.2 with rounds := rounds })) s

/-- An error in a stored word is found (R134): corrected, or the packet is discarded and its cask retired. -/
def pbError (s : State) (c : Nat) (uncorrectable : Bool) : State :=
  let k := s.cask c
  if !k.alloc || k.retired then s
  else if uncorrectable then
    let s := ((s.forgetCask c).assertIn 0x151 (.cask c))
    if (s.cask c).retired then s else (s.containUnit (.cask c)).poolMark (caskPool c)
  else
    let s := s.setCask c { k with err := 0 }
    (s.setSw { s.sw with pbCorrected := s.sw.pbCorrected + 1 }).assertSrc 0x150

/-- The packet of cask `c` as it is read out of the buffer: none when a word of it cannot be corrected (R134). -/
def readOut (s : State) (c : Nat) : Option Packet × State :=
  if (s.cask c).err = 2 then (none, s.pbError c true)
  else ((s.cask c).pkt, if (s.cask c).err = 1 then s.pbError c false else s)

/-! ### Retention and sending (R116, R121, R122) -/

def freeRetained (s : State) (n : Nat) : State := s.setRetained (s.cel.retained - n)

/-- Egress FNA of a channel key. -/
def keyEgress (k : Nat) : Nat := k % 2 ^ 18

/-- The channel toward egress `e` that keeps number `q`: this device's own, or that of a primary it stands in for. -/
def chanOf (s : State) (e q : Nat) : Nat :=
  ((s.fab.inCh.find? fun k => keyEgress k.1 = e && k.2.kept.any fun r => r.seq = q).map Prod.fst).getD e

def sendBase (s : State) (k value : Nat) : State := s.nackDevice (keyEgress k) 7 0 value

/-- Number `q` of channel `k` leaves now: its round trip runs from here (R122). -/
def markSent (s : State) (k q : Nat) (again : Bool := false) : State :=
  let c := s.inCh k
  s.setInCh k { c with kept := replaceFirst (fun x => x.seq = q) (fun x => { x with sentAt := s.mono, unsent := false, again := again }) c.kept }

/-- Send a retained packet from the retention store: a cask of the ORIGIN account, routed afresh with its DCSEQ, toward the
secondary when it was forwarded to one (R122, R126, R139, R277). It is a first transmission when it has not been sent. -/
def resend (s : State) (k : Nat) (r : Retained) : State :=
  ((s.markSent k r.seq !r.unsent).systemDraws 5 1 (storedLen r.pkt) .system).originate
    (if r.relay.isSome then 258 + keyEgress k else 257) r.pkt

/-- No more than 4,096 packets of a channel may be unacknowledged (R116). -/
def chanFull (s : State) (k : Nat) : Bool := 4096 ≤ (s.inCh k).kept.length

/-- Ingress channel of a packet: its own, or that of the primary whose address SRC carries (R126). -/
def inKey (s : State) (p : Packet) (own : Bool) : Nat :=
  let e := dstFna p
  if own || srcFna p = s.own then e
  else
    let k := (srcFna p + 1) * 2 ^ 18 + e
    if (s.inCh k).live then k else e

/-- The state of a channel that a packet needs: created with its BASE when there is none (R121); both ends of this device's
channel with itself are here. -/
def openChan (s : State) (k : Nat) : State :=
  if (s.inCh k).live then s
  else if k = s.own then ((s.setInCh k { live := true }).setEgCh k { live := true }).tableChange
  else ((s.setInCh k { live := true, base := some 0, baseSent := 1 }).sendBase k 0).tableChange

/-- Give a packet its DCSEQ and EPOCH and keep it, not sent yet (R112, R115, R116): its number, and the packet as it is sent. -/
def keep (s : State) (k : Nat) (p : Packet) (own : Bool) (cask : Option Nat) (relay : Option (Nat × Nat)) : Packet × State :=
  let s := s.openChan k
  let c := s.inCh k
  let p := { p with dcseq := BitVec.ofNat 32 c.next, epoch := s.fab.live }
  let r : Retained := { seq := c.next, pkt := p, sentAt := s.mono, unsent := true, cask := cask, own := own, relay := relay }
  (p, (s.setInCh k { c with next := seqAdd c.next 1, kept := c.kept ++ [r] }).setRetained (s.cel.retained + storedLen p))

/-- The copy of the packet in cask `c` into the retention store: each of its draws holds the cask until it is complete (R116,
R137, R277). -/
def retainCopy (s : State) (c : Nat) (p : Packet) : State :=
  let n := if s.stavePart 1 = 0 then 0 else (piecesOf 4096 0 (storedLen p)).length
  (s.setCask c { s.cask c with refs := holders ((s.cask c).refs + n) }).systemDraws 5 1 (storedLen p) (.retain c)

/-- A reliable packet of `b` stored bytes finds room in retention; otherwise FS 0x243 is set (R116). -/
def retentionRoom (s : State) (b : Nat) : Bool := s.cel.retained + b ≤ s.partitionBytes 1

def holdBytes (h : Hold) : Nat := (h.packets.map storedLen).sum

/-- A further packet for a held endpoint would pass one eighth of the retention store (R129). -/
def holdFull (s : State) (p : Packet) : Bool :=
  s.partitionBytes 1 < 8 * (holdBytes (s.hold p.dst.toNat) + storedLen p)

/-- The cause with which an endpoint's packet is refused at ingress: a destination outside the fabric (R107), outside the
partition (R101), or behind a hold that is full (R129). -/
def ingressRefusal (s : State) (p : Packet) : Option Nat :=
  if 2 ^ s.fab.ndim ≤ dstFna p then some 4
  else if !s.samePartition s.own (dstFna p) then some 6
  else if reliable p && !p.devt && (s.hold p.dst.toNat).marked && s.holdFull p then some 3
  else none

/-- A packet joins the endpoint hold of its destination, to keep the order of admission (R129). -/
def joinsHold (s : State) (p : Packet) : Bool :=
  !p.devt && ((s.hold p.dst.toNat).marked || !(s.hold p.dst.toNat).packets.isEmpty)

/-- A reliable packet waits at ingress: 4,096 of its channel are unacknowledged, retention is full (R116), or a takeover
of its channel has mirrored packets that are not acknowledged (R126). -/
def ingressWait (s : State) (p : Packet) (own : Bool) : Bool :=
  let k := s.inKey p own
  (!s.joinsHold p && s.chanFull k) || !s.retentionRoom (storedLen p) || (s.inCh k).resending

/-! ### Delivery at the egress device (R107, R118, R274) -/

/-- The DATA_READ_RESP of a request (R84). -/
def readResponse (req : Packet) (status : Nat) (data : List Byte) : Packet :=
  { ty := 0x03, tc := req.tc, dst := req.src, src := BitVec.ofNat 26 (dstFna req * 256),
    tspec := leBytes 8 (tsp req 16 8) ++ leBytes 2 (tsp req 24 2) ++ leBytes 2 status ++ leBytes 2 0 ++ leBytes 2 (tsp req 30 2),
    payload := data }

/-- A cellar access that is refused draws an EDGE_NACK (R118); R120 gives it no CAUSE, so that the byte is a free value
(log 129). -/
def nackAccess (s : State) (p : Packet) : State :=
  if fromEndpoint p then
    let f := s.fresh
    f.2.nackEndpoint p (Config.freeNat f.1 % 256)
  else s

/-- A packet for this device that no unit accepts, and a write that its window refuses: discarded, counted in the port
status block, FS 0x310 (R274). -/
def refuseWrite (s : State) (f q c : Nat) (p : Packet) : State :=
  let a := (s.cask c).acct
  let s := if a < 2048 then
      let p := s.port (a / 32)
      s.setPort (a / 32) { p with windowRefused := satAdd 32 p.windowRefused 1 }
    else s
  (((s.nackAccess p).decRef c).assertSrc 0x310).chanDelivered f q

/-- A DATA_WRITE or DATA_READ_REQ for the cellar (R84, R274). -/
def epAccess (s : State) (f q c : Nat) (p : Packet) : State :=
  let write := p.ty = 0x01
  let addr := tsp p 16 8
  let w := tsp p 24 2
  let n := if write then p.payload.length else tsp p 28 2
  if !write && (n = 0 || 16352 < n) then
    ((s.originate 256 (readResponse p 3 [])).decRef c).chanDelivered f q
  else if addr < 2 ^ 32 && s.windowAllows w p.src.toNat write addr n && !s.reqFenced addr 8 then
    if n = 0 then (s.decRef c).chanDelivered f q
    else
      let s := s.decRef c
      s.startAccess 8 w (some p) (some (f, q)) addr n (if write then some p.payload else none)
  else if write then s.refuseWrite f q c p
  else (((s.nackAccess p).originate 256 (readResponse p 2 [])).decRef c).chanDelivered f q

/-- The endpoint configuration of the endpoint at link `l`. -/
def dualOf (s : State) (l : Nat) : Option Dual :=
  match (s.slot l).identity with
  | some i => if i = 0 then none else look none s.fab.dual i.toNat
  | none => none

/-- The other device of the pair whose primary is link `l` here (R125). -/
def secondaryOf (s : State) (l : Nat) : Option Nat :=
  match s.dualOf l with
  | some d => if d.degraded || d.port ≠ l / 4 || d.fna2 = some s.own then none else d.fna2
  | none => none

/-- The link of port `p` at which the endpoint of identity `id` stands: its lowest link before the endpoint has announced
itself there (R102). -/
def portSlot (s : State) (p id : Nat) : Nat :=
  ((s.linksOf p).find? fun l => (s.slot l).identity.any fun i => i.toNat = id).getD (p * 4)

/-- The link that delivers to slot `l`: its own, or that of a second port here when the own one is down (R126). -/
def slotLink (s : State) (l : Nat) : Nat :=
  match s.dualOf l with
  | some d =>
    if (s.link l).st ≠ .active && d.port2 ≠ 0xFF && d.fna2.isNone && d.port = l / 4 then
      s.portSlot d.port2 (((s.slot l).identity.map BitVec.toNat).getD 0)
    else l
  | none => l

/-- The slot named holds an endpoint that may be served. -/
def slotKnown (s : State) (l : Nat) : Bool := (s.slot l).assigned && !(s.slot l).quarantined && !(s.port (l / 4)).quarantined

/-- The link of a packet's slot: on this device by its number; of an endpoint whose primary is another device, by the
configuration of its pair (R102, R126). -/
def localSlot (s : State) (p : Packet) : Nat :=
  let l := p.dst.toNat % 256
  if dstFna p = s.own then l
  else ((s.fab.dual.find? fun e => e.2.any fun d => d.fna2 = some s.own && d.port = l / 4).bind fun e =>
    e.2.map fun d => s.portSlot d.port2 e.1).getD l

/-- A released packet goes on to the secondary `g` through the channel to it, from its cask's copy (R126). -/
def relayOn (s : State) (g f q c : Nat) (p : Packet) : State :=
  let r := s.keep g p true none (some (f, q))
  let s := (r.2.systemDraws 5 1 (storedLen p) .system).decRef c
  if (s.inCh g).base.isSome then s else (s.markSent g r.1.dcseq.toNat).originate (258 + g) r.1

/-- A released packet of channel `f` for an endpoint: refused (R107, R129), forwarded to the secondary (R126), or queued
on its link. -/
def deliverSlot (s : State) (f q c : Nat) (p : Packet) : State :=
  let l := s.localSlot p
  if !s.slotKnown l then ((s.nackEndpoint p 4).decRef c).chanDelivered f q
  else if (s.slot l).unresponsive.isSome then ((s.nackDevice ((s.egCh f).ackTo.getD f) 3 q 0 p.ty).decRef c).chanDelivered f q
  else
    match (if (s.link l).st ≠ .active then s.secondaryOf l else none) with
    | some g =>
      if s.chanFull g then s.setFab { s.fab with relayWait := s.fab.relayWait ++ [(g, f, q, c)] } else s.relayOn g f q c p
    | none => s.enqueueOf (s.slotLink l) (cls p) false c p.dst (some (f, q))

/-- Deliver released number `q` of channel `f`, in cask `c` (R107, R118): a packet that cannot be read whole is lost before its
delivery (R117, R134). -/
def deliverOne (s : State) (f q c : Nat) : State :=
  let h := s.egCh f
  let r := (s.setEgCh f { h with undelivered := h.undelivered ++ [q] }).readOut c
  let s := r.2
  match r.1 with
  | none => s
  | some p =>
    if !p.devt then s.deliverSlot f q c p
    else
      match p.ty.toNat with
      | 1 => s.epAccess f q c p
      | 2 => s.epAccess f q c p
      | 4 =>
        let h := s.egCh f
        (s.setEgCh f { h with handed := put none h.handed q (some c) }).emit (.handed 256 p)
      | 8 => ((s.emit (.handed 256 p)).decRef c).chanDelivered f q
      | _ => s.refuseWrite f q c p

/-- Send one packet from cask `c` to endpoints here, by slot (R143, R169): each copy has its own number of this device's
channel with itself; one that is not next in order is left to retransmission, and one for which the channel has no room waits
like any packet at its ingress (R116). The holders of the cask are the copies sent. -/
def sendCopies (s : State) (c : Nat) (p : Packet) (slots : List Nat) : State :=
  let k := s.own
  let s := s.openChan k
  let r := slots.foldl (fun (a : List (Nat × Packet) × State) l =>
    let p := { p with dst := BitVec.ofNat 26 (k * 256 + l) }
    if a.2.chanFull k then (a.1, a.2.originate (2 ^ 20) p)
    else
      let x := a.2.keep k p true none none
      let n := x.1.dcseq.toNat
      let s := (x.2.markSent k n).systemDraws 5 1 (storedLen p) .system
      let h := s.egCh k
      if h.live && h.expected = n then
        (a.1 ++ [(n, x.1)], s.setEgCh k { h with expected := seqAdd n 1, undelivered := h.undelivered ++ [n] })
      else (a.1, s)) ([], s)
  let s := r.2.setCask c { r.2.cask c with pkt := some { p with epoch := s.fab.live }, refs := holders (r.1.length + 1), stamp := s.mono }
  (r.1.foldl (fun s e => s.deliverSlot k e.1 c e.2) s).decRef c

/-- Release held packets from EXPECTED onward while the numbers are contiguous (R117). -/
def release (s : State) (f : Nat) : Nat → State
  | 0 => s
  | k + 1 =>
    let c := s.egCh f
    match look none c.held c.expected with
    | none => s
    | some x =>
      let q := c.expected
      ((s.setEgCh f { c with expected := seqAdd q 1, held := put none c.held q none }).deliverOne f q x).release f k

/-- Number a takeover treats as next in order (R126). -/
def takeoverNext (s : State) (f q : Nat) : State :=
  let c := s.egCh f
  match c.takeover with
  | none => s
  | some v =>
    s.setEgCh f { c with live := true, expected := q, acked := q, undelivered := [], lost := [], marks := [],
                         takeover := if q = v then none else some v }

/-- A reliable packet of channel `f` has arrived in cask `c` (R117). -/
def arrive (s : State) (f c : Nat) : State :=
  match (s.cask c).pkt with
  | none => s
  | some p =>
    let q := p.dcseq.toNat
    let s := s.takeoverNext f q
    let h := s.egCh f
    let d := seqDiff q h.expected
    if !h.live then (s.decRef c).nackDevice (h.ackTo.getD f) 5 q 0xFFFFFFFF p.ty
    else if d < 4096 then
      if (look none h.held q).isSome then s.decRef c
      else
        let s := s.setCask c { s.cask c with chan := some (f, q, true) }
        let h := { h with held := put none h.held q (some c), marks := put false h.marks q p.cm }
        (s.setEgCh f h).release f 4096
    else if 2 ^ 32 - 4096 ≤ d then
      if h.lost.contains q then
        let s := s.setCask c { s.cask c with chan := some (f, q, true) }
        (s.setEgCh f { h with lost := h.lost.filter (· ≠ q) }).deliverOne f q c
      else (s.decRef c).setEgCh f { h with ackDue := true }
    else (s.decRef c).nackDevice (h.ackTo.getD f) 5 q h.expected p.ty

/-- The ingress device of a reliable packet that ends here, and so its delivery channel (R115). The header names the source
endpoint alone (R82). A packet for an address of the primary came through the primary while it stands; any other belongs to
the channel of SRC's device, or of a partner of it, the secondary, when only that one's window takes its number (log 128). -/
def ingressOf (s : State) (p : Packet) : Nat :=
  let takes := fun (f : Nat) =>
    let h := s.egCh f
    let d := seqDiff p.dcseq.toNat h.expected
    h.takeover.isSome || (h.live && (d < 4096 || 2 ^ 32 - 4096 ≤ d))
  let f := srcFna p
  if dstFna p ≠ s.own && !look false s.fab.holes (dstFna p) then dstFna p
  else if takes f then f
  else (((List.range s.fab.ndim).map (s.partner f)).find? takes).getD f

/-- Send a cask on (R107): to its channel when this device is the egress, by redirect or by destination, otherwise to a
dimension. An unreliable packet for this device is handed to its unit, or queued for an endpoint. -/
def onward (s : State) (c : Nat) : State :=
  let r := s.readOut c
  let s := r.2
  match r.1 with
  | none => s
  | some p =>
    let b := s.bank (s.epochBank p.epoch).1
    let here := dstFna p = s.own || (look none b.redirects p.dst.toNat = some s.own)
    if !here || (s.cask c).toward.isSome then s.routeCask c
    else if reliable p then s.arrive (s.ingressOf p) c
    else if p.devt then (s.emit (.handed 256 p)).decRef c
    else if s.slotKnown (s.localSlot p) then s.enqueue (s.slotLink (s.localSlot p)) (cls p) false c p.dst
    else s.decRef c

/-! ### Rate limiters (R123) -/

/-- The limiter of a packet from an endpoint (R123). -/
def limiterOf (p : Packet) : Nat :=
  (crc32c (leBytes 1 (p.src.toNat % 256) ++ leBytes 3 (dstFna p) ++ leBytes 1 (cls p) ++ [0])).toNat % 65536

/-- Rate of a link in Mb/s (R62). -/
def linkMbps (s : State) (l : Nat) : Nat := (s.link l).width * 56000 * 2 ^ (s.link l).rate

/-- binary64 codes: of a number, and the operations, each rounded once (R39). -/
def f64 (n : Nat) : Nat := (encodeVal 0x13 (valOfInt n 0)).1

def f64Add (a b : Nat) : Nat := (encodeVal 0x13 (valAdd (decodeVal 0x13 a) (decodeVal 0x13 b)).1).1
def f64Sub (a b : Nat) : Nat := (encodeVal 0x13 (valAdd (decodeVal 0x13 a) (decodeVal 0x13 b).flip).1).1
def f64Mul (a b : Nat) : Nat := (encodeVal 0x13 (valMul (decodeVal 0x13 a) (decodeVal 0x13 b)).1).1
def f64Div (a b : Nat) : Nat := (encodeVal 0x13 (valDiv (decodeVal 0x13 a) (decodeVal 0x13 b)).1).1
def f64Less (a b : Nat) : Bool := valCmp (decodeVal 0x13 a) (decodeVal 0x13 b) < 0

/-- Present rate of a limiter as a binary64 code. -/
def rateOf (x : Limiter) : Nat := (x.rate.map BitVec.toNat).getD (f64 x.line)

/-- A rate that has come back to RATE_LINE is held as RATE_LINE, with the time since when. -/
def withRate (now : Nat) (x : Limiter) (r : Nat) : Limiter :=
  if f64Less r (f64 x.line) then { x with rate := some (BitVec.ofNat 64 r), lineAt := none }
  else { x with rate := none, lineAt := some (x.lineAt.getD now) }

/-- `on_ack` of R123. -/
def limiterAck (now : Nat) (x : Limiter) (acked marked : Nat) : Limiter :=
  let a := x.alpha.toNat
  let a := f64Add a (f64Div (f64Sub (f64Div (f64 marked) (f64 acked)) a) (f64 16))
  let x := { x with alpha := BitVec.ofNat 64 a }
  if marked = 0 then x
  else
    let x := { x with lastMark := some now }
    if (x.lastCut.all fun t => t + 4000 ≤ now) then
      let cut := f64Mul (rateOf x) (f64Sub (f64 1) (f64Div a (f64 2)))
      let low := f64Div (f64 x.line) (f64 1024)
      { withRate now x (if f64Less cut low then low else cut) with lastCut := some now }
    else x

/-- Nanoseconds that `b` bytes take at a limiter's rate. -/
def paceNs (x : Limiter) (b : Nat) : Nat :=
  match x.rate with
  | none => 0
  | some r => match decodeVal 0x13 r.toNat with
    | .dy _ m e _ => if 0 ≤ e then ceilDiv (b * 8000) (m * 2 ^ e.toNat) else ceilDiv (b * 8000 * 2 ^ (-e).toNat) m
    | _ => 0

/-! ### Ingress (R115, R116, R121, R125, R129) -/

/-- The packet of an endpoint in cask `c` leaves its ingress (R122). -/
def goNow (s : State) (c : Nat) (p : Packet) : State := (s.markSent (s.inKey p false) p.dcseq.toNat).onward c

/-- A packet in cask `c` may go: to the pace of its limiter, then onward. -/
def goPaced (s : State) (c : Nat) (p : Packet) : State :=
  let h := limiterOf p
  let x := s.limiter h
  if x.rate.isNone then s.goNow c p
  else
    let t := max s.mono x.nextAt
    let s := s.setLimiter h { x with nextAt := t + paceNs x (storedLen p) }
    if t ≤ s.mono then s.goNow c p else s.setCask c { s.cask c with paceAt := some t }

/-- The secondary to which a packet's mirror goes (R125). -/
def mirrorOf (s : State) (p : Packet) : Option Nat :=
  if fromEndpoint p && srcFna p = s.own then s.secondaryOf (p.src.toNat % 256) else none

/-- Send the mirror of a numbered packet of channel `k`, which waits for its confirmation (R125). -/
def sendMirror (s : State) (g k : Nat) (p : Packet) (cask : Option Nat) : State :=
  let s := s.emit (.mirror g p)
  s.setFab { s.fab with mirrorWait := s.fab.mirrorWait ++ [(keyEgress k, p.dcseq.toNat, cask)] }

/-- Number `q` toward egress `e` waits for its mirror. -/
def mirrorPending (s : State) (e q : Nat) : Bool := s.fab.mirrorWait.any fun m => m.1 = e && m.2.1 = q

/-- Admit the reliable packet in cask `c` at its ingress (R116): it joins an endpoint hold (R129), or takes its DCSEQ and a
place in retention, and goes when its BASE is confirmed (R121) and its mirror (R125). `link` is the endpoint's link, none
for a packet this device originates. -/
def admitReliable (s : State) (c : Nat) (p : Packet) (link : Option Nat) : State :=
  let h := s.hold p.dst.toNat
  if s.joinsHold p then
    let s := s.setHold p.dst.toNat { h with packets := h.packets ++ [p] }
    (s.setRetained (s.cel.retained + storedLen p)).decRef c
  else
    let k := s.inKey p link.isNone
    let s := s.openChan k
    let held := (s.inCh k).base.isSome
    let r := s.keep k p link.isNone (if held then some c else none) none
    let s := (r.2.setCask c { r.2.cask c with pkt := some r.1 }).retainCopy c r.1
    match link with
    | none => if held then s else (s.markSent k r.1.dcseq.toNat).onward c
    | some l =>
      let s := s.setLimiter (limiterOf p) { s.limiter (limiterOf p) with line := s.linkMbps l }
      match s.secondaryOf l with
      | some g => s.sendMirror g k r.1 (some c)
      | none => if held then s else s.goPaced c r.1

/-- Send the packets a channel keeps, in order, once its BASE is confirmed (R121): from their own casks, or again. One whose
mirror is not confirmed goes on waiting (R125). -/
def sendKept (s : State) (k : Nat) : State :=
  (s.inCh k).kept.foldl (fun s r =>
    if s.mirrorPending (keyEgress k) r.seq then
      let h := s.inCh k
      s.setInCh k { h with kept := replaceFirst (fun x => x.seq = r.seq) (fun x => { x with cask := none }) h.kept }
    else match r.cask with
    | some c =>
      let h := s.inCh k
      let s := s.setInCh k { h with kept := replaceFirst (fun x => x.seq = r.seq) (fun x => { x with cask := none }) h.kept }
      if r.own then (s.markSent k r.seq).onward c else s.goPaced c r.pkt
    | none => s.resend k r) s

/-- Remove packets of a channel from retention. -/
def dropKept (s : State) (k : Nat) (gone : List Retained) : State :=
  let c := s.inCh k
  let s := s.setInCh k { c with kept := c.kept.filter fun r => !gone.any fun g => g.seq = r.seq }
  s.freeRetained (gone.map fun r => storedLen r.pkt).sum

/-- Update SRTT, RTTVAR and RTO with a sample, in ns (R122). -/
def rttSample (c : InCh) (ns : Nat) : InCh :=
  let x := ns * 65536
  let c := match c.srtt with
    | none => { c with srtt := some x, rttvar := x / 2 }
    | some r =>
      let dev := if r ≤ x then x - r else r - x
      { c with rttvar := (3 * c.rttvar + dev) / 4, srtt := some ((7 * r + x) / 8) }
  { c with rto := max 4000 ((c.srtt.getD 0 + 4 * c.rttvar) / 65536) }

/-- A held packet takes the next DCSEQ of its channel and goes, with its mirror first when it has one (R125, R129): its
number. -/
def sendHeld (s : State) (p : Packet) : Nat × State :=
  let own := !fromEndpoint p
  let k := s.inKey p own
  let r := ((s.openChan k).freeRetained (storedLen p)).keep k p own none none
  let q := r.1.dcseq.toNat
  (q, match r.2.mirrorOf p with
    | some g => r.2.sendMirror g k r.1 none
    | none =>
      if (r.2.inCh k).base.isSome then r.2
      else ((r.2.markSent k q).systemDraws 5 1 (storedLen p) .system).originate 257 r.1)

/-- The packets of a hold whose mark is cleared go in their order, while their channels have room (R116, R129). -/
def drainHold (s : State) (a : Nat) : State :=
  let h := s.hold a
  if h.marked then s
  else
    let r := h.packets.foldl (fun (x : List Packet × State) p =>
      if !x.1.isEmpty || x.2.chanFull (x.2.inKey p (!fromEndpoint p)) then (x.1 ++ [p], x.2)
      else (x.1, (x.2.sendHeld p).2)) ([], s)
    r.2.setHold a { packets := r.1 }

/-- Resume delivery to an endpoint (R129): the mark is cleared. -/
def clearHold (s : State) (a : Nat) : State := (s.setHold a { packets := (s.hold a).packets }).drainHold a

/-- A packet that came back takes its place of admission in the hold: before the first that was sent after it (R129). -/
def holdInsert (h : Hold) (p : Packet) : Hold :=
  let before := (h.packets.take h.nacked).takeWhile fun x => !seqAfter x.dcseq.toNat p.dcseq.toNat
  { h with packets := before ++ p :: h.packets.drop before.length, nacked := h.nacked + 1 }

/-- Relayed packets that waited for room in the channel to secondary `g` go on (R116, R126). -/
def drainRelay (s : State) (g : Nat) : State :=
  s.fab.relayWait.foldl (fun s m =>
    if m.1 ≠ g || s.chanFull g then s
    else
      let s := s.setFab { s.fab with relayWait := s.fab.relayWait.erase m }
      match (s.cask m.2.2.2).pkt with
      | some p => s.relayOn g m.2.1 m.2.2.1 m.2.2.2 p
      | none => s) s

/-- Send the next mirrored packet of a takeover, when none is unacknowledged; the last acknowledgement ends it (R126). -/
def takeoverStep (s : State) (k : Nat) : State :=
  match look [] s.fab.takeover k with
  | [] =>
    let c := s.inCh k
    if c.resending && c.kept.isEmpty then s.setInCh k { c with resending := false } else s
  | p :: ps =>
    if !(s.inCh k).kept.isEmpty then s
    else
      let c := s.inCh k
      let r : Retained := { seq := p.dcseq.toNat, pkt := p, sentAt := s.mono }
      let s := s.setInCh k { c with kept := [r] }
      let s := (s.setFab { s.fab with takeover := put [] s.fab.takeover k ps }).setRetained (s.cel.retained + storedLen p)
      s.originate 257 p

/-- Echo copies of an EDGE_ACK of egress device `e`, for the endpoints that asked for them, with MARKS of their own packets (R123). -/
def echoAck (s : State) (e seq count marks : Nat) (gone : List Retained) : State :=
  let srcs := ((gone.filter fun r => !r.own && srcFna r.pkt = s.own && (s.slot (r.pkt.src.toNat % 256)).echo).map fun r => r.pkt.src).dedup
  srcs.foldl (fun s a =>
    let m := ((List.range count).map fun i =>
      if bit marks i && gone.any fun r => r.pkt.src = a && seqDiff seq i = r.seq then 2 ^ i else 0).sum
    s.sendAckFrom (BitVec.ofNat 26 (e * 256)) a false seq count m) s

/-- The mirror of a packet has been confirmed, or will never be: it goes on when its BASE is confirmed, from its cask or from
retention (R121, R125). -/
def afterMirror (s : State) (m : Nat × Nat × Option Nat) : State :=
  let k := s.chanOf m.1 m.2.1
  if (s.inCh k).base.isSome then s
  else match m.2.2 with
    | some c => match (s.cask c).pkt with
      | some p => s.goPaced c p
      | none => s
    | none => match (s.inCh k).kept.find? fun r => r.seq = m.2.1 with
      | some r => s.resend k r
      | none => s

/-- An event of a command that its channel can no longer deliver goes to the event ring instead, and FS 0x6A3 is set (R314); the spec
gives its record no code (log 136). -/
def eventUndelivered (s : State) (p : Packet) : State :=
  if p.ty ≠ 0x08 || (p.payload.getD 1 0).toNat / 64 ≠ 2 then s
  else
    let f := s.fresh
    let field := fun (o n : Nat) => leNat ((p.payload.drop o).take n)
    (f.2.logEvent { code := Config.freeNat f.1 % 256, severity := s.severity 0x6A3, source := 0x6A3, gid := field 40 2,
                    detail := [field 2 2, field 4 4, field 18 2] }).assertSrc 0x6A3

/-- Fail a channel (R122): UNREACHABLE for every retained packet, its state discarded. -/
def failChannel (s : State) (k : Nat) : State :=
  let kept := (s.inCh k).kept
  let s := s.assertSrc 0x242
  let s := kept.foldl (fun s r => if r.own then s.eventUndelivered r.pkt else s.nackEndpoint r.pkt 4) s
  let s := kept.foldl (fun s r => match r.cask with
    | some c => s.decRef c
    | none => s) s
  let s := s.setFab { s.fab with mirrorWait := s.fab.mirrorWait.filter fun m => m.1 ≠ keyEgress k }
  (s.dropKept k kept).setInCh k {}

/-- Bytes of mirror copies are retention too (R125). A CONTRIB's copy is kept until the settlement that drops it (R192). -/
def storeMirror (s : State) (k : Nat) (p : Packet) : State :=
  let old := look [] s.fab.mirrors k
  let stay := old.filter fun m => m.ty = 0x04 || decide (seqDiff p.dcseq.toNat m.dcseq.toNat < 4096)
  let gone := ((old.filter fun m => !stay.contains m).map storedLen).sum
  (s.setFab { s.fab with mirrors := put [] s.fab.mirrors k (stay ++ [p]) }).setRetained (s.cel.retained + storedLen p - gone)

end State

/-! ### The rows -/

def execRateLimiterTick (lim : BitVec 16) (s : State) : Host.Outcome State Fault Refusal :=
  let x := s.limiter lim.toNat
  let since := fun (n : Nat) => x.lastMark.all fun t => t + n ≤ s.mono
  if x.rate.isSome then
    if since 4000 then
      let r := State.f64Add (State.rateOf x) (State.f64Div (State.f64 x.line) (State.f64 (2 ^ s.sw.aiShift)))
      .next (s.setLimiter lim.toNat (State.withRate s.mono x r))
    else .next s
  else if since 1000000 && x.lineAt.all fun t => t + 1000000 ≤ s.mono then .next (s.setLimiter lim.toNat { line := x.line, nextAt := x.nextAt })
  else .next s

/-- EDGE_ACK_RECEIVE (R119, R121-R123, R126, R129). -/
def execEdgeAckReceive (egress : BitVec 18) (ackSeq : BitVec 32) (count : Fin 65) (marks : BitVec 64) (s : State) :
    Host.Outcome State Fault Refusal :=
  let e := egress.toNat
  let q := ackSeq.toNat
  if count.val = 0 then
    match s.fab.inCh.find? fun k => State.keyEgress k.1 = e && k.2.base.isSome with
    | none => .next s
    | some k => .next ((s.setInCh k.1 { k.2 with base := none, baseSent := 0, expiries := 0 }).sendKept k.1)
  else
    let k := s.chanOf e q
    let c := s.inCh k
    let gone := c.kept.filter fun r => !seqAfter r.seq q
    if gone.isEmpty then .next s
    else
      let now := s.mono
      let c := gone.foldl (fun c r => if r.again then c else State.rttSample c (now - r.sentAt)) { c with expiries := 0 }
      let s := (s.setInCh k c).dropKept k gone
      let marked := fun (r : Retained) => seqDiff q r.seq < count.val && bit marks.toNat (seqDiff q r.seq)
      let mine := gone.filter fun r => !r.own && r.relay.isNone
      let lims := (mine.map fun r => State.limiterOf r.pkt).dedup
      let s := lims.foldl (fun s h =>
        let rs := mine.filter fun r => State.limiterOf r.pkt = h
        s.setLimiter h (State.limiterAck now (s.limiter h) rs.length (rs.filter marked).length)) s
      let s := s.echoAck e q count.val marks.toNat gone
      let s := gone.foldl (fun s r => match r.relay with
        | some x => s.chanDelivered x.1 x.2
        | none => s) s
      let probes := s.fab.holds.filter fun h => h.1 / 256 = e
        && h.2.probe.any fun x => gone.any fun r => r.seq = x
      let s := probes.foldl (fun s h => s.clearHold h.1) s
      let waiting := s.fab.holds.filter fun h => h.1 / 256 = e
      let s := waiting.foldl (fun s h => s.drainHold h.1) s
      .next ((s.drainRelay e).takeoverStep k)

def execEdgeAckTimer (ingress : BitVec 18) (s : State) : Host.Outcome State Fault Refusal :=
  .next (if (s.egCh ingress.toNat).ackDue then s.sendAcks ingress.toNat else s)

/-- EDGE_NACK_GAP_RECEIVE (R122): the named packet once, with no change to RTO. -/
def execEdgeNackGapReceive (egress : BitVec 18) (nseq : BitVec 32) (s : State) : Host.Outcome State Fault Refusal :=
  let k := s.chanOf egress.toNat nseq.toNat
  let c := s.inCh k
  match c.kept.find? fun r => r.seq = nseq.toNat with
  | some r => .next (if c.base.isSome || r.unsent then s else s.resend k r)
  | none => .next s

/-- EDGE_NACK_SEQ_RANGE_RECEIVE (R121): BASE naming the oldest unacknowledged DCSEQ, which the channel then waits for. -/
def execEdgeNackSeqRangeReceive (egress : BitVec 18) (expected : BitVec 32) (s : State) : Host.Outcome State Fault Refusal :=
  let _ := expected
  let k := egress.toNat
  let c := s.inCh k
  if !c.live then .next s
  else
    let b := ((c.kept.head?).map Retained.seq).getD c.next
    .next ((s.setInCh k { c with base := some b, baseSent := c.baseSent + 1 }).sendBase k b)

/-- EDGE_NACK_BASE_RECEIVE (R121): the window is discarded, EXPECTED set and confirmed with COUNT 0. -/
def execEdgeNackBaseReceive (ingress : BitVec 18) (expected : BitVec 32) (s : State) : Host.Outcome State Fault Refusal :=
  let f := ingress.toNat
  let e := expected.toNat
  let c := s.egCh f
  let s := (c.held ++ c.handed).foldl (fun s h => match h.2 with
    | some x => s.decRef x
    | none => s) s
  let s := s.setEgCh f { live := true, expected := e, acked := e, ackTo := c.ackTo }
  .next (s.sendAck (BitVec.ofNat 26 (c.ackTo.getD f * 256)) true (seqAdd e (2 ^ 32 - 1)) 0 0)

/-- EDGE_NACK_UNRESPONSIVE_RECEIVE (R129): the packet enters the hold of its endpoint, a probe at its head. -/
def execEdgeNackUnresponsiveReceive (egress : BitVec 18) (nseq : BitVec 32) (s : State) : Host.Outcome State Fault Refusal :=
  let k := s.chanOf egress.toNat nseq.toNat
  match (s.inCh k).kept.find? fun r => r.seq = nseq.toNat with
  | none => .next s
  | some r =>
    let s := s.dropKept k [r]
    let a := r.pkt.dst.toNat
    let h := s.hold a
    let isProbe := h.probe = some r.seq
    let s := s.setHold a (if isProbe then
        { h with marked := true, packets := h.probePkt.getD r.pkt :: h.packets, nacked := h.nacked + 1, probe := none, probePkt := none }
      else { State.holdInsert h r.pkt with marked := true })
    let s := match r.relay with
      | some x => s.chanDelivered x.1 x.2
      | none => s
    .next (s.setRetained (s.cel.retained + storedLen r.pkt))

/-- GAP_TIMER (R117): one GAP for an EXPECTED that stays missing while a later number is held. -/
def execGapTimer (ingress : BitVec 18) (s : State) : Host.Outcome State Fault Refusal :=
  let f := ingress.toNat
  let c := s.egCh f
  if !c.live || c.held.isEmpty || c.gapSent = some c.expected then .next s
  else .next ((s.setEgCh f { c with gapSent := some c.expected }).nackDevice (c.ackTo.getD f) 1 c.expected 0)

/-- RTO_EXPIRY (R121, R122): an unconfirmed BASE is sent again, or the oldest packet; the 16th time the channel fails. -/
def execRtoExpiry (egress : BitVec 18) (s : State) : Host.Outcome State Fault Refusal :=
  let one := fun (s : State) (k : Nat) =>
    let c := s.inCh k
    let c2 := { c with rto := min 500000 (2 * c.rto) }
    match c.base with
    | some b =>
      if 16 ≤ c.baseSent then s.failChannel k else (s.setInCh k { c2 with baseSent := c.baseSent + 1 }).sendBase k b
    | none =>
      match c.kept.find? fun r => !r.unsent with
      | none => s
      | some r =>
        if 15 ≤ c.expiries then s.failChannel k
        else (s.setInCh k { c2 with expiries := c.expiries + 1 }).resend k r
  .next ((s.fab.inCh.filter fun k => State.keyEgress k.1 = egress.toNat && k.2.live).foldl (fun s k => one s k.1) s)

/-- UNRESPONSIVE_PROBE (R129): the oldest held packet goes as a probe with the next DCSEQ. -/
def execUnresponsiveProbe (endpoint : BitVec 26) (s : State) : Host.Outcome State Fault Refusal :=
  let a := endpoint.toNat
  let h := s.hold a
  match h.packets with
  | [] => .next s
  | p :: ps =>
    if !h.marked || h.probe.isSome || s.chanFull (s.inKey p (!fromEndpoint p)) then .next s
    else
      let r := s.sendHeld p
      .next (r.2.setHold a { h with packets := ps, nacked := h.nacked - 1, probe := some r.1,
                                    probePkt := if 0 < h.nacked then some p else none })

/-- MIRROR_CONFIRM (R125): at the primary, the packet named by `peer`'s channel and its DCSEQ may go; with a copy, this
device is the secondary of `peer`, stores it and confirms. -/
def execMirrorConfirm (peer : BitVec 18) (dcseq : BitVec 32) (copy : Option Packet) (s : State) : Host.Outcome State Fault Refusal :=
  match copy with
  | some p =>
    let k := (peer.toNat + 1) * 2 ^ 18 + dstFna p
    if !s.retentionRoom (storedLen p) then .next (s.assertSrc 0x243)
    else .next ((s.storeMirror k p).emit (.mirrorAck peer.toNat (dstFna p) dcseq.toNat))
  | none =>
    match s.fab.mirrorWait.find? fun m => m.1 = peer.toNat && m.2.1 = dcseq.toNat with
    | none => .next s
    | some m =>
      let s := s.setFab { s.fab with mirrorWait := s.fab.mirrorWait.erase m }
      .next (s.afterMirror m)

end Sys2Proof.Machine
end

