-- ==== Sys2Proof/Machine/Switch.lean ====
section
/-!
DEFINITION. The switch core: packets in slots (R69, R82), admission to casks (R133-R141, R153), the egress scheduler with
shapers and gates (R147-R157), ageing, lees, the leak audit and the packet-buffer scrub (R134, R144-R146), and the discard of
an endpoint's queue (R129).
-/

namespace Sys2Proof.Machine

/-! ### Packets in slots -/

/-- The 32 header bytes of a packet (R82). -/
def headerBytes (p : Packet) : List Byte :=
  [p.ty, BitVec.ofNat 8 (p.tc.toNat + 8 * b01 p.esc + 16 * b01 p.epoch + 32 * b01 p.cm + 64 * b01 p.devt)]
  ++ leBytes 2 p.payload.length ++ leBytes 4 p.dst.toNat ++ leBytes 4 p.src.toNat ++ leBytes 4 p.dcseq.toNat
  ++ p.tspec.take 16 ++ List.replicate (16 - p.tspec.length) 0

/-- Cut bytes into `n` slots of 16, the last one padded with zeros. -/
def slotsOf : Nat → List Byte → List Slot
  | 0, _ => []
  | n + 1, bs => (bs.take 16 ++ List.replicate (16 - bs.length) 0) :: slotsOf n (bs.drop 16)

/-- The slots of a packet (R69). -/
def packetSlots (p : Packet) : List Slot := slotsOf (slotCount p) (headerBytes p ++ p.payload)

/-- A header and the LEN it announces (R82). -/
def parseHeader (h : List Byte) : Packet × Nat :=
  let b := h.getD 1 0
  let w := fun (o n : Nat) => leNat ((h.drop o).take n)
  ({ ty := h.getD 0 0, tc := b.setWidth 3, esc := b.getLsbD 3, epoch := b.getLsbD 4, cm := b.getLsbD 5, devt := b.getLsbD 6,
     dst := BitVec.ofNat 26 (w 4 4), src := BitVec.ofNat 26 (w 8 4), dcseq := BitVec.ofNat 32 (w 12 4),
     tspec := (h.drop 16).take 16 }, w 2 2 % 2 ^ 14)

/-- A header that makes the link retrain: a reserved TYPE, LEN over 16,352, or TC and ESC against PVC (R90). -/
def headerBad (p : Packet) (len vc : Nat) : Bool :=
  p.ty = 0 || 0x0A < p.ty.toNat || 16352 < len || vcOf p vc
where vcOf (p : Packet) (vc : Nat) : Bool := 2 * p.tc.toNat + b01 p.esc ≠ vc

/-- Take `n` slots from the front of a landing FIFO: the FIFO left, and how many flits have left it (R133). -/
def takeSlots : Nat → List (List Slot) → List (List Slot) × Nat
  | _, [] => ([], 0)
  | n, f :: fs =>
    if f.length ≤ n then
      let r := takeSlots (n - f.length) fs
      (r.1, r.2 + 1)
    else (f.drop n :: fs, 0)

/-! ### What a contract claims (R292, R293) -/

/-- Bits of an element of a segment: a packed value, a value with its index, or an LSE group. -/
def elemBits (op f group : Nat) : Nat :=
  if op = 5 || op = 6 || op = 0xB then 8 * argLen f
  else if op = 0xA then 8 * (8 + 16 * ceilDiv (group * (fmtBits f / 8)) 16)
  else fmtBits f

/-- Bytes of a round of one participant. -/
def roundBytes (c : Contract) : Nat :=
  (c.segs.map fun g => ceilDiv (g.count.toNat * elemBits g.op.toNat g.format.toNat c.par.group.toNat) 8).sum

namespace State

/-- Remove the first `n` slots of a landing FIFO; the credits of flits that left it are owed (R133). -/
def landed (s : State) (l vc n : Nat) : State :=
  let k := s.link l
  let r := takeSlots n (look [] k.landing vc)
  s.setLink l { k with landing := put [] k.landing vc r.1, owed := put 0 k.owed vc (look 0 k.owed vc + r.2) }

/-- A protocol error: LINK_PROTOCOL and a retrain (R90). -/
def protocolError (s : State) (l : Nat) : State := (s.assertSrc (4 * (l / 4) + 2)).retrain l

/-! ### Admission -/

/-- Words of the packet buffer that a packet writes may meet a running injection (R356). -/
def pbInject (s : State) (c : Nat) : State :=
  match (s.cask c).pkt with
  | none => s
  | some p =>
    let r := s.injTakeN 0x40 0 (storedLen p / 8)
    match r.1 with
    | none => r.2
    | some dbl => r.2.setCask c { r.2.cask c with err := if dbl then 2 else 1 }

/-- Admit packet `p` to a cask on account `a`; a refusal for want of a cask or of shared space sets its source (R135,
R140). -/
def admitCask (s : State) (a : Nat) (p : Packet) : Option Nat × State :=
  match s.admitTest a (storedLen p) with
  | .cask c => (some c, (s.allocCask c a (some p) 1 none).pbInject c)
  | .noCask => (none, s.assertSrc 0x100)
  | .ceiling => (none, s)
  | .shared => (none, s.assertSrc 0x101)

/-- Tokens of a bucket now, in 1/8000 byte, capped at its burst in KiB (R151). -/
def tokensNow (tokens : Int) (at_ now rate burst : Nat) : Int :=
  min ((burst * 1024 * 8000 : Nat) : Int) (tokens + ((rate * (now - at_) : Nat) : Int))

/-- A class that carries a guarantee, by a contract or a gate list, is guarded (R293). -/
def guardedClass (s : State) (k : Nat) : Bool :=
  s.adm.records.any fun g => match g.claim with
    | .contract key _ => match s.contract key with
      | some c => c.par.tc.toNat = k
      | none => false
    | .gates _ cs => cs.getD k 0 ≠ 0
    | _ => false

/-- A contract holds an admission record (R284). -/
def admitted (s : State) (key : Nat) : Bool := s.adm.records.any fun g => match g.claim with
  | .contract k _ => k = key
  | _ => false

/-- What the admitted contracts of class `k` claim of the endpoint at link `l` that contributes to them, Mb/s (R292, R293). -/
def contribClaim (s : State) (l k : Nat) : Nat :=
  (s.adm.records.map fun g => match g.claim with
    | .contract key dl => match s.contract key with
      | some c => if c.par.tc.toNat = k && bit c.par.slots.toNat l then ceilDiv (roundBytes c * 800) dl else 0
      | none => 0
    | _ => 0).sum

/-- The policer of an endpoint link's class (R153): true when the packet passes. A guarded one passes only CONTRIBs of
admitted contracts, up to their claims on the link (R293), with the burst of a guaranteed link's TC7 shaper (log 89). -/
def police (s : State) (l : Nat) (p : Packet) : Bool × State :=
  let q := l * 8 + cls p
  let x := s.policer q
  let g := s.guardedClass (cls p)
  if !x.enable && !g then (true, s)
  else
    let t := tokensNow x.tokens x.tokenAt s.ns x.rate x.burst
    let u := tokensNow x.claimTokens x.claimAt s.ns (s.contribClaim l (cls p)) 64
    let b : Int := ((storedLen p * 8000 : Nat) : Int)
    let ok := (!x.enable || b ≤ t) && (!g || (p.ty = 0x04 && s.admitted (tsp p 16 4) && b ≤ u))
    let y := { x with tokens := if ok && x.enable then t - b else t, tokenAt := s.ns
                      claimTokens := if ok && g then u - b else u, claimAt := s.ns }
    if ok then (true, s.setPolicer q y)
    else (false, (s.setPolicer q { y with drops := x.drops + 1 }).assertSrc 0x130)

/-- A packet from a dual-homed endpoint repeats one that its failed primary mirrored here (R126). -/
def mirrorMatch (s : State) (p : Packet) : Option (Nat × Packet) :=
  let k := (srcFna p + 1) * 2 ^ 18 + dstFna p
  if srcFna p = s.own || !(s.inCh k).live then none
  else ((look [] s.fab.mirrors k).find? fun m => { m with dcseq := 0, epoch := false, cm := false, esc := false } =
    { p with dcseq := 0, epoch := false, cm := false, esc := false }).map fun m => (k, m)

/-- A packet of an endpoint stands at the head of its landing FIFO (R101, R107, R116, R124, R127, R153). -/
def fromEndpointLink (s : State) (l vc n : Nat) (p : Packet) : State :=
  let x := s.slot l
  if p.ty = 0x09 then (s.landed l vc n).emit (.handed l p)
  else if x.quarantined || (s.port (l / 4)).quarantined then s.landed l vc n
  else if (s.port (l / 4)).draining || x.draining || s.ctl.quiesced || s.planChanging then s
  else
    match s.mirrorMatch p with
    | some m =>
      let s := s.landed l vc n
      let ms := (look [] s.fab.mirrors m.1).erase m.2
      (s.setFab { s.fab with mirrors := put [] s.fab.mirrors m.1 ms }).freeRetained (storedLen m.2)
    | none =>
      let g := s.police l p
      if !g.1 then (g.2.landed l vc n).nackEndpoint p 2
      else
        match s.ingressRefusal p with
        | some cause => (g.2.landed l vc n).nackEndpoint p cause
        | none =>
          if reliable p && s.ingressWait p false then
            if s.retentionRoom (storedLen p) then s else s.assertSrc 0x243
          else
            let p := { p with epoch := s.fab.live, cm := false, dcseq := 0 }
            let r := g.2.admitCask (l * 8 + cls p) p
            match r.1 with
            | none => { r.2 with sw := { r.2.sw with policers := s.sw.policers } }
            | some c =>
              let s := r.2.landed l vc n
              if reliable p then s.admitReliable c p (some l) else s.onward c

/-- A packet from a dimension link stands at the head of its landing FIFO (R101, R107, R349). -/
def fromDimension (s : State) (l vc n d : Nat) (p : Packet) : State :=
  let far := s.partner s.own d
  if p.ty = 0x09 || (p.ty = 0x0A && !(s.dim d).miswired) then (s.landed l vc n).emit (.handed l p)
  else if (s.dim d).miswired || (s.dim d).held || !s.samePartition s.own far then s.landed l vc n
  else if !reliable p && p.devt && dstFna p = s.own then (s.landed l vc n).emit (.handed l p)
  else
    let r := s.admitCask (l * 8 + cls p) p
    match r.1 with
    | none => r.2
    | some c => (r.2.landed l vc n).onward c

/-- Look at the head of a landing FIFO: a header at fault retrains the link at once, a whole packet is dealt with. -/
def headArrive (s : State) (l vc : Nat) : State :=
  let k := s.link l
  let slots := (look [] k.landing vc).flatten
  if k.st ≠ .active || slots.length < 2 then s
  else
    let h := parseHeader ((slots.take 2).flatten)
    if headerBad h.1 h.2 vc then s.protocolError l
    else
      let n := 2 + ceilDiv h.2 16
      if slots.length < n then s
      else
        let p := { h.1 with payload := ((slots.drop 2).flatten).take h.2 }
        match s.linkDim l with
        | none => s.fromEndpointLink l vc n p
        | some d => s.fromDimension l vc n d p

/-! ### Packets the device originates (R139, R143) -/

/-- Try to take one waiting packet into a cask: true when it is dealt with. -/
def originOne (s : State) (on : List Nat) (p : Packet) : Bool × State :=
  let links := on.filter (· < 256)
  let up := links.filter fun l => (s.link l).st = .active
  let acct := if on = [2 ^ 20] then 2048 else 2049
  let k := if on = [2 ^ 20] then 256 else on.headD 256
  if !links.isEmpty && up.isEmpty then (true, s)
  else if links.isEmpty && 2 ^ s.fab.ndim ≤ dstFna p then (true, s)
  else if k = 256 && reliable p && (s.ctl.quiesced || s.planChanging || s.ingressWait p true) then
    (false, if s.retentionRoom (storedLen p) then s else s.assertSrc 0x243)
  else
    let p := if k = 257 then p else { p with epoch := s.fab.live }
    let r := s.admitCask acct p
    match r.1 with
    | none => (false, r.2)
    | some c =>
      let s := r.2
      if !links.isEmpty then
        let s := s.setCask c { s.cask c with refs := holders up.length }
        (true, up.foldl (fun s l => s.enqueue l (cls p) false c p.dst) s)
      else if 258 ≤ k then (true, (s.setCask c { s.cask c with toward := some (k - 258) }).onward c)
      else if k = 256 && reliable p then (true, s.admitReliable c p none)
      else (true, s.onward c)

/-- Serve the packets that wait for an ORIGIN cask, in order; those refused stay. -/
def drainOrigin (s : State) : State :=
  let all := s.sw.originWait
  let s := s.setSw { s.sw with originWait := [] }
  let r := all.foldl (fun (a : List (List Nat × Packet) × State) e =>
    let x := a.2.originOne e.1 e.2
    (if x.1 then a.1 else a.1 ++ [e], x.2)) ([], s)
  r.2.setSw { r.2.sw with originWait := r.1 ++ r.2.sw.originWait }

/-! ### Gates (R154-R157) -/

/-- Cycle time of a gate list, ns. -/
def gateCycle (g : GateList) : Nat := (g.entries.map fun e => e.2 * 10).sum

/-- The entries from the one in force on, the first one with the time it still has, ns. -/
def gateAt : List (Nat × Nat) → Nat → List (Nat × Nat) → List (Nat × Nat)
  | [], _, _ => []
  | e :: es, pos, before =>
    if pos < e.2 * 10 then (e.1, e.2 * 10 - pos) :: (es.map fun x => (x.1, x.2 * 10)) ++ before
    else gateAt es (pos - e.2 * 10) (before ++ [(e.1, e.2 * 10)])

/-- What runs from time `now`: (mask, ns) of one cycle; nothing before the list has started. -/
def gateRun (g : GateList) (now : Nat) : List (Nat × Nat) :=
  if g.entries.isEmpty || now < g.start then [] else gateAt g.entries ((now - g.start) % gateCycle g) []

def gateMask (g : GateList) (now : Nat) : Nat := ((gateRun g now).head?.map Prod.fst).getD 0xFF

/-- Nanoseconds for which queue `k`'s gate stays open from `now`; none when it never closes. -/
def gateLeft (g : GateList) (now k : Nat) : Option Nat :=
  let r := gateRun g now
  if r.all fun e => bit e.1 k then none else some ((r.takeWhile fun e => bit e.1 k).map Prod.snd).sum

/-- The longest time for which queue `k`'s gate is open without a break, in ns; none when it never closes (R154, R157). -/
def gateLongest (g : GateList) (k : Nat) : Option Nat :=
  if g.entries.all fun e => bit e.1 k then none
  else
    let two := g.entries ++ g.entries
    let r := two.foldl (fun (a : Nat × Nat) e => if bit e.1 k then (a.1 + e.2 * 10, max a.2 (a.1 + e.2 * 10)) else (0, a.2)) (0, 0)
    some r.2

/-- `f` flit intervals of link `l` last at most `ns` (R66): 5,280 bits a flit. -/
def flitsFit (s : State) (l f ns : Nat) : Bool := f * 5280000 ≤ ns * s.linkMbps l

def guardBand (s : State) (l : Nat) : Bool := (s.gate l).live.guardBand || (s.link l).zp5208

/-- The gate rule for a packet at the head of queue `k` (R154-R156). -/
def gateAllows (s : State) (l k : Nat) (p : Packet) : Bool :=
  let g := s.gate l
  bit g.mask k && match gateLeft g.live s.ns k with
    | none => true
    | some ns => s.flitsFit l (if s.guardBand l then 29 else flitCount p + 1) ns

/-- The packet fits in no open interval of its queue (R157). -/
def gateUnfit (s : State) (l k : Nat) (p : Packet) : Bool :=
  match gateLongest (s.gate l).live k with
  | none => false
  | some ns => !s.flitsFit l (if s.guardBand l then 29 else flitCount p + 1) ns

/-! ### Queues -/

/-- Discard an entry of a queue. -/
def discardEntry (s : State) (q : Nat) (e : QEntry) : State :=
  let s := (s.unqueue q e).decRef e.cask
  match e.chan with
  | some c => s.chanLost c.1 c.2
  | none => s

/-- The packet's age exceeds the ageing limit (R146). -/
def aged (s : State) (c : Nat) : Bool := s.sw.ageing * 100000 < s.mono - (s.cask c).stamp

/-- Discard the heads of a queue's lanes while they are too old (R146) or fit no gate (R157). -/
def sweepHead (s : State) (q : Nat) : Nat → State
  | 0 => s
  | n + 1 =>
    let x := s.queue q
    let heads := (x.eLane.take 1) ++ x.aLane.take 1
    match heads.find? fun e => s.aged e.cask with
    | some e =>
      let s := s.discardEntry q e
      let x := s.queue q
      ((s.setQueue q { x with aged := x.aged + 1 }).assertSrc 0x120).sweepHead q n
    | none =>
      match heads.find? fun e => ((s.cask e.cask).pkt.map fun p => s.gateUnfit (q / 8) (q % 8) p).getD false with
      | some e => ((s.discardEntry q e).assertSrc 0x140).sweepHead q n
      | none => s

def sweepQueue (s : State) (q : Nat) : State := s.sweepHead q ((s.queue q).aLane.length + (s.queue q).eLane.length)

/-- Credits of a channel not promised to packets already selected. -/
def creditsLeft (s : State) (l vc : Nat) : Nat :=
  look 0 (s.link l).credits vc - ((look [] (s.link l).txSlots vc).map fun t => ceilDiv t.slots.length 37).sum

/-- The head of a queue that may leave: the E lane's first (R147). -/
def sendable (s : State) (l k : Nat) : Option (QEntry × Bool) :=
  let x := s.queue (l * 8 + k)
  let ok := fun (e : QEntry) (esc : Bool) =>
    0 < s.creditsLeft l (vcOf k esc) && ((s.cask e.cask).pkt.map fun p => s.gateAllows l k p).getD false
  match x.eLane.head?.filter (ok · true) with
  | some e => some (e, true)
  | none => (x.aLane.head?.filter (ok · false)).map fun e => (e, false)

/-- Bring a queue's tokens up to date (R151). -/
def refillTokens (s : State) (q : Nat) : State :=
  let x := s.queue q
  if x.rate = 0 then s else s.setQueue q { x with tokens := tokensNow x.tokens x.tokenAt s.ns x.rate x.burst, tokenAt := s.ns }

/-- A queue that may be selected, with its head (R147). -/
def eligible (s : State) (l k : Nat) : Option (QEntry × Bool) :=
  let x := s.queue (l * 8 + k)
  if x.rate = 0 || 0 < x.tokens then s.sendable l k else none

/-- The queue the scheduler selects (R149): TC7 strictly, otherwise the least tag, the lower class on a tie. -/
def selectQueue (s : State) (l : Nat) : Option (Nat × QEntry × Bool) :=
  match s.eligible l 7 with
  | some h => some (7, h)
  | none => (best (fun (c : Nat × QEntry × Bool) => -((s.queue (l * 8 + c.1)).tag : Int))
      ((List.range 7).filterMap fun k => (s.eligible l k).map fun h => (k, h)))

/-- The copy of a packet that leaves on link `l` (R103, R142, R143): its own DST, its mark, and in DISCOVERY the DIM and
MEMBER of the port. -/
def leaving (s : State) (l : Nat) (e : QEntry) (p : Packet) : Packet :=
  let p := { p with dst := e.dst, cm := p.cm || e.mark, dcseq := (e.chan.map fun c => BitVec.ofNat 32 c.2).getD p.dcseq }
  if p.ty ≠ 0x09 then p
  else
    let dm := (look none s.fab.map (l / 4)).getD (0xFF, 0)
    { p with payload := p.payload.take 2 ++ [BitVec.ofNat 8 dm.1, BitVec.ofNat 8 dm.2] ++ p.payload.drop 4 }

/-- The head of a RESULT leaves: its round's last departure (R168, R192). -/
def resultLeft (s : State) (p : Packet) : State :=
  match (if p.ty = 0x05 then s.contract (tsp p 16 4) else none) with
  | some k =>
    let rounds := k.rounds.map fun r => if r.no = tsp p 28 2 then { r with lastOut := s.ns } else r
    s.setContract (tsp p 16 4) (some { k with rounds := rounds })
  | none => s

/-- Sojourn bin of a time in ns (R158). -/
def sojournBin (ns : Nat) : Nat := if ns < 10 then 0 else min 15 (Nat.log2 (ns / 10) + 1)

/-- Send the head of a queue (R149, R151, R158): its slots join those the transmitter places in flits, its cask is released. V
and the tags are 64-bit numbers; TC7, which no tag selects, leaves V and its own tag as they are (log 71). -/
def sendHead (s : State) (l k : Nat) (e : QEntry) (esc : Bool) : State :=
  let q := l * 8 + k
  match (s.cask e.cask).pkt with
  | none => s.unqueue q e
  | some p =>
    let s := s.unqueue q e
    let x := s.queue q
    let len := storedLen p + x.ovh
    let v := x.tag
    let s := s.setQueue q { x with
      tag := if k = 7 then x.tag else (x.tag + len * 1024 / x.weight) % 2 ^ 64
      tokens := if x.rate = 0 then x.tokens else x.tokens - ((len * 8000 : Nat) : Int) }
    let c := s.cask e.cask
    let s := s.setCask e.cask { c with firstLeft := if 1 < c.refs then some (c.firstLeft.getD s.mono) else c.firstLeft }
    let ends := match e.chan with
      | some (f, n) => (f + 1, n)
      | none => (0, 0)
    let x := s.link l
    let out := { s.leaving l e p with esc := esc }
    let s := s.setLink l { x with
      vtime := if k = 7 then x.vtime else v
      txSlots := put [] x.txSlots (vcOf k esc) (look [] x.txSlots (vcOf k esc) ++
        [{ slots := packetSlots out, ends := ends, enq := some e.enq }]) }
    ((s.resultLeft p).extensionDraws e.cask (storedLen p)).decRef e.cask

/-! ### The leak audit (R145) -/

/-- Every cask that something refers to. -/
def referenced (s : State) : List Nat :=
  (s.sw.queues.flatMap fun q => (q.2.aLane ++ q.2.eLane).map QEntry.cask)
  ++ (s.fab.egCh.flatMap fun e => (e.2.held ++ e.2.handed).filterMap Prod.snd)
  ++ (s.fab.inCh.flatMap fun e => e.2.kept.filterMap Retained.cask)
  ++ (s.fab.mirrorWait.filterMap fun m => m.2.2) ++ (s.fab.relayWait.map fun m => m.2.2.2)
  ++ (s.cel.staves.flatMap fun e => (e.2.wait ++ e.2.grant.toList).filterMap fun d => match d.use with
      | .retain k => some k
      | _ => none)
  ++ (s.vats.contracts.flatMap fun e => match e.2 with
      | some k => k.rounds.flatMap fun r => r.pours.flatMap fun p => pourCasks p.2
      | none => [])
  ++ (s.sw.casks.filter fun e => e.2.escapeSince.isSome || e.2.paceAt.isSome).map Prod.fst

end State

/-! ### The rows -/

def execPacketHeaderArrive (link : Fin 256) (vc : Fin 16) (s : State) : Host.Outcome State Fault Refusal :=
  .next (s.headArrive link.val vc.val)

/-- ADMISSION_RETRY (R140): a refused header, and the packets that wait for an ORIGIN cask, are tried again. -/
def execAdmissionRetry (link : Fin 256) (vc : Fin 16) (s : State) : Host.Outcome State Fault Refusal :=
  .next ((s.headArrive link.val vc.val).drainOrigin)

/-- PACKET_CHANNEL_GRANT (R109, R123): a packet that waits for a channel, or for its pace, goes when it may. -/
def execPacketChannelGrant (cask : Nat) (s : State) : Host.Outcome State Fault Refusal :=
  let c := s.cask cask
  match c.paceAt with
  | some t =>
    .next (if t ≤ s.mono then
        let s := s.setCask cask { c with paceAt := none }
        match c.pkt with
        | some p => s.goNow cask p
        | none => s
      else s)
  | none => .next (if c.escapeSince.isSome then s.routeCask cask else s)

/-- ESCAPE_WAIT_EXPIRY (R110). -/
def execEscapeWaitExpiry (cask : Nat) (s : State) : Host.Outcome State Fault Refusal :=
  match (s.cask cask).escapeSince with
  | some t => .next (if t + 20000 ≤ s.mono then s.escapeDiscard cask else s)
  | none => .next s

/-- EGRESS_SELECT (R147-R151): heads too old go first, then the selected queue sends its head. -/
def execEgressSelect (link : Fin 256) (s : State) : Host.Outcome State Fault Refusal :=
  let l := link.val
  let s := s.drainOrigin
  if (s.link l).st ≠ .active then .next s
  else
    let s := (List.range 8).foldl (fun s k => (s.sweepQueue (l * 8 + k)).refillTokens (l * 8 + k)) s
    match s.selectQueue l with
    | none => .next s
    | some (k, e, esc) =>
      if (s.cask e.cask).err = 2 then .next (s.pbError e.cask true)
      else
        let s := if (s.cask e.cask).err = 1 then s.pbError e.cask false else s
        .next (s.sendHead l k e esc)

def execAgeingHeadSweep (link : Fin 256) (cls : Fin 8) (s : State) : Host.Outcome State Fault Refusal :=
  .next (s.sweepQueue (link.val * 8 + cls.val))

/-- LEES_DISCARD (R144): the copies still queued LEES_LIMIT after the first departure. -/
def execLeesDiscard (cask : Nat) (s : State) : Host.Outcome State Fault Refusal :=
  match (s.cask cask).firstLeft with
  | none => .next s
  | some t =>
    if s.mono < t + s.sw.lees * 1000 then .next s
    else .next (s.sw.queues.foldl (fun s q =>
      (q.2.aLane ++ q.2.eLane).foldl (fun s e =>
        if e.cask = cask then
          let s := s.discardEntry q.1 e
          let x := s.queue q.1
          (s.setQueue q.1 { x with leesCount := x.leesCount + 1 }).assertSrc 0x121
        else s) s) s)

/-- LEAK_AUDIT (R145, R357): a cask whose generation bit is that of this audit was taken since it began, and is skipped; the others
take its bit. An audit that ends more than 100 ms after it was due is behind (log 134). -/
def execLeakAudit (s : State) : Host.Outcome State Fault Refusal :=
  let refs := s.referenced
  let g := decide ((s.sw.audit + 1) % 2 = 1)
  let behind := s.sw.auditAt.any fun t => decide (t + 2 * 10 ^ 8 < s.mono)
  let s := s.setSw { s.sw with audit := s.sw.audit + 1, auditAt := some s.mono }
  let s := if behind then s.assertSrc 0x6B2 else s
  let s := refs.foldl (fun s c =>
    if (s.cask c).alloc then s
    else ((s.setCask c { s.cask c with alloc := true, uncharged := true, gen := !g }).poolMark (caskPool c)).assertIn 0x111
      (.pool (caskPool c))) s
  .next (s.sw.casks.foldl (fun s e =>
    let c := s.cask e.1
    if !c.alloc || c.retired || c.gen = g then s
    else if refs.contains e.1 then s.setCask e.1 { c with candidate := false, gen := g }
    else if c.candidate then ((s.freeCask e.1).poolMark (caskPool e.1)).assertIn 0x110 (.pool (caskPool e.1))
    else s.setCask e.1 { c with candidate := true, gen := g }) s)

/-- PB_SCRUB (R134, R357): the scrub has read a cask's words and found no error (0), one it corrects (1) or one it cannot (2), an
injected one among them. A full pass has 60 s. -/
def execPbScrub (cask : Nat) (error : Fin 3) (s : State) : Host.Outcome State Fault Refusal :=
  let v := s.sw.pbPass.visit cask s.mono (60 * 10 ^ 9)
  let s := s.setSw { s.sw with pbPass := v.1 }
  let s := if v.2 then s.assertSrc 0x6B0 else s
  let e := max error.val (s.cask cask).err
  .next (if e = 0 then s else s.pbError cask (e = 2))

/-- ENDPOINT_QUEUE_DISCARD (R128, R129): the queue has lacked credit beyond the ageing limit. -/
def execEndpointQueueDiscard (link : Fin 256) (cls : Fin 8) (s : State) : Host.Outcome State Fault Refusal :=
  let q := link.val * 8 + cls.val
  match (s.queue q).lackSince with
  | none => .next s
  | some t =>
    if s.mono ≤ t + s.sw.ageing * 100000 then .next s
    else
      let es := (s.queue q).eLane ++ (s.queue q).aLane
      let s := s.setSlot link.val { s.slot link.val with unresponsive := some cls.val }
      let s := es.foldl (fun s e =>
        match e.chan with
        | some (f, n) =>
          let ty := ((s.cask e.cask).pkt.map Packet.ty).getD 0
          (((s.unqueue q e).nackDevice ((s.egCh f).ackTo.getD f) 3 n 0 ty).decRef e.cask).chanDelivered f n
        | none => s.discardEntry q e) s
      .next (s.assertIn 0x250 (.epPort (link.val / 4)))

/-- GATE_TRANSITION (R154): the mask of the entry in force at this fabric time. -/
def execGateTransition (link : Fin 256) (s : State) : Host.Outcome State Fault Refusal :=
  let g := s.gate link.val
  .next (s.setGate link.val { g with mask := State.gateMask g.live s.ns })

/-- GATE_LIST_TAKEOVER (R155, R156): a pending list takes over at its time. -/
def execGateListTakeover (link : Fin 256) (s : State) : Host.Outcome State Fault Refusal :=
  let g := s.gate link.val
  match g.next with
  | some (n, t) =>
    if s.ns < t then .next s
    else
      let live := { n with start := t }
      .next (s.setGate link.val { live := live, mask := State.gateMask live s.ns, next := none })
  | none => .next s

end Sys2Proof.Machine
end

