-- ==== Sys2Proof/Machine/Link.lean ====
section
/-!
DEFINITION. Edanis links (R62-R95): acknowledgement and retry, landing, credits, what the transmitter sends, bring-up,
retraining, narrowing and widening, electrical idle, and the lane measurements.
-/

namespace Sys2Proof.Machine

/-- `a` is after `b`, modulo 4,096 (R73). -/
def linkAfter (a b : BitVec 12) : Bool := 1 ≤ (a - b).toNat && (a - b).toNat ≤ 2047

/-- Width and lowest lane that remain of `w` lanes, of which `ok` are healthy (R93). -/
def pickLanes (w : Nat) (ok : Nat → Bool) : Option (Nat × Nat) :=
  if w = 4 then
    if ok 0 && ok 1 && ok 2 && ok 3 then some (4, 0)
    else if ok 0 && ok 1 then some (2, 0)
    else if ok 2 && ok 3 then some (2, 2)
    else ((List.range 4).find? ok).map fun i => (1, i)
  else if w = 2 then
    if ok 0 && ok 1 then some (2, 0) else ((List.range 2).find? ok).map fun i => (1, i)
  else if ok 0 then some (1, 0) else none

/-- Width and lowest lane that remain of a link of `w` lanes from `off` on, of `full` under its port's split (R93): a ×2 link
goes to its own healthy lane, and only with no healthy lane left of all of its lanes does a link go down. -/
def narrowLanes (full w off : Nat) (ok : Nat → Bool) : Option (Nat × Nat) :=
  if w = 2 then
    if ok off && ok (off + 1) then some (2, off)
    else if ok off then some (1, off)
    else if ok (off + 1) then some (1, off + 1)
    else ((List.range full).find? ok).map fun i => (1, i)
  else if w = 1 && ok off then some (1, off)
  else (pickLanes full ok).map fun r => if w = 1 then (1, r.2) else r

/-- The lanes of a wider link of width `w` (R94): those that its healthy lanes allow under the rules of R93. -/
def widerLanes (full w : Nat) (ok : Nat → Bool) : Option (Nat × Nat) :=
  match pickLanes full ok with
  | some (v, o) => if v = w then some (w, o) else none
  | none => none

/-- The lane mask of a width: bit 0 ×1, bit 1 ×2, bit 2 ×4 (R88). -/
def widthBit (w : Nat) : Nat := if w = 4 then 2 else if w = 2 then 1 else 0

/-- A rate and a width both ends have, highest first (R85, R87). -/
def commonRate (top : Nat) (far : BitVec 8) (zp5208 : Bool) : Option Nat :=
  [3, 2, 1, 0].find? fun r => r ≤ top && far.getLsbD r && !(zp5208 && r = 3)

def commonWidth (top : Nat) (far : BitVec 8) : Option Nat := [4, 2, 1].find? fun w => w ≤ top && far.getLsbD (widthBit w)

/-- Walk the payload slots of a flit (R69): the slots of packets, the slots still to come of the packet under way, and
whether a nonzero slot follows a pad slot. -/
def landSlots : List Slot → Nat → Bool → List Slot × Nat × Bool
  | [], left, _ => ([], left, false)
  | x :: xs, left, pad =>
    if left ≠ 0 then
      let r := landSlots xs (left - 1) pad
      (x :: r.1, r.2)
    else if x.headD 0 = 0 then landSlots xs 0 true
    else if pad then ([], 0, true)
    else
      let r := landSlots xs (1 + ceilDiv (leNat ((x.drop 2).take 2) % 2 ^ 14) 16) false
      (x :: r.1, r.2)

/-- Fill up to `room` slots from the packets selected on one channel: the slots, the packets completed, what is left. -/
def fillSlots : Nat → List TxPacket → List Slot × List (Nat × Nat) × List TxPacket
  | _, [] => ([], [], [])
  | room, x :: ps =>
    if x.slots.length ≤ room then
      let r := fillSlots (room - x.slots.length) ps
      (x.slots ++ r.1, (if x.ends.1 = 0 then r.2.1 else x.ends :: r.2.1), r.2.2)
    else (x.slots.take room, [], if room = 0 then x :: ps else { x with slots := x.slots.drop room, enq := none } :: ps)

/-- When the packets were queued whose first slot is among the first `room` of a channel (R158). -/
def firstSlots : Nat → List TxPacket → List Nat
  | _, [] => []
  | room, x :: ps => if room = 0 then [] else x.enq.toList ++ firstSlots (room - x.slots.length) ps

namespace State

/-! ### Lanes and counters -/

/-- The lowest lane in use of a link (R91). -/
def lowLane (s : State) (l : Nat) : Nat := l + (s.link l).laneOff

/-- Lanes in use. -/
def lanesOf (s : State) (l : Nat) : List Nat := (List.range (s.link l).width).map fun i => s.lowLane l + i

/-- The link a lane belongs to under its port's split (R62). -/
def linkOfLane (s : State) (n : Nat) : Nat := n / 4 * 4 + n % 4 / s.splitWidth (n / 4) * s.splitWidth (n / 4)

/-- The highest rate the port is configured for (R62). -/
def topRate (s : State) (l : Nat) : Nat := (s.port (l / 4)).rate

def healthy (s : State) (l i : Nat) : Bool := !(s.lane (l + i)).failed

/-- Replay buffer depth of a link (R74). -/
def replayDepth (s : State) (l : Nat) : Nat := 64 * s.splitWidth (l / 4)

/-- Credits the device announces (R80). -/
def announced (s : State) (l : Nat) : Tab Nat :=
  (List.range 16).filterMap fun v => if s.deviceLink l || v % 2 = 0 then some (v, 64) else none

/-- Count corrected symbols, by the lane of the link's port that carried each (R91). -/
def countCorrected (s : State) (l : Nat) (corrected : Tab Nat) : State :=
  corrected.foldl (fun s c =>
    let n := l / 4 * 4 + c.1 % 4
    s.setLane n { s.lane n with corrected := satAdd 64 (s.lane n).corrected c.2 }) s

/-! ### What follows a link's coming up or going down -/

/-- LINK_DOWN of the port holds while a link of it is not ACTIVE after having failed (R90); pins and the time parent follow
the dimension links (R111, R389), and admission is examined again (R301). -/
def linkMoved (s : State) (l : Nat) : State :=
  let p := l / 4
  let s := if (s.linksOf p).all fun l => (s.link l).st = .active then s.setLevel (4 * p + 1) false else s
  State.reparent (State.pinsCheck { s with adm := { s.adm with rerun := true } })

def retrainLink (s : State) (l : Nat) : State := (s.retrain l).linkMoved l

def linkFault (s : State) (l : Nat) : State := (s.protocolError l).linkMoved l

/-- The second port of a pair has failed: the pair is single from now on (R126). -/
def degradePairs (s : State) (lost : Dual → Bool) : State :=
  let hit := fun (d : Dual) => lost d && !d.degraded
  if !s.fab.dual.any fun e => e.2.any hit then s
  else
    let dual := s.fab.dual.map fun (e : Nat × Option Dual) =>
      (e.1, e.2.map fun d => if hit d then { d with degraded := true } else d)
    (s.setFab { s.fab with dual := dual }).assertSrc 0x2C1

/-- A link without a healthy lane, or whose bring-up has failed, goes down (R87, R93). -/
def linkFails (s : State) (l : Nat) : State :=
  let s := ((s.dropLink l .down).linkDown (l / 4)).linkMoved l
  s.degradePairs fun d => d.port2 = l / 4 && (d.fna2.isNone || d.fna2 = some s.own)

/-- Both ends have exchanged PARAM flits: traffic starts (R85, R79); a dimension port sends HELLO (R104). Every return to
ACTIVE counts as a bring-up for V, which starts from 0 while the queues keep their tags (R149, log 71). -/
def goActive (s : State) (l : Nat) : State :=
  let k := s.link l
  if k.st = .param && 4 ≤ k.paramSent && 1 ≤ k.paramRecv then
    let s := s.setLink l { k with st := .active, farCredits := s.announced l, vtime := 0, lastSeq := s.mono, ackAt := s.mono }
    let s := s.linkMoved l
    if (s.linkDim l).isSome then s.sendDisc l (s.discMsg 1) else s
  else s

/-- EQ ends when the figure of merit of every lane in use reaches FOM_MIN (R85). -/
def eqCheck (s : State) (l : Nat) : State :=
  let k := s.link l
  if k.st = .eq && (s.lanesOf l).all fun n => (s.lane n).fomMin ≤ (s.lane n).fom then
    s.setLink l { k with st := .lock, goodTraining := 0 }
  else s

/-! ### Narrowing and widening (R93, R94) -/

/-- The lanes a link would run on at width `w`, as this end knows them (R93, R94): wider ones only when they are healthy here,
and at the far end's word a narrower pair or lane of its own. -/
def lanesAt (s : State) (l w : Nat) : Option Nat :=
  let k := s.link l
  if k.width < w then (widerLanes (s.splitWidth (l / 4)) w (s.healthy l)).map Prod.snd
  else
    match narrowLanes (s.splitWidth (l / 4)) k.width k.laneOff (s.healthy l) with
    | some (v, o) => some (if v = w then o else if v < w then k.laneOff else o / w * w)
    | none => some k.laneOff

/-- A relock toward width `w` on the lanes from `off` on begins: SEQUENCED flits stop. -/
def relockStart (s : State) (l w off : Nat) (lane : Option Nat) : State :=
  s.setLink l { s.link l with relock := some w, relockOff := off, relockLane := lane }

/-- The relock is complete: the link runs on the lanes of its new width, and replays from the oldest unacknowledged flit. What
was admitted at its former width is examined again (R157, R301). -/
def relockDone (s : State) (l w : Nat) : State :=
  let k := s.link l
  let s := s.setLink l { k with width := w, laneOff := k.relockOff, relock := none, relockLane := none, resend := k.replay }
  { s with adm := { s.adm with rerun := true } }

/-- A widening ends without its wider width: the former one stays, and a lane that was returned is failed again (R90, R94). -/
def relockKeep (s : State) (l : Nat) : State :=
  let k := s.link l
  let s := match k.relockLane with
    | some n => (s.setLane n { s.lane n with failed := true }).setLevel (4 * (n / 4)) true
    | none => s
  s.setLink l { k with relock := none, relockLane := none, resend := k.replay }

/-- A relock has timed out (R94): a widening keeps the former width, whichever end began it. Of a narrowing the spec gives no
failure: the link retrains (log 131). -/
def relockFail (s : State) (l : Nat) : State :=
  let k := s.link l
  if k.relock.any fun w => k.width < w then s.relockKeep l else s.retrainLink l

/-- A lane is failed: LANE_DEGRADED, and its link narrows or goes down (R90, R93). -/
def failLane (s : State) (n : Nat) : State :=
  if (s.lane n).failed then s
  else
    let s := (s.setLane n { s.lane n with failed := true, lowSince := none }).setLevel (4 * (n / 4)) true
    let l := s.linkOfLane n
    let k := s.link l
    if k.st = .detect || k.st = .down then s
    else if k.relockLane = some n then s.setLink l { k with relock := none, relockLane := none, resend := k.replay }
    else if !(s.lanesOf l).contains n then s
    else
      match narrowLanes (s.splitWidth (l / 4)) k.width k.laneOff (s.healthy l) with
      | none => s.linkFails l
      | some (w, o) =>
        if k.st = .active then s.relockStart l w o none
        else
          let s := s.setLink l { k with width := w, laneOff := o }
          { s with adm := { s.adm with rerun := true } }

/-! ### Receiving -/

/-- Use the ACK of a good flit: it frees the replay entries it covers, and delivers the packets whose last slot they hold
(R74, R118). -/
def useAck (s : State) (l : Nat) (ack : BitVec 12) : State :=
  let k := s.link l
  if linkAfter ack k.lastAck && k.replay.any fun r => r.flit.seq = ack then
    let covered := k.replay.filter fun r => !linkAfter r.flit.seq ack
    let s := s.setLink l { k with
      lastAck := ack
      ackAt := s.mono
      replay := k.replay.filter fun r => linkAfter r.flit.seq ack
      resend := k.resend.filter fun r => linkAfter r.flit.seq ack }
    (covered.flatMap Replay.ends).foldl (fun s e => s.chanDelivered (e.1 - 1) e.2) s
  else s

/-- What every good flit brings (R66, R90, R389): its ACK, and on a dimension port the stamps of time transfer. -/
def goodFlit (s : State) (l : Nat) (f : Flit) : State :=
  let s := s.setLink l { s.link l with badRun := 0 }
  let s := s.useAck l f.ack
  if (s.linkDim l).isSome && !(s.link l).zp5208 && f.timeTx ≠ BitVec.allOnes 64 then
    s.setTime { s.time with lastRx := put none s.time.lastRx (l / 4) (some (f.timeTx, s.timeTx)) }
  else s

/-- Credits returned: an unresponsive endpoint that returns one on the discarded class responds again (R129). -/
def takeCredits (s : State) (l : Nat) (cs : Tab Nat) : State :=
  cs.foldl (fun s c =>
    if c.2 = 0 || 16 ≤ c.1 then s
    else
      let k := s.link l
      let s := s.setLink l { k with credits := put 0 k.credits c.1 (look 0 k.credits c.1 + c.2) }
      let x := s.slot l
      let s := if (s.linkDim l).isNone && x.unresponsive.any fun u => 2 * u = c.1 then s.setSlot l { x with unresponsive := none } else s
      if c.1 % 2 = 0 then s.lackCheck (l * 8 + c.1 / 2) else s) s

/-- The payload slots of an accepted flit land, against a credit the far end holds (R69, R78, R133). -/
def land (s : State) (l : Nat) (f : Flit) : State :=
  let k := s.link l
  let v := f.pvc.toNat
  let r := landSlots f.slots (look 0 k.rxLeft v) false
  if r.2.2 then s.linkFault l
  else if r.1.isEmpty then s
  else if look 0 k.farCredits v = 0 then s.linkFault l
  else s.setLink l { k with
    rxLeft := put 0 k.rxLeft v r.2.1
    farCredits := put 0 k.farCredits v (look 0 k.farCredits v - 1)
    landing := put [] k.landing v (look [] k.landing v ++ [r.1]) }

/-- A RETRY_REQ that names the expected SEQ is to be sent: it leaves before any other flit but a RATE_MATCH, whatever arrives
meanwhile, and its count toward FS +3 is taken when it leaves (R75). -/
def askRetry (s : State) (l : Nat) : State :=
  let k := s.link l
  s.setLink l { k with requests := k.requests + 1, reqDue := k.reqDue ++ [k.rxSeq] }

/-- A bad flit is discarded whole (R72): it is counted, eight in a row retrain the link, and the first one asks for a retry
(R75, R90). -/
def badFlit (s : State) (l : Nat) : State :=
  let k := s.link l
  let n := s.lowLane l
  let s := s.setLane n { s.lane n with bad := satAdd 64 (s.lane n).bad 1 }
  if k.st ≠ .active then s.setLink l { k with goodTraining := 0 }
  else
    let s := s.setLink l { k with badRun := k.badRun + 1 }
    if 8 ≤ k.badRun + 1 then s.retrainLink l
    else if k.requests = 0 then s.askRetry l
    else s

/-! ### Sending -/

/-- The ACK a flit carries: the last SEQ received in order (R66). -/
def ackValue (k : Link) : BitVec 12 := k.rxSeq - 1

/-- Send a flit: its ACK, TIME_TX, its CRC formed last, and the injection of its port's group, whose DOUBLE pattern inverts the CRC (R66, R70, R356, R390). On the line
it is `flitLevels` of the link's width (R63, R71). -/
def sendFlit (s : State) (l : Nat) (f : Flit) (sequenced : Bool) : State :=
  let k := s.link l
  let a := ackValue k
  let t := if k.zp5208 then BitVec.allOnes 64 else s.timeTx
  let r := if sequenced then s.injTake (l / 4) 0 else (none, s)
  let g := sealFlit { f with ack := a, timeTx := t }
  let g := if r.1 = some true then { g with crc := ~~~g.crc } else g
  ((r.2.setLink l { k with ackSent := a, sinceRm := k.sinceRm + 1 }).emit (.flit l g r.1))

def sendRateMatch (s : State) (l : Nat) : State :=
  (s.setLink l { s.link l with sinceRm := 0 }).emit
    (.flit l (sealFlit { ftype := 3, slots := List.replicate 37 (List.replicate 16 0xA5) }) none)

/-- A RATE_MATCH goes first when 1,023 other flits have passed since the last one (R65). -/
def rateMatchFirst (s : State) (l : Nat) : State := if 1023 ≤ (s.link l).sinceRm then s.sendRateMatch l else s

/-- Send a TRAINING flit, which counts like any other toward the next RATE_MATCH (R65, R88). -/
def sendTraining (s : State) (l : Nat) (t : Training) : State :=
  (s.setLink l { s.link l with sinceRm := (s.link l).sinceRm + 1 }).emit (.training l t)

/-- TRAINING as the flit that leaves now: a RATE_MATCH when one is due (R65). -/
def trainingTurn (s : State) (l : Nat) (t : Training) : State :=
  if 1023 ≤ (s.link l).sinceRm then s.sendRateMatch l else s.sendTraining l t

/-- RETRY_REQ leaves (R75); more than 64 of a port's in 1 ms set RETRY_STORM (R90). -/
def sendRetryReq (s : State) (l : Nat) : State :=
  let k := s.link l
  let seq := k.reqDue.headD k.rxSeq
  let n := s.lowLane l
  let s := s.setLane n { s.lane n with retryTx := satAdd 32 (s.lane n).retryTx 1 }
  let p := s.port (l / 4)
  let times := s.mono :: p.retryTimes.filter fun t => s.mono < t + 1000000
  let s := s.setPort (l / 4) { p with retryTimes := times }
  let s := s.setLink l { k with reqDue := k.reqDue.drop 1 }
  let s := s.sendFlit l { ftype := 2, slots := [leBytes 2 seq.toNat ++ List.replicate 14 0] } false
  if 64 < times.length then s.assertSrc (4 * (l / 4) + 3) else s

/-- The content of a TRAINING flit (R88). -/
def training (s : State) (l phase : Nat) (w : Nat) : Training :=
  { tphase := BitVec.ofNat 8 phase, rates := BitVec.ofNat 8 (2 ^ (s.topRate l + 1) - 1),
    widths := BitVec.ofNat 8 (if phase = 5 then 2 ^ widthBit w else 2 ^ (widthBit w + 1) - 1), mode := 0,
    replay := BitVec.ofNat 16 (s.replayDepth l), serial := s.ident.serial,
    creditInit := if phase = 4 then (List.range 16).map fun v => BitVec.ofNat 16 (look 0 (s.announced l) v) else [] }

/-- Build the next new flit from a waiting sync slot, credits owed and payload (R68): none when there is nothing. -/
def newFlit (s : State) (l : Nat) : Option (Flit × List (Nat × Nat) × Link) :=
  let k := s.link l
  let vcs := [14, 15] ++ List.range 14
  let vc := vcs.find? fun v => !(look [] k.txSlots v).isEmpty && 0 < look 0 k.credits v
  let owed := (k.owed.filter fun c => c.2 ≠ 0).map fun (c : Nat × Nat) => (c.1, min 63 c.2)
  if k.syncOut.isEmpty && owed.isEmpty && vc.isNone then none
  else
    let v := vc.getD 0
    let r := if vc.isSome then fillSlots 37 (look [] k.txSlots v) else ([], [], look [] k.txSlots v)
    let f : Flit := { ftype := 1, seq := k.txSeq, sync := k.syncOut.headD {}, pvc := BitVec.ofNat 4 v, credits := owed, slots := r.1 }
    let k : Link := { k with
      syncOut := k.syncOut.drop 1
      owed := owed.foldl (fun o c => put 0 o c.1 (look 0 o c.1 - c.2)) k.owed
      farCredits := owed.foldl (fun o c => put 0 o c.1 (look 0 o c.1 + c.2)) k.farCredits
      txSlots := put [] k.txSlots v r.2.2
      credits := if r.1.isEmpty then k.credits else put 0 k.credits v (look 0 k.credits v - 1)
      txSeq := k.txSeq + 1
      ackAt := if k.replay.isEmpty then s.mono else k.ackAt
      replay := k.replay ++ [{ flit := f, ends := r.2.1 }] }
    some (f, r.2.1, k)

/-- The first flit of packets of queue `q` leaves: their sojourns, from enqueueing, are recorded (R158). -/
def sojourn (s : State) (q : Nat) (enq : List Nat) : State :=
  enq.foldl (fun s t =>
    let x := s.queue q
    let so := s.mono - t
    s.setQueue q { x with maxSojourn := max x.maxSojourn so
                          hist := put 0 x.hist (sojournBin so) (look 0 x.hist (sojournBin so) + 1) }) s

/-- The next flit of an ACTIVE link (R65, R68, R74-R76). -/
def sendNext (s : State) (l : Nat) : State :=
  let k := s.link l
  if 1023 ≤ k.sinceRm then s.sendRateMatch l
  else if !k.reqDue.isEmpty then s.sendRetryReq l
  else
    match k.resend with
    | r :: rs =>
      let n := s.lowLane l
      let s := s.setLane n { s.lane n with replayed := satAdd 64 (s.lane n).replayed 1 }
      (s.setLink l { k with resend := rs, lastSeq := s.mono }).sendFlit l r.flit true
    | [] =>
      if s.replayDepth l ≤ k.replay.length then s.sendFlit l {} false
      else
        match s.newFlit l with
        | none => s.sendFlit l {} false
        | some (f, _, k2) =>
          let s := (s.setLink l { k2 with lastSeq := s.mono }).sendFlit l f true
          let v := f.pvc.toNat
          let s := if f.slots.isEmpty then s else s.sojourn (l * 8 + v / 2) (firstSlots 37 (look [] k.txSlots v))
          if f.slots.isEmpty || f.pvc.toNat % 2 = 1 then s else s.lackCheck (l * 8 + f.pvc.toNat / 2)

/-- The conditions under which a transmitter may be in electrical idle (R89). -/
def idleOk (s : State) (l : Nat) : Bool :=
  let k := s.link l
  k.replay.isEmpty && k.owed.all (fun c => c.2 = 0) && k.ackSent = ackValue k && k.syncOut.isEmpty && k.txSlots.isEmpty
    && k.reqDue.isEmpty && k.relock.isNone

end State

/-! ### The rows -/

/-- SEQUENCED_FLIT_RECEIVE (R67, R70, R72, R75, R91): a flit that decoded but fails its CRC is a bad one. -/
def execSequencedFlitReceive (link : Fin 256) (f : Flit) (corrected : Tab Nat) (s : State) : Host.Outcome State Fault Refusal :=
  let l := link.val
  if (s.link l).st ≠ .active || (s.link l).rxLow then .next s
  else
    let s := s.countCorrected l corrected
    if !goodCrc f then .next (s.badFlit l)
    else if 6 ≤ f.ftype.toNat then .next (s.linkFault l)
    else
      let s := s.goodFlit l f
      let k := s.link l
      if f.seq ≠ k.rxSeq then .next s
      else
        let s := s.setLink l { k with rxSeq := k.rxSeq + 1, requests := 0 }
        let s := if f.sync.op = 0 then s else s.emit (.handedSync l f.sync)
        .next ((s.takeCredits l f.credits).land l f)

/-- BAD_FLIT_RECEIVE (R71, R72, R75, R90): what `receiveLine` makes none of. Symbols may have been corrected in a flit that then
fails its CRC. -/
def execBadFlitReceive (x : Landing) (s : State) : Host.Outcome State Fault Refusal :=
  let l := x.link.val
  let k := s.link l
  if k.st = .detect || k.st = .down || k.rxLow then .next s
  else .next ((s.countCorrected l x.corrected).badFlit l)

def execNullFlitReceive (x : Landing) (f : Flit) (s : State) : Host.Outcome State Fault Refusal :=
  let l := x.link.val
  if (s.link l).st ≠ .active || (s.link l).rxLow then .next s
  else
    let s := s.countCorrected l x.corrected
    .next (if goodCrc f then s.goodFlit l f else s.badFlit l)

/-- RETRY_REQ_RECEIVE (R76): a replay from the named SEQ, nothing for the next SEQ, otherwise a protocol error. A request that
names the next SEQ calls for no replay; one that runs goes on (log 131). -/
def execRetryReqReceive (x : Landing) (f : Flit) (s : State) : Host.Outcome State Fault Refusal :=
  let l := x.link.val
  if (s.link l).st ≠ .active || (s.link l).rxLow then .next s
  else if !goodCrc f then .next ((s.countCorrected l x.corrected).badFlit l)
  else
    let s := s.countCorrected l x.corrected
    let n := s.lowLane l
    let s := (s.setLane n { s.lane n with retryRx := satAdd 32 (s.lane n).retryRx 1 }).goodFlit l f
    let k := s.link l
    let seq := BitVec.ofNat 12 (leNat ((f.slots.headD []).take 2))
    if seq = k.txSeq then .next s
    else if k.replay.any fun r => r.flit.seq = seq then
      .next (s.setLink l { k with resend := k.replay.dropWhile fun r => r.flit.seq ≠ seq })
    else .next (s.linkFault l)

/-- RATE_MATCH_RECEIVE (R65, R91): removed; one deleted early is counted. -/
def execRateMatchReceive (x : Landing) (early : Bool) (s : State) : Host.Outcome State Fault Refusal :=
  let l := x.link.val
  let k := s.link l
  if k.st = .detect || k.st = .down || k.rxLow then .next s
  else
    let s := s.countCorrected l x.corrected
    let n := s.lowLane l
    let s := s.setLink l { k with badRun := 0 }
    .next (if early then s.setLane n { s.lane n with rmDeleted := satAdd 32 (s.lane n).rmDeleted 1 } else s)

def execIdleEntryReceive (x : Landing) (f : Flit) (s : State) : Host.Outcome State Fault Refusal :=
  let l := x.link.val
  if (s.link l).st ≠ .active || (s.link l).rxLow then .next s
  else
    let s := s.countCorrected l x.corrected
    if !goodCrc f then .next (s.badFlit l)
    else
      let s := s.goodFlit l f
      .next (s.setLink l { s.link l with rxLow := true })

/-- TRAINING_FLIT_RECEIVE (R85, R88, R94, R95): the content of a good TRAINING flit (`trainingOf`). A far end that asks for a width
whose lanes are not healthy here does not get it (R94). -/
def execTrainingFlitReceive (x : Landing) (t : Training) (s : State) : Host.Outcome State Fault Refusal :=
  let l := x.link.val
  let s := if (s.link l).st = .detect || (s.link l).st = .down || (s.link l).rxLow then s else s.countCorrected l x.corrected
  let k := s.link l
  let zp := t.mode = 1
  let learn : Link := { k with farRates := t.rates, farWidths := t.widths, farReplay := t.replay.toNat, farSerial := t.serial,
                               zp5208 := zp }
  match k.st with
  | .base =>
    if t.tphase ≠ 1 then .next s
    else
      match commonRate k.tryRate t.rates zp, commonWidth k.width t.widths with
      | some r, some w => .next ((s.setLink l { learn with st := .eq, tryRate := r, rate := r, width := w }).eqCheck l)
      | _, _ => .next (s.setLink l learn)
  | .eq => .next (s.eqCheck l)
  | .lock =>
    let s := s.setLink l { k with goodTraining := k.goodTraining + 1 }
    .next (if 16 ≤ k.goodTraining + 1 then s.setLink l { s.link l with st := .param, paramSent := 0, paramRecv := 0 } else s)
  | .param =>
    if t.tphase ≠ 4 then .next s
    else
      let cs := (List.range 16).foldl (fun (c : Tab Nat) v => put 0 c v (t.creditInit.getD v 0).toNat) []
      .next ((s.setLink l { k with paramRecv := k.paramRecv + 1, credits := cs, farReplay := t.replay.toNat, zp5208 := zp }).goActive l)
  | .active =>
    let s := if k.rxLow then s else s.setLink l { k with badRun := 0 }
    if k.rxLow then .next s
    else if t.tphase = 5 then
      match commonWidth (s.splitWidth (l / 4)) t.widths with
      | none => .next s
      | some w =>
        if k.relock = some w then .next (s.relockDone l w)
        else if w = k.width then .next s
        else match s.lanesAt l w with
          | some o => .next (s.relockStart l w o none)
          | none => .next s
    else if t.tphase = 3 then .next (s.retrainLink l)
    else if t.tphase = 1 || t.tphase = 2 then .next (((s.dropLink l .base).linkDown (l / 4)).linkMoved l)
    else .next s
  | _ => .next s

/-- FLIT_SEND (R65, R68, R85, R94): the flit of the link's state, or a RATE_MATCH when one is due. -/
def execFlitSend (link : Fin 256) (s : State) : Host.Outcome State Fault Refusal :=
  let l := link.val
  let k := s.link l
  match k.st with
  | .base => .next (s.trainingTurn l (s.training l 1 k.width))
  | .eq => .next (s.trainingTurn l (s.training l 2 k.width))
  | .lock => .next (s.trainingTurn l (s.training l 3 k.width))
  | .param =>
    if 1023 ≤ k.sinceRm then .next (s.sendRateMatch l)
    else
      let s := s.sendTraining l (s.training l 4 k.width)
      .next ((s.setLink l { s.link l with paramSent := k.paramSent + 1 }).goActive l)
  | .active =>
    if k.txIdle then .next s
    else match k.relock with
      | some w => .next (s.trainingTurn l (s.training l 5 w))
      | none => .next (s.sendNext l)
  | _ => .next s

def execRateMatchSend (link : Fin 256) (s : State) : Host.Outcome State Fault Refusal :=
  let k := s.link link.val
  .next (if k.st = .active && !k.txIdle && k.relock.isNone then s.sendRateMatch link.val else s)

def execRetryTimerExpiry (link : Fin 256) (s : State) : Host.Outcome State Fault Refusal :=
  let k := s.link link.val
  if k.st ≠ .active || k.requests = 0 then .next s
  else .next (if k.requests < 4 then s.askRetry link.val else s.retrainLink link.val)

/-- ACK_STALL_REPLAY (R76): ACK has not advanced for 10 us while flits are unacknowledged. -/
def execAckStallReplay (link : Fin 256) (s : State) : Host.Outcome State Fault Refusal :=
  let k := s.link link.val
  .next (if k.st = .active && !k.replay.isEmpty && k.ackAt + 10000 ≤ s.mono then
      s.setLink link.val { k with resend := k.replay, ackAt := s.mono } else s)

/-- LANE_DETECT (R85, R93): absent lanes are left out. -/
def execLaneDetect (link : Fin 256) (present : BitVec 4) (s : State) : Host.Outcome State Fault Refusal :=
  let l := link.val
  let k := s.link l
  let p := s.port (l / 4)
  if k.st ≠ .detect || p.held || !s.domActive (4 + l / 32) || !(s.linksOf (l / 4)).contains l then .next s
  else
    match pickLanes (s.splitWidth (l / 4)) fun i => s.healthy l i && present.getLsbD (l % 4 + i) with
    | none => .next s
    | some (w, o) => .next (s.setLink l { k with st := .base, width := w, laneOff := o, rate := 0, tryRate := p.rate })

/-- BRINGUP_TIMEOUT (R85, R87, R94). -/
def execBringupTimeout (link : Fin 256) (s : State) : Host.Outcome State Fault Refusal :=
  let l := link.val
  let k := s.link l
  match k.st with
  | .base => .next (s.setLink l { k with st := .detect })
  | .eq =>
    if k.tryRate = 0 then .next (s.linkFails l)
    else .next (s.setLink l { k with st := .base, tryRate := k.tryRate - 1, rate := 0 })
  | .lock => .next (s.setLink l { k with st := .eq, goodTraining := 0 })
  | .param => .next (s.setLink l { k with st := .lock, goodTraining := 0, paramSent := 0, paramRecv := 0, credits := [] })
  | .active => .next (if k.relock.isSome then s.relockFail l else s)
  | _ => .next s

def execLossOfSignal (lane : Fin 256) (s : State) : Host.Outcome State Fault Refusal := .next (s.failLane lane.val)

/-- FOM_SAMPLE (R92, R93): the smallest eye height of a 20 us sample, and the symbols corrected and received in the last
1 ms. -/
def execFomSample (lane : Fin 256) (height : Nat) (corrected received : Nat) (s : State) : Host.Outcome State Fault Refusal :=
  let n := lane.val
  let x := s.lane n
  let l := s.linkOfLane n
  if x.failed || (s.link l).st = .down || (s.link l).st = .detect then .next s
  else
    let fom := if x.scan then x.fom else min 65535 (1536 * height)
    let low := !x.scan && fom < x.fomMin
    let since := if low then some (x.lowSince.getD s.mono) else none
    let s := s.setLane n { x with fom := fom, lowSince := since }
    if received < 1000 * corrected || since.any (fun t => t + 100000000 ≤ s.mono) then .next (s.failLane n)
    else .next (s.eqCheck l)

/-- EYESCAN_DONE (R92): the counts are held, and the event of the command is sent. -/
def execEyescanDone (lane : Fin 256) (counts : List Nat) (s : State) : Host.Outcome State Fault Refusal :=
  let n := lane.val
  let x := s.lane n
  if !x.scan then .next s
  else
    let cs := (List.range 8192).foldl (fun (c : Tab Nat) i => put 0 c i (min (2 ^ 32 - 1) (counts.getD i 0))) []
    let s := s.setLane n { x with scan := false, counts := cs, scanFor := none }
    match x.scanFor with
    | some h => .next (s.sendEvent h (s.message h true 0))
    | none => .next s

/-- IDLE_DELAY_EXPIRY (R89): four IDLE_ENTRY flits, then electrical idle. -/
def execIdleDelayExpiry (link : Fin 256) (s : State) : Host.Outcome State Fault Refusal :=
  let l := link.val
  let k := s.link l
  let p := s.port (l / 4)
  if k.st = .active && !k.txIdle && p.idleEn && s.idleOk l && k.lastSeq + p.idleDelay * 1000 ≤ s.mono then
    let s := (List.range 4).foldl (fun s _ => (s.rateMatchFirst l).sendFlit l { ftype := 4 } false) s
    .next ((s.setLink l { s.link l with txIdle := true }).emit (.electricalIdle l))
  else .next s

/-- IDLE_WAKE (R89): the wake burst, then as many whole RELOCK flits as end by 299 ns, at least one. -/
def execIdleWake (link : Fin 256) (s : State) : Host.Outcome State Fault Refusal :=
  let l := link.val
  let k := s.link l
  if k.st ≠ .active || !k.txIdle || s.idleOk l then .next s
  else
    let n := max 1 (171 * s.linkMbps l / 5280000)
    let s := (s.setLink l { k with txIdle := false }).emit (.wakeBurst l)
    .next ((List.range n).foldl (fun s _ => (s.rateMatchFirst l).sendTraining l (s.training l 5 k.width)) s)

def execWakeBurstReceive (link : Fin 256) (s : State) : Host.Outcome State Fault Refusal :=
  .next (s.setLink link.val { s.link link.val with rxLow := false })

end Sys2Proof.Machine
end

