-- ==== Sys2Proof/Machine/Operands.lean ====
section
/-!
DEFINITION. Element operations on packed formats, shared by the vector engine, the vats and the sync engine: packing
(R175), arithmetic and selection (R40-R44, R57, R247), the accumulators of R50-R56 and R58, and the counter
generator (R258).
-/

namespace Sys2Proof.Machine

/-! ### Packing (R175) -/

/-- Element `i` of packed data. -/
def getElem (f : Nat) (bs : List Byte) (i : Nat) : Nat :=
  if f = 1 then (bs.getD (i / 2) 0).toNat / 16 ^ (i % 2) % 16
  else leNat ((bs.drop (i * (fmtBits f / 8))).take (fmtBits f / 8))

/-- Bytes of `n` packed elements. -/
def packedLen (f n : Nat) : Nat := if f = 1 then ceilDiv n 2 else n * (fmtBits f / 8)

/-- Pack codes. -/
def packElems (f : Nat) (cs : List Nat) : List Byte :=
  if f = 1 then
    (List.range (ceilDiv cs.length 2)).map fun i => BitVec.ofNat 8 (cs.getD (2 * i) 0 + 16 * cs.getD (2 * i + 1) 0)
  else cs.flatMap fun c => leBytes (fmtBits f / 8) c

/-- Unpack `n` codes. -/
def unpackElems (f : Nat) (bs : List Byte) (n : Nat) : List Nat := (List.range n).map (getElem f bs)

/-- The value code and index of ARG element `i`. -/
def getArg (f : Nat) (bs : List Byte) (i : Nat) : Nat × Nat :=
  let b := bs.drop (i * argLen f)
  if fmtBits f = 64 then (leNat (b.take 8), leNat ((b.drop 8).take 4))
  else (leNat (b.take (fmtBits f / 8)), leNat ((b.drop 4).take 4))

/-- The bytes of an ARG element. -/
def argBytes (f : Nat) (a : Nat × Nat) : List Byte :=
  if fmtBits f = 64 then leBytes 8 a.1 ++ leBytes 8 a.2 else leBytes 4 a.1 ++ leBytes 4 a.2

/-! ### Integer operations (R44, R247) -/

/-- The number an integer code stands for. -/
def intOf (f c : Nat) : Int := if fmtSigned f then signed (fmtBits f) c else (c % 2 ^ fmtBits f : Nat)

/-- An integer result: wrapped, or saturated with invalid (R44, R245, R247). -/
def intResult (f : Nat) (sat : Bool) (v : Int) : Nat × Nat :=
  if sat then satInt f v else (unsigned (fmtBits f) v, 0)

/-! ### Arithmetic in one format (R40, R57, R247) -/

/-- Encode an exact result, with the invalid flag of a new NaN. -/
def finish (f : Nat) (r : Val × Bool) : Nat × Nat :=
  let e := encodeVal f r.1
  (e.1, flOr e.2 (if r.2 then flInvalid + flNewNan else 0))

/-- A code as a unit produces it: a NaN becomes the canonical NaN, and a signalling one raises invalid (R35, R41). -/
def quietCode (f c : Nat) : Nat × Nat :=
  let v := decodeVal f c
  if v.isNan then (canonicalNan f, if v.signalling then flInvalid else 0) else (c, 0)

/-- Sum: ⊕ of R57 in LG formats, IEEE addition, integer addition. -/
def elemAdd (f : Nat) (sat : Bool) (a b : Nat) : Nat × Nat :=
  if fmtInt f then intResult f sat (intOf f a + intOf f b)
  else finish f (valAdd (decodeVal f a).linear (decodeVal f b).linear)

/-- Flip the sign of a code of an LG or IEEE format. -/
def negCode (f c : Nat) : Nat := if bit c (fmtBits f - 1) then c - 2 ^ (fmtBits f - 1) else c + 2 ^ (fmtBits f - 1)

def elemSub (f : Nat) (sat : Bool) (a b : Nat) : Nat × Nat :=
  if fmtInt f then intResult f sat (intOf f a - intOf f b)
  else finish f (valAdd (decodeVal f a).linear (decodeVal f b).linear.flip)

/-- Product: exact in logs, then the limits of R47 (R247). -/
def elemMul (f : Nat) (sat : Bool) (a b : Nat) : Nat × Nat :=
  if fmtInt f then intResult f sat (intOf f a * intOf f b) else finish f (valMul (decodeVal f a) (decodeVal f b))

/-- Quotient. Of an integer division that leaves a remainder the spec does not say which of the two neighbours is the
result, and it states none for division by zero: these are free values (log 14). -/
def elemDiv (f : Nat) (sat : Bool) (a b : Nat) : Nat × Nat :=
  if fmtInt f then
    if intOf f b = 0 then (Config.freeResult a 0 % 2 ^ fmtBits f, flDivZero)
    else if Int.fmod (intOf f a) (intOf f b) = 0 then intResult f sat (Int.fdiv (intOf f a) (intOf f b))
    else intResult f sat (Int.fdiv (intOf f a) (intOf f b) + ((Config.freeResult a b % 2 : Nat) : Int))
  else
    let r := valDiv (decodeVal f a) (decodeVal f b)
    let e := finish f (r.1, r.2.1)
    (e.1, flOr e.2 (if r.2.2 then flDivZero else 0))

/-- Minimum or maximum (R43): any NaN gives the canonical NaN; invalid for a signalling NaN. -/
def elemMinMax (f : Nat) (isMax : Bool) (a b : Nat) : Nat × Nat :=
  let x := decodeVal f a
  let y := decodeVal f b
  if x.isNan || y.isNan then (canonicalNan f, if x.signalling || y.signalling then flInvalid else 0)
  else
    let c := valOrder x y
    (if isMax then (if c < 0 then b else a) else (if 0 < c then b else a), 0)

/-- Does `b` win over `a` in an arg selection, `a` having the lower index (R43)? -/
def argBeats (f : Nat) (isMax : Bool) (a b : Nat) : Bool :=
  let x := decodeVal f a
  let y := decodeVal f b
  if x.isNan then false
  else if y.isNan then true
  else if isMax then decide (valOrder x y < 0) else decide (0 < valOrder x y)

/-- The chosen one of two (value, index) pairs: the index breaks ties, a chosen NaN is canonical (R43, R176). -/
def argChoose (f : Nat) (isMax : Bool) (a b : Nat × Nat) : (Nat × Nat) × Nat :=
  let fl := if (decodeVal f a.1).signalling || (decodeVal f b.1).signalling then flInvalid else 0
  let pick := if a.2 ≤ b.2 then (if argBeats f isMax a.1 b.1 then b else a)
    else (if argBeats f isMax b.1 a.1 then a else b)
  ((if (decodeVal f pick.1).isNan then canonicalNan f else pick.1, pick.2), fl)

/-- Bitwise operators on integer codes. -/
def elemLogic (op a b : Nat) : Nat := if op = 0 then a &&& b else if op = 1 then a ||| b else a ^^^ b

/-- A × B + C with one rounding; in LG formats lin of the exact product (R49, R247). A NaN in C beside a product of zero
and infinity raises invalid, which IEEE 754 leaves open, but no FS 0x4F1: an operand is a NaN (R42, log 120). -/
def elemFma (f : Nat) (sat : Bool) (a b c : Nat) : Nat × Nat :=
  if fmtInt f then intResult f sat (intOf f a * intOf f b + intOf f c)
  else
    let p := valMul (decodeVal f a) (decodeVal f b)
    let s := valAdd p.1.linear (decodeVal f c).linear
    finish f (s.1, (p.2 && !(decodeVal f c).isNan) || s.2)

/-! ### Unary operations (R247) -/

/-- SQRT, RECIP, RSQRT, EXP2, LOG2 of a code, correctly rounded into the format. -/
def elemUnary (sub f a : Nat) : Nat × Nat :=
  let v := decodeVal f a
  let invalidNan := (canonicalNan f, flInvalid + flNewNan)
  match v with
  | .nan sg => (canonicalNan f, if sg then flInvalid else 0)
  | _ =>
    if sub = 3 then
      match v with
      | .inf n => if n then invalidNan else encodeVal f v
      | .lg n l => if n then invalidNan else lgFromLog f l 2
      | .dy n m e _ =>
        if n then invalidNan
        else
          let m' := if e % 2 = 0 then m else 2 * m
          let e' := if e % 2 = 0 then e else e - 1
          let k := m' * 2 ^ 160
          let r := isqrt k
          encodeVal f (.dy false r (e' / 2 - 80) (r * r ≠ k))
      | v => encodeVal f v
    else if sub = 4 then
      match v with
      | .lg n l => let r := lgFromLog f (-l) 1; (withSign (fmtBits f) n r.1, r.2)
      | v =>
        let r := valDiv (.dy false 1 0 false) v
        let e := finish f (r.1, r.2.1)
        (e.1, flOr e.2 (if r.2.2 then flDivZero else 0))
    else if sub = 5 then
      match v with
      | .zero n => let r := encodeVal f (.inf n); (r.1, flOr r.2 flDivZero)
      | .inf n => if n then invalidNan else encodeVal f (.zero false)
      | .lg n l => if n then invalidNan else lgFromLog f (-l) 2
      | .dy n m e _ =>
        if n then invalidNan
        else
          let m' := if e % 2 = 0 then m else 2 * m
          let e' := if e % 2 = 0 then e else e - 1
          let k := 2 ^ (2 * (80 + bitLen m'))
          let r := isqrt (k / m')
          encodeVal f (.dy false r (-(e' / 2) - (80 + bitLen m' : Nat)) (r * r * m' ≠ k))
      | v => encodeVal f v
    else if sub = 6 then
      match v with
      | .inf n => encodeVal f (if n then .zero false else .inf false)
      | .zero _ => encodeVal f (.lg false 0)
      | .lg n l =>
        -- log of the result is ±2^(l / 256) octaves: twice that in code steps, by its floor
        let sh : Int := l + 256 * ((if f = 1 then 1 else if f = 2 then 3 else 8) + 1)
        let y2 : Int := root256 sh
        let r : Int := if l % 256 = 0 then rneDiv y2 2 else (y2 + 1) / 2
        lgLimit f (if n then -r else r) (l % 256 = 0 && y2 % 2 = 0 && 0 ≤ sh)
      | .dy n m e _ =>
        let i : Int := (m * 2 ^ e.toNat : Nat)
        if 0 ≤ e then encodeVal f (.dy false 1 (if n then -i else i) false)
        else if m % 2 ^ (-e).toNat = 0 then
          let i : Int := (m / 2 ^ (-e).toNat : Nat)
          encodeVal f (.dy false 1 (if n then -i else i) false)
        else exp2Ieee f n m e
      | v => encodeVal f v
    else
      match v with
      | .zero _ => let r := encodeVal f (.inf true); (r.1, flOr r.2 flDivZero)
      | .inf n => if n then invalidNan else encodeVal f (.inf false)
      | .lg n l => if n then invalidNan else encodeVal f (valOfInt l (-8))
      | .dy n m e _ =>
        if n then invalidNan
        else
          let k := bitLen m - 1
          if m = 2 ^ k then encodeVal f (valOfInt (e + k) 0) else log2Ieee f m e
      | v => encodeVal f v

/-- NEG and ABS: the sign bit alone, a NaN canonical; integers negate (R247). The negation of the least integer wraps
or saturates as SAT says. -/
def elemSign (sub f : Nat) (sat : Bool) (a : Nat) : Nat × Nat :=
  if fmtInt f then
    let v := intOf f a
    intResult f sat (if sub = 1 then -v else v.natAbs)
  else
    let v := decodeVal f a
    match v with
    | .nan sg => (canonicalNan f, if sg then flInvalid else 0)
    | v => encodeVal f (if sub = 1 then v.flip else v.mag)

/-! ### Accumulators of the tensor engine (R50-R56) -/

/-- An accumulator of one output element: the integer, and the flags overflow, NaN, +∞, −∞, all-negative-zero,
inexact (bits 0-5, R243). -/
structure Acc where
  v : Int := 0
  fl : Nat := 16
  deriving DecidableEq, Repr

def accBits (wide : Bool) : Nat := if wide then 96 else 64

/-- Set flag bit `i`. -/
def setBit (x i : Nat) : Nat := if bit x i then x else x + 2 ^ i
def clearBit (x i : Nat) : Nat := if bit x i then x - 2 ^ i else x

/-- The special-value flags of a product (R55), and its value as (sign, log) when it is finite and nonzero. R55 clears
all-negative-zero for a zero product and for a nonzero one and does not say which of these a NaN product is: the flag
stays as it is (DESIGN CHOICE, log 120). -/
def productInto (a b : Val) (scale : Int) (x : Acc) : Acc × Option (Bool × Int) :=
  let neg := a.neg != b.neg
  if a.isNan || b.isNan then ({ x with fl := setBit x.fl 1 }, none)
  else
    match a, b with
    | .inf _, .zero _ => ({ x with fl := setBit x.fl 1 }, none)
    | .zero _, .inf _ => ({ x with fl := setBit x.fl 1 }, none)
    | .zero _, _ => ({ x with fl := if neg then x.fl else clearBit x.fl 4 }, none)
    | _, .zero _ => ({ x with fl := if neg then x.fl else clearBit x.fl 4 }, none)
    | .lg _ l, .lg _ l' => ({ x with fl := clearBit x.fl 4 }, some (neg, l + l' + scale))
    | _, _ =>
      let f := setBit (clearBit x.fl 4) (if neg then 3 else 2)
      ({ x with fl := if bit f 2 && bit f 3 then setBit f 1 else f }, none)

/-- The addend of a product under anchor A, and whether bits were lost (R51). -/
def addend (anchor : Int) (p : Bool × Int) : Int × Bool :=
  let t := lgT (p.2 % 256).toNat
  let k : Int := p.2 / 256 - anchor + 24
  let r := if 0 ≤ k then (t * 2 ^ k.toNat, false) else shiftRound t (-k).toNat false false
  (if p.1 then -(r.1 : Int) else r.1, r.2)

/-- Add one beat's sum and check the range (R54). -/
def accAdd (wide : Bool) (x : Acc) (d : Int) (inexact : Bool) : Acc :=
  let fl := if inexact then setBit x.fl 5 else x.fl
  if bit x.fl 0 then { x with fl := fl }
  else
    let s := x.v + d
    let hi : Int := (2 ^ (accBits wide - 1) : Nat) - 1
    if hi < s then { v := hi, fl := setBit fl 0 }
    else if s < -hi - 1 then { v := -hi - 1, fl := setBit fl 0 }
    else { v := s, fl := fl }

/-- Shift to a larger anchor (R53). An element that has overflowed keeps the signed limit that R54 sets: R53 does not say
that it is shifted (DESIGN CHOICE, log 120). -/
def accShift (d : Nat) (x : Acc) : Acc :=
  if bit x.fl 0 then x
  else
    let r := shiftRound x.v.natAbs d false false
    -- ties to even of the magnitude are ties to even of the value
    { v := if x.v < 0 then -(r.1 : Int) else r.1, fl := if r.2 then setBit x.fl 5 else x.fl }

/-- Convert an accumulator of least significant bit 2^lsb into a format, in the order of R56. -/
def accConvert (f : Nat) (x : Acc) (lsb : Int) (trunc : Bool) : Nat × Nat :=
  if bit x.fl 1 then (canonicalNan f, 0)
  else if bit x.fl 2 then encodeVal f (.inf false)
  else if bit x.fl 3 then encodeVal f (.inf true)
  else if bit x.fl 0 then
    if fmtLg f then (withSign (fmtBits f) (x.v < 0) (lgMax f), flOverflow + flInexact)
    else let r := encodeVal f (.inf (x.v < 0)); (r.1, flOverflow + flInexact)
  else encodeVal f (valOfInt x.v lsb (bit x.fl 4)) trunc

/-! ### Exact accumulation (R58) -/

/-- Least significant bit of the long accumulator of a format (R58). -/
def exactLsb (f : Nat) : Int :=
  if f = 0x10 then -24 else if f = 0x11 then -133 else if f = 0x12 then -149 else if f = 0x13 then -1074
  else if f = 3 then -87 else if f = 2 then -31 else -25

/-- Accumulator width and elements a vat of the long accumulator (R58). -/
def exactBits (f : Nat) : Nat :=
  if f = 0x10 || f = 2 then 96 else if f = 0x11 || f = 0x12 then 320 else if f = 0x13 then 2176
  else if f = 3 then 192 else 64

def exactElems (f : Nat) : Nat := 524288 / (exactBits f / 8) / 64 * 64

/-- Add a code to an exact accumulator: value and flags of R55. -/
def exactAdd (f : Nat) (x : Acc) (c : Nat) : Acc :=
  match (decodeVal f c).linear with
  | .nan _ => { x with fl := setBit x.fl 1 }
  | .inf n =>
    let fl := setBit (clearBit x.fl 4) (if n then 3 else 2)
    { x with fl := if bit fl 2 && bit fl 3 then setBit fl 1 else fl }
  | .zero n => { x with fl := if n then x.fl else clearBit x.fl 4 }
  | .dy n m e _ =>
    let v : Int := (m * 2 ^ (e - exactLsb f).toNat : Nat)
    { v := x.v + (if n then -v else v), fl := clearBit x.fl 4 }
  | _ => x

/-- Merge two exact accumulators: sums of disjoint contributions. -/
def exactMerge (x y : Acc) : Acc :=
  let fl := (x.fl ||| y.fl)
  let fl := if bit x.fl 4 && bit y.fl 4 then fl else clearBit fl 4
  { v := x.v + y.v, fl := if bit fl 2 && bit fl 3 then setBit fl 1 else fl }

/-- The flags that adding a code to an exact accumulator raises: invalid for a signalling NaN (R41), and for the second
of two opposite infinities, which makes a NaN of operands that are none (R42, R55). They do not depend on the order
(log 120). -/
def exactAddFlags (f : Nat) (x : Acc) (c : Nat) : Nat :=
  match decodeVal f c with
  | .nan sg => if sg then flInvalid else 0
  | .inf n => if !bit x.fl (if n then 3 else 2) && bit x.fl (if n then 2 else 3) then flInvalid + flNewNan else 0
  | _ => 0

/-- The flags that merging two exact accumulators raises: opposite infinities that meet here (R42, R55). -/
def exactMergeFlags (x y : Acc) : Nat :=
  let both := fun (a : Acc) => bit a.fl 2 && bit a.fl 3
  if both (exactMerge x y) && !both x && !both y then flInvalid + flNewNan else 0

/-- The exact sum of codes, with the flags raised on the way (R58). -/
def exactSum (f : Nat) (cs : List Nat) : Acc × Nat :=
  cs.foldl (fun a c => (exactAdd f a.1 c, flOr a.2 (exactAddFlags f a.1 c))) ({}, 0)

/-- Round an exact accumulator once into its format (R58). -/
def exactRound (f : Nat) (x : Acc) : Nat × Nat := accConvert f x (exactLsb f) false

/-- Combine two raw ACC words with the saturation of R59. -/
def accCombine (f a b : Nat) : Nat × Bool :=
  let w := fmtBits f
  let hi : Int := (2 ^ (w - 1) : Nat) - 1
  let lo : Int := -hi - 1
  let x := signed w a
  let y := signed w b
  let sat := fun (v : Int) => v = hi || v = lo
  let r : Int := if sat x && sat y then (if x = y then x else hi)
    else if sat x then x else if sat y then y
    else max lo (min hi (x + y))
  (unsigned w r, decide (r = hi) || decide (r = lo))

/-! ### The counter generator (R258) -/

/-- The eight rounds' rotations. -/
def tcgRot : List (Nat × Nat) := [(13, 16), (15, 29), (26, 24), (6, 8), (17, 11), (25, 19), (5, 23), (12, 7)]

/-- One round on (x0, x1, x2, x3). -/
def tcgRound (key : Nat → BitVec 32) (r : Nat) (rot : Nat × Nat) (x : List (BitVec 32)) : List (BitVec 32) :=
  let kc := BitVec.ofNat 32 (0x9E3779B9 * (r + 1))
  let x0 := x.getD 0 0 + x.getD 1 0
  let x1 := (x.getD 1 0).rotateLeft rot.1 ^^^ x0
  let x2 := x.getD 2 0 + x.getD 3 0
  let x3 := (x.getD 3 0).rotateLeft rot.2 ^^^ x2
  [x0 + (x3 ^^^ key (r % 4)), x3, x2 + (x1 ^^^ (key ((r + 2) % 4) + kc)), x1]

/-- The four output words for a 128-bit key and counter. -/
def tcg (key ctr : Nat) : List (BitVec 32) :=
  let word := fun (v i : Nat) => BitVec.ofNat 32 (v / 2 ^ (32 * i))
  let k := word key
  let x := (tcgRot.zipIdx).foldl (fun x e => tcgRound k e.2 e.1 x) [word ctr 0, word ctr 1, word ctr 2, word ctr 3]
  (List.range 4).map fun i => x.getD i 0 + k i

/-- UNIFORM: rn32((w0 + 0.5) × 2^-32) (R248). -/
def uniform32 (w0 : Nat) : Nat × Nat := encodeVal 0x12 (.dy false (2 * w0 + 1) (-33) false)

/-- The key of a GUMBEL element: rn32(rn32(lin32(z) × TINV) + g) (R178). -/
def gumbelKey (f z tinv w0 : Nat) : Nat :=
  let lin32 := encodeVal 0x12 (decodeVal f z).linear
  let p := elemMul 0x12 false lin32.1 tinv
  (elemAdd 0x12 false p.1 (gumbelNoise (2 * w0 + 1)).1).1

end Sys2Proof.Machine
end

