-- ==== Sys2Proof/Machine/Sem.lean ====
section
/-!
DEFINITION. Semaphores (R207, R208, R210): local ones numbered within a press, global ones over the device.
-/

namespace Sys2Proof.Machine

namespace State

/-- The count of a semaphore. -/
def semCount (s : State) (global : Bool) (p n : Nat) : Nat := if global then look 0 s.press.gs n else look 0 (s.pr p).ls n

/-- Its waiters, in the order of their arrival. -/
def semWaiters (s : State) (global : Bool) (p n : Nat) : List SemWaiter :=
  if global then look [] s.press.gsWait n else look [] (s.pr p).lsWait n

/-- The largest count (R207, R210). -/
def semMax (global : Bool) : Nat := if global then 2 ^ 32 - 1 else 65535

def setSemCount (s : State) (global : Bool) (p n v : Nat) : State :=
  if global then { s with press := { s.press with gs := put 0 s.press.gs n v } }
  else s.setPr p { s.pr p with ls := put 0 (s.pr p).ls n v }

def setSemWaiters (s : State) (global : Bool) (p n : Nat) (ws : List SemWaiter) : State :=
  if global then { s with press := { s.press with gsWait := put [] s.press.gsWait n ws } }
  else s.setPr p { s.pr p with lsWait := put [] (s.pr p).lsWait n ws }

/-- Signal with `k`: true when the count would pass its maximum, where it then stays (R208). -/
def semSignal (s : State) (global : Bool) (p n k : Nat) : Bool × State :=
  let v := s.semCount global p n + k
  (decide (semMax global < v), s.setSemCount global p n (min v (semMax global)))

/-- Wait for `w.need`: true when the wait completes at once, behind no earlier waiter; otherwise the waiter is queued, once
(R208). -/
def semWait (s : State) (global : Bool) (n : Nat) (w : SemWaiter) : Bool × State :=
  let ws := s.semWaiters global w.press n
  let c := s.semCount global w.press n
  if ws.isEmpty && w.need ≤ c then (true, s.setSemCount global w.press n (c - w.need))
  else if ws.contains w then (false, s)
  else (false, s.setSemWaiters global w.press n (ws ++ [w]))

/-- Release waiter `w` when it is the first one and the count suffices (R208). -/
def semRelease (s : State) (global : Bool) (n : Nat) (w : SemWaiter) : Bool × State :=
  let ws := s.semWaiters global w.press n
  let c := s.semCount global w.press n
  if ws.head? = some w && w.need ≤ c then
    (true, (s.setSemCount global w.press n (c - w.need)).setSemWaiters global w.press n ws.tail)
  else (false, s)

end State

end Sys2Proof.Machine
end

