-- ==== Sys2Proof/Machine/Sync.lean ====
section
/-!
DEFINITION. Sub-cubes, sources and relays (R164, R182, R183), and the sync engine (R196-R201).
-/

namespace Sys2Proof.Machine

/-- The senders of local sync values: links 0-255, press n as 256 + n, and the device itself. -/
def syncSelf : Nat := 320

namespace State

/-! ### Sub-cubes -/

/-- A position takes part in a sub-cube and is present. -/
def present (s : State) (mask value f : Nat) : Bool := f &&& mask = value && !look false s.fab.holes f

/-- The dimensions whose mask bit is 0, rising (R182). -/
def freeDims (s : State) (mask : Nat) : List Nat := (List.range s.fab.ndim).filter fun d => !bit mask d

/-- Present members of a sub-cube. -/
def membersOf (s : State) (mask value : Nat) : List Nat := (List.range (2 ^ s.fab.ndim)).filter (s.present mask value)

/-- The source of device `u` at step `j` over dimensions `ds` (R183): the opposite position, or the present member of its
sub-cube nearest to it by XOR; none when that sub-cube is empty. -/
def sourceOf (s : State) (mask value : Nat) (ds : List Nat) (u j : Nat) : Option Nat :=
  let t := u ^^^ 2 ^ ds.getD j 0
  if s.present mask value t then some t
  else
    let low := ((ds.take j).map fun d => 2 ^ d).sum
    best (fun w => -((w ^^^ t : Nat) : Int))
      ((s.membersOf mask value).filter fun w => (w ^^^ t) &&& (2 ^ 18 - 1 - low) = 0)

/-- The devices whose source at step `j` is device `u`. -/
def targetsOf (s : State) (mask value : Nat) (ds : List Nat) (u j : Nat) : List Nat :=
  (s.membersOf mask value).filter fun v => v ≠ u && s.sourceOf mask value ds v j = some u

/-- The first hop, by lowest dimension, of a minimal path from `u` to `v` over present positions. -/
def nextHop (s : State) (u v : Nat) : Option Nat :=
  let n := s.fab.ndim
  let ls := layers s.fab.twisted n s.fab.holes (2 ^ n) [v] []
  match distIn ls u with
  | none => none
  | some k => ((List.range n).map fun d => partnerOf s.fab.twisted n u d).find? fun w => k ≠ 0 && distIn ls w = some (k - 1)

/-- The positions of that path. -/
def pathOf (s : State) : Nat → Nat → Nat → List Nat
  | 0, u, _ => [u]
  | k + 1, u, v => if u = v then [u] else match s.nextHop u v with
    | none => [u]
    | some w => u :: pathOf s k w v

/-- Largest distance between present positions of a sub-cube, through its present positions (R198). -/
def diameter (s : State) (mask value : Nat) : Nat :=
  let ms := s.membersOf mask value
  let gone : Tab Bool := ((List.range (2 ^ s.fab.ndim)).filter fun f => !ms.contains f).map fun f => (f, true)
  (ms.map fun u => (layers s.fab.twisted s.fab.ndim gone (2 ^ s.fab.ndim) [u] []).length - 1).foldl max 0

/-! ### Operators (R196) -/

/-- Operators that run by doubling. -/
def syncDoubles (op : Nat) : Bool := op = 2 || op = 5 || op = 8

/-- Operators whose values carry a location (R196). -/
def syncHasLoc (op : Nat) : Bool := 9 ≤ op && op ≤ 0xC

/-- A value as a counter keeps it: the NaN that FMINLOC or FMAXLOC chooses is canonical, also when it is the only one
(R41, R43). -/
def syncValueOf (op : Nat) (val : BitVec 64) : BitVec 64 :=
  if (op = 9 || op = 0xA) && (decodeVal 0x13 val.toNat).isNan then BitVec.ofNat 64 (canonicalNan 0x13) else val

/-- Fold a value into a counter: value and location, 0 for an operator without one (R196), or for FSUM the exact sum. -/
def syncFold (c : Counter) (val : BitVec 64) (loc : BitVec 32) (x : Acc) : Counter :=
  if c.empty then
    { c with val := syncValueOf c.op val, loc := if syncHasLoc c.op then loc else 0, limbs := x.v, flags := x.fl, empty := false }
  else
    match c.op with
    | 2 => { c with val := c.val + val }
    | 3 => { c with val := c.val &&& val }
    | 4 => { c with val := c.val ||| val }
    | 5 => { c with val := c.val ^^^ val }
    | 6 => { c with val := if val.slt c.val then val else c.val }
    | 7 => { c with val := if c.val.slt val then val else c.val }
    | 8 => let r := exactMerge { v := c.limbs, fl := c.flags } x; { c with limbs := r.v, flags := r.fl }
    | 1 => c
    | op =>
      let r := argChoose (if op ≤ 0xA then 0x13 else 0x23) (op % 2 = 0) (c.val.toNat, c.loc.toNat) (val.toNat, loc.toNat)
      { c with val := BitVec.ofNat 64 r.1.1, loc := BitVec.ofNat 32 r.1.2 }

/-- The special-value flags of R55 in SYNC_FLAGS: NAN, POS_INF, NEG_INF, NEG_ZERO_ALL in bits 2-5 (R197). -/
def syncSpecials (fl : Nat) : Nat := (fl / 2 % 16) * 4

/-- The limbs of an exact sum as they travel: nonzero ones from the highest down; a zero sum sends limb 0 (R199). -/
def syncLimbs (v : Int) : List (Nat × BitVec 64) :=
  let n := unsigned 2176 v
  let ls := (((List.range 34).map fun i => (i, BitVec.ofNat 64 (n / 2 ^ (64 * i)))).filter fun e => e.2 ≠ 0).reverse
  if ls.isEmpty then [(0, 0)] else ls

/-- The slots that carry a counter's value at a step. -/
def syncSlots (i : Nat) (c : Counter) (step : Nat) : List SyncSlot :=
  let f := (if c.empty then 2 else 0) + (if c.replay then 64 else 0) + (if c.parity then 128 else 0)
  let mk := fun (fl : Nat) (loc : BitVec 32) (v : BitVec 64) =>
    ({ syncId := BitVec.ofNat 12 i, op := BitVec.ofNat 4 c.op, step := BitVec.ofNat 8 step, flags := BitVec.ofNat 8 fl,
       loc := loc, payload := v } : SyncSlot)
  if c.op ≠ 8 then [mk f c.loc c.val]
  else
    let ls := syncLimbs c.limbs
    ls.zipIdx.map fun e => mk (f + syncSpecials c.flags + (if e.2 + 1 = ls.length then 1 else 0)) (BitVec.ofNat 32 e.1.1) e.1.2

/-! ### Sending -/

/-- A sync slot waits for the next flit of a link (R68, R198). -/
def syncSend (s : State) (l : Nat) (x : SyncSlot) : State :=
  let k := s.link l
  s.setLink l { k with syncOut := k.syncOut ++ [x] }

/-- Toward dimension `d`: one member of its bundle, the lowest that is up. -/
def syncSendDim (s : State) (d : Nat) (x : SyncSlot) : State :=
  match (s.upLinks d).head? with
  | some l => s.syncSend l x
  | none => s

/-- Dimensions that lead to a present neighbour inside the sub-cube (R198); a miswired link carries DISCOVERY only, a
contained one DISCOVERY and TIME (R105, R349). -/
def syncNeighbours (s : State) (c : Counter) : List Nat :=
  (List.range s.fab.ndim).filter fun d => s.dimUp d && !(s.dim d).miswired && !(s.dim d).held &&
    s.present c.devMask c.devValue (s.partner s.own d)

/-- Holes of a sub-cube. -/
def cubeHoles (s : State) (mask value : Nat) : List Nat :=
  (s.fab.holes.filter fun e => e.2 && e.1 &&& mask = value).map Prod.fst

/-- The counter that re-runs the last use of identifier `i`, beside the counter of its present use (R201). -/
def syncPastOf (i : Nat) : Nat := 4096 + i

/-- The dimension of the first hop toward device `v`. -/
def dimToward (s : State) (v : Nat) : Option Nat :=
  match s.nextHop s.own v with
  | some w => (List.range s.fab.ndim).find? fun d => s.partner s.own d = w
  | none => none

/-- Send a counter's value at its present step: one slot, or one train, on each link that leads to a device that takes it
(R198). -/
def syncSendStep (s : State) (i : Nat) : State :=
  let c := s.counter i
  match c.step with
  | none => s
  | some j =>
    let ds := s.freeDims c.devMask
    let dims := if syncDoubles c.op then
        if ds.length ≤ j then [] else ((s.targetsOf c.devMask c.devValue ds s.own j).filterMap s.dimToward).dedup
      else s.syncNeighbours c
    dims.foldl (fun s d => (syncSlots i c j).foldl (fun s x => s.syncSendDim d x) s) s

/-- Result slots to the endpoints, results due at the presses or to a settlement, and the end of the use (R192, R197, R199,
R212). The results of a use that is re-run after its end stand (R201). -/
def syncFinish (s : State) (i : Nat) : State :=
  let c := s.counter i
  if 4096 ≤ i then s.setCounter i {} else
  let val := if c.op = 8 then BitVec.ofNat 64 (accConvert 0x13 { v := c.limbs, fl := c.flags } (-1074) false).1 else c.val
  let x : SyncSlot := { syncId := BitVec.ofNat 12 i, op := BitVec.ofNat 4 c.op, step := 0xFE,
                        flags := BitVec.ofNat 8 ((if c.empty then 2 else 0) + (if c.replay then 64 else 0) + (if c.parity then 128 else 0)),
                        loc := c.loc, payload := val }
  let s := (members 256 c.slots.toNat).foldl (fun s l => s.syncSend (s.slotLink l) x) s
  let first := c.waiters.zipIdx.filter fun w => (c.waiters.take w.2).all fun v => v.1 ≠ w.1.1
  let due := first.map fun w =>
    ({ press := w.1.1, ls := w.1.2.1, addr := w.1.2.2, value := val, loc := c.loc, flags := x.flags.toNat } : SyncDue)
  let rest := (c.waiters.zipIdx.filter fun w => !first.contains w).map Prod.fst
  s.setCounter i { c with
    parity := !c.parity, got := [], waiters := rest, heard := [], val := 0, loc := 0, limbs := 0, flags := 16, empty := true,
    train := 0, trainSeen := [], locals := [], last := c.locals, step := none, replay := false,
    standby := c.standby.filter fun h => h.slot.flags.getLsbD 7 ≠ c.parity, due := c.due ++ due, ended := true,
    holesAt := s.cubeHoles c.devMask c.devValue, lastHoles := c.holesAt, abort := false, abortLast := c.abort,
    settled := if c.settle then c.settled ++ [val] else c.settled }

/-- Steps the counter's algorithm has. -/
def syncSteps (s : State) (c : Counter) : Nat := if syncDoubles c.op then (s.freeDims c.devMask).length else c.steps

/-- Those from whom a value of step `j` is awaited: dimensions of neighbours, or the one source. -/
def syncAwaited (s : State) (c : Counter) (j : Nat) : List Nat :=
  if syncDoubles c.op then
    match s.sourceOf c.devMask c.devValue (s.freeDims c.devMask) s.own j with
    | some v => [v]
    | none => []
  else s.syncNeighbours c

/-- The participants of a counter on this device. -/
def syncLocals (c : Counter) : List Nat :=
  members 256 c.slots.toNat ++ (members 64 c.presses.toNat).map (· + 256) ++ (if c.settle then [syncSelf] else [])

/-- Complete the local fold, step, or finish, as far as what has come allows. -/
def syncAdvance (s : State) (i : Nat) : Nat → State
  | 0 => s
  | n + 1 =>
    let c := s.counter i
    match c.step with
    | none =>
      let ls := syncLocals c
      if !ls.isEmpty && ls.all c.got.contains then
        ((s.setCounter i { c with step := some 0, heard := [] }).syncSendStep i).syncAdvance i n
      else s
    | some j =>
      if s.syncSteps c ≤ j then s.syncFinish i
      else if (s.syncAwaited c j).all c.heard.contains then
        ((s.setCounter i { c with step := some (j + 1), heard := [], train := 0, trainSeen := [] }).syncSendStep i).syncAdvance i n
      else s

/-! ### Receiving -/

def holdSlot (s : State) (i : Nat) (sender : Nat) (x : SyncSlot) : State :=
  let c := s.counter i
  s.setCounter i { c with heldSlots := c.heldSlots ++ [{ sender := sender, slot := x }] }

/-- A contribution of a local participant (R197). -/
def syncLocal (s : State) (i sender : Nat) (x : SyncSlot) : State :=
  let c := s.counter i
  let par := x.flags.getLsbD 7
  if !(syncLocals c).contains sender then
    if sender < 256 && (s.dualOf sender).isSome then s.setCounter i { c with standby := c.standby ++ [{ sender := sender, slot := x }] }
    else s.assertSrc 0x630
  else if par ≠ c.parity then
    if c.heldSlots.any fun h => h.sender = sender && h.slot.step = 0xFF then s.assertSrc 0x630 else s.holdSlot i sender x
  else if c.got.contains sender then s.assertSrc 0x630
  else
    let acc := if c.op = 8 then exactAdd 0x13 {} x.payload.toNat else {}
    let c := syncFold c x.payload x.loc acc
    (s.setCounter i { c with got := c.got ++ [sender], locals := c.locals ++ [{ sender := sender, slot := x }] }).syncAdvance i 40

/-- A value of step `j` from `who`, a neighbour's dimension or a source, folded into the running use (R198, R199). -/
def syncValue (s : State) (i who : Nat) (x : SyncSlot) : State :=
  let c := s.counter i
  if c.heard.contains who then s.assertSrc 0x630
  else if c.op ≠ 8 then
    let c := if x.flags.getLsbD 1 then c else syncFold c x.payload x.loc {}
    s.setCounter i { c with heard := c.heard ++ [who] }
  else if c.trainSeen.contains x.loc.toNat then s.assertSrc 0x630
  else
    let t := c.train + (x.payload.toNat * 2 ^ (64 * x.loc.toNat) : Nat)
    let c := { c with train := t, trainSeen := c.trainSeen ++ [x.loc.toNat] }
    if !x.flags.getLsbD 0 then s.setCounter i c
    else
      let fl := (x.flags.toNat / 4 % 16) * 2
      let c := if x.flags.getLsbD 1 then c else syncFold c 0 0 { v := signed 2176 (unsigned 2176 t), fl := fl }
      s.setCounter i { c with heard := c.heard ++ [who] }

/-- Start the re-run of a collective under the present plan, from the retained local value (R201); a further hole starts it
again. -/
def syncRerun (s : State) (i : Nat) : State :=
  let c := s.counter i
  if c.op = 0 || c.relay then s
  else
    let base : Counter := { c with replay := true, heard := [], val := 0, loc := 0, limbs := 0, flags := 16, empty := true,
                                   train := 0, trainSeen := [], abort := false,
                                   steps := s.diameter c.devMask c.devValue }
    let c := c.locals.foldl (fun c h => syncFold c h.slot.payload h.slot.loc
      (if c.op = 8 then exactAdd 0x13 {} h.slot.payload.toNat else {})) base
    let ready := (syncLocals c).all c.got.contains
    let s := s.setCounter i { c with step := if ready then some 0 else none }
    if ready then (s.syncSendStep i).syncAdvance i 40 else s

/-- Flood ABORT for the use of parity `p` to the neighbours of its sub-cube (R201). -/
def syncAbort (s : State) (i exceptDim : Nat) (p : Bool) : State :=
  let c := s.counter i
  let x : SyncSlot := { syncId := BitVec.ofNat 12 i, op := 0xF, flags := BitVec.ofNat 8 (if p then 128 else 0) }
  let s := s.setCounter i { c with aborted := some (p, s.cubeHoles c.devMask c.devValue) }
  ((s.syncNeighbours c).filter (· ≠ exceptDim)).foldl (fun s d => s.syncSendDim d x) s

/-- Re-run the use that has ended here, from its retained local value, beside the present one (R201). -/
def syncPast (s : State) (i : Nat) : State :=
  let c := s.counter i
  if (s.counter (syncPastOf i)).op ≠ 0 then s
  else
    let mine := fun (h : SyncHeld) => h.slot.flags.getLsbD 6 && h.slot.flags.getLsbD 7 ≠ c.parity
    let s := s.setCounter i { c with heldSlots := c.heldSlots.filter (!mine ·), abortLast := false }
    let s := s.setCounter (syncPastOf i)
      { op := c.op, devMask := c.devMask, devValue := c.devValue, slots := c.slots, presses := c.presses, settle := c.settle,
        parity := !c.parity, locals := c.last, got := syncLocals c, heldSlots := c.heldSlots.filter mine }
    s.syncRerun (syncPastOf i)

/-- ABORT for the use of parity `p` has come over dimension `d`: it is passed on, once for each set of holes, and the
collective is re-run as soon as the HOLE notice is here too (R201, log 122). -/
def syncAborted (s : State) (i d : Nat) (p : Bool) : State :=
  let c := s.counter i
  let holes := s.cubeHoles c.devMask c.devValue
  if c.relay || c.aborted = some (p, holes) then s
  else
    let s := s.syncAbort i d p
    let c := s.counter i
    if p = c.parity then
      if c.replay then s
      else if holes = c.holesAt then s.setCounter i { c with abort := true }
      else s.syncRerun i
    else if !c.ended then s
    else if holes = c.lastHoles then s.setCounter i { c with abortLast := true }
    else s.syncPast i

/-- The dimensions toward which a doubling slot of step `j` that came over dimension `d` is passed on, and whether it is for
this device from a source, found on the paths of the plan (R196, R198). -/
def syncRelay (s : State) (c : Counter) (d j : Nat) : List Nat × Option Nat :=
  let ds := s.freeDims c.devMask
  let n := s.fab.ndim
  let far := s.partner s.own d
  let all := (s.membersOf c.devMask c.devValue).filterMap fun v => (s.sourceOf c.devMask c.devValue ds v j).map fun u => (u, v)
  let through := all.filterMap fun uv =>
    let p := s.pathOf n uv.1 uv.2
    match p.zipIdx.find? fun e => e.1 = s.own && e.2 ≠ 0 && p.getD (e.2 - 1) 0 = far with
    | some e => some (uv, p.getD (e.2 + 1) s.own)
    | none => none
  let mine := (through.find? fun t => t.1.2 = s.own).map fun t => t.1.1
  let on := (through.filter fun t => t.1.2 ≠ s.own).map Prod.snd
  ((List.range n).filter fun e => on.contains (s.partner s.own e), mine)

/-- The counter that takes a slot between devices: the one that re-runs the last use, for a slot of it with REPLAY (R201). -/
def syncTaker (s : State) (i : Nat) (x : SyncSlot) : Nat :=
  if x.flags.getLsbD 6 && x.flags.getLsbD 7 ≠ (s.counter i).parity && (s.counter (syncPastOf i)).op ≠ 0 then syncPastOf i else i

/-- A slot of a step between devices, that came over dimension `d`, is taken by counter `i` (R197, R198, R201). -/
def syncTake (s : State) (i d : Nat) (x : SyncSlot) : State :=
  let c := s.counter i
  let j := x.step.toNat
  match (if syncDoubles c.op then (s.syncRelay c d j).2 else some d) with
    | none => s
    | some who =>
      let begins := c.step.isNone && (syncLocals c).isEmpty && x.flags.getLsbD 7 = c.parity && x.flags.getLsbD 6 = c.replay
      let s := if begins then (s.setCounter i { c with step := some 0 }).syncSendStep i else s
      let c := s.counter i
      if x.flags.getLsbD 7 ≠ c.parity then s.holdSlot i d x
      else if x.flags.getLsbD 6 && !c.replay then s.holdSlot i d x
      else if !x.flags.getLsbD 6 && c.replay then s
      else if !syncDoubles c.op && !(s.syncNeighbours c).contains d then s.assertSrc 0x630
      else match c.step with
        | none => s.holdSlot i d x
        | some k =>
          if k < j then s.holdSlot i d x
          else if j < k then s.assertSrc 0x630
          else (s.syncValue i who x).syncAdvance i 40

/-- A slot between devices arrives over dimension `d`: ABORT, or a value, which a relay passes on (R196, R198, R201). -/
def syncDevice (s : State) (i d : Nat) (x : SyncSlot) : State :=
  let c := s.counter i
  if x.op = 0xF then s.syncAborted i d (x.flags.getLsbD 7)
  else
    let on := if syncDoubles c.op then (s.syncRelay c d x.step.toNat).1 else []
    let s := on.foldl (fun s e => s.syncSendDim e x) s
    if c.relay then s else s.syncTake (s.syncTaker i x) d x

/-- A slot reaches the engine, from a link, a press, or the device itself. -/
def syncArrive (s : State) (sender : Nat) (x : SyncSlot) : State :=
  let i := x.syncId.toNat
  let c := s.counter i
  if x.op = 0 then s
  else if (c.op = 0 && !c.relay) || x.op = 0xD || x.op = 0xE || (x.op ≠ 0xF && x.op.toNat ≠ c.op) then s.assertSrc 0x630
  else if 256 ≤ sender then s.syncLocal i sender x
  else match s.linkDim sender with
    | some d => if s.samePartition s.own (s.partner s.own d) then s.syncDevice i d x else s
    | none => if x.step = 0xFF && x.op ≠ 0xF then s.syncLocal i sender x else s.assertSrc 0x630

/-- Take the held slots of a counter again, in their order (R197). -/
def syncHeld (s : State) (i : Nat) : State :=
  let hs := (s.counter i).heldSlots
  let s := s.setCounter i { s.counter i with heldSlots := [] }
  hs.foldl (fun s h =>
    if h.slot.step = 0xFF then s.syncLocal i h.sender h.slot else s.syncTake i h.sender h.slot) s

/-- Held slots are taken again as long as that moves the counter on. -/
def syncSettle (s : State) (i : Nat) : Nat → State
  | 0 => s
  | n + 1 =>
    let t := s.syncHeld i
    if (t.counter i).heldSlots.length < (s.counter i).heldSlots.length then t.syncSettle i n else t

/-- A slot arrives, with what it sets free; the fenced engine takes none (R23). -/
def syncSlot (s : State) (sender : Nat) (x : SyncSlot) : State :=
  if s.faults.syncFenced then s
  else ((s.syncArrive sender x).syncSettle x.syncId.toNat 64).syncSettle (syncPastOf x.syncId.toNat) 64

/-- The device contributes a value of its own to a settlement identifier: to the present use, or to the next one while it
has contributed to that (R192, R197). -/
def syncOwn (s : State) (i : Nat) (v : BitVec 64) : State :=
  let c := s.counter i
  let next := c.got.contains syncSelf
  s.syncSlot syncSelf { syncId := BitVec.ofNat 12 i, op := BitVec.ofNat 4 c.op, step := 0xFF,
                        flags := if c.parity = next then 0 else 128, payload := v }

/-- The failed device's partner in the first dimension looks for its contributions among the standbys; one that can no
longer be found sets FS 0x620 (R201). -/
def syncStandIn (s : State) (i f : Nat) : State :=
  let c := s.counter i
  if (s.freeDims c.devMask).head?.map (fun d => f ^^^ 2 ^ d) ≠ some s.own then s
  else
    let found := c.standby.filter fun h => h.slot.flags.getLsbD 7 = c.parity
    let full := c.presses = 0 && (members 256 c.slots.toNat).length ≤ found.length
    let s := if full then s else s.assertSrc 0x620
    s.setCounter i { c with locals := c.locals ++ found, standby := c.standby.filter fun h => h.slot.flags.getLsbD 7 ≠ c.parity }

/-- Position `f` has become a hole: counters of its sub-cubes take the new plan, and running collectives are re-run; the
device that detected it floods ABORT for them (R198, R201). -/
def syncHole (s : State) (f : Nat) (detected : Bool) : State :=
  let on := fun (e : Nat × Counter) => e.1 < 4096 && e.2.op ≠ 0 && !e.2.relay && f &&& e.2.devMask = e.2.devValue
  ((s.sync.filter on).map Prod.fst).foldl (fun s i =>
    let c := s.counter i
    let s := s.setCounter i { c with steps := s.diameter c.devMask c.devValue }
    let s := if c.got.isEmpty && c.step.isNone && !c.abort then s
      else
        let s := s.syncStandIn i f
        let s := if detected then s.syncAbort i 18 c.parity else s
        s.syncRerun i
    let s := if (s.counter (syncPastOf i)).op ≠ 0 then s.syncRerun (syncPastOf i)
      else if c.abortLast then s.syncPast i else s
    (s.syncSettle i 64).syncSettle (syncPastOf i) 64) s

end State

/-- SYNC_SLOT_RECEIVE (R196-R198). -/
def execSyncSlotReceive (sender : Fin 320) (slot : SyncSlot) (s : State) : Host.Outcome State Fault Refusal :=
  .next (s.syncSlot sender.val slot)

end Sys2Proof.Machine
end

