-- ==== Sys2Proof/Machine/Vats.lean ====
section
/-!
DEFINITION. Vats and in-network collectives: contributions and their acceptance (R164-R172), the operators on pours
(R173-R180), doubling, halving and direct exchange (R182-R184), the scheduler (R186-R188), taps (R190, R191), settlement and
replay (R192-R195), and the vat scrub (R357).
-/

namespace Sys2Proof.Machine

/-! ### Geometry of a round (R165, R175, R179, R189) -/

/-- Elements in a full pour. -/
def pourElems (pourBytes op f group : Nat) : Nat := pourBytes * 8 / elemBits op f group

/-- Where a pour lies: its segment, the segment's first element in the round, its own first element and their number. -/
structure Geo where
  idx : Nat
  seg : SegP
  first : Nat
  elems : Nat
  deriving DecidableEq, Repr

/-- Pours of a segment. -/
def segPours (pourBytes group : Nat) (g : SegP) : Nat :=
  ceilDiv g.count.toNat (pourElems pourBytes g.op.toNat g.format.toNat group)

/-- Find pour `p` among the segments: segment `i` follows segment `i − 1` (R189). -/
def geoWalk (pourBytes group : Nat) : List SegP → Nat → Nat → Nat → Option Geo
  | [], _, _, _ => none
  | g :: gs, i, el, p =>
    let n := segPours pourBytes group g
    let e := pourElems pourBytes g.op.toNat g.format.toNat group
    if p < n then some { idx := i, seg := g, first := el + p * e, elems := min e (g.count.toNat - p * e) }
    else geoWalk pourBytes group gs (i + 1) (el + g.count.toNat) (p - n)

def geoOf (c : Contract) (p : Nat) : Option Geo := geoWalk c.pourBytes c.par.group.toNat c.segs 0 0 p

/-- Pours in a round. -/
def roundPours (c : Contract) : Nat := (c.segs.map (segPours c.pourBytes c.par.group.toNat)).sum

/-- Exact accumulation applies to SUM in IEEE and LG formats (R173). -/
def exactSeg (g : SegP) : Bool := g.acc && g.op = 1 && (fmtLg g.format.toNat || fmtIeee g.format.toNat)

/-- The order of contributions does not matter (R173). -/
def orderFree (g : SegP) : Bool :=
  let op := g.op.toNat
  (3 ≤ op && op ≤ 9) || op = 0xB || (op = 1 && (fmtInt g.format.toNat || fmtAcc g.format.toNat))

/-- Bytes of a contract's decant image: the vat's metadata and the accumulators of its WINDOW pour slots (R187). -/
def imageBytes (c : Contract) : Nat :=
  let slot := fun (g : SegP) =>
    if exactSeg g then pourElems c.pourBytes g.op.toNat g.format.toNat c.par.group.toNat * (exactBits g.format.toNat / 8)
    else c.pourBytes
  32768 + c.window * (c.segs.map slot).foldl max 0

/-- Participants of the contract on a device, in local index order (R164). -/
def localParts (c : Contract) : List Nat := members 256 c.par.slots.toNat ++ (members 64 c.par.presses.toNat).map (· + 256)

/-! ### Partials and their combination (R176-R180) -/

/-- What one side of a combination holds: packed data, or exact accumulators. -/
structure Part where
  data : List Byte := []
  exact : List (Int × Nat) := []
  empty : Bool := true
  ieee : Nat := 0
  saturated : Bool := false
  poison : Bool := false
  replay : Bool := false
  missing : Bool := false
  deriving DecidableEq, Repr

/-- Some ACC word of the data is saturated (R59). -/
def accSaturated (f n : Nat) (bs : List Byte) : Bool :=
  fmtAcc f && (unpackElems f bs n).any fun c => c = 2 ^ (fmtBits f - 1) - 1 || c = 2 ^ (fmtBits f - 1)

/-- Bytes of an element of an exact partial: its accumulator and a byte of R55 flags (log 31). -/
def exactSize (f : Nat) : Nat := exactBits f / 8 + 1

/-- Exact accumulators in a partial (log 31). -/
def exactBytes (f : Nat) (xs : List (Int × Nat)) : List Byte :=
  xs.flatMap fun x => leBytes (exactBits f / 8) (unsigned (exactBits f) x.1) ++ leBytes 1 x.2

def exactParse (f n : Nat) (bs : List Byte) : List (Int × Nat) :=
  let w := exactBits f / 8
  (List.range n).map fun i =>
    let b := bs.drop (i * (w + 1))
    (signed (exactBits f) (leNat (b.take w)), leNat ((b.drop w).take 1))

/-- The flags that PHASE 0 data of an exact segment raises as it is read: a signalling NaN is invalid (R41). -/
def exactDataFlags (f n : Nat) (bs : List Byte) : Nat :=
  (unpackElems f bs n).foldl (fun a c => flOr a (exactAddFlags f {} c)) 0

/-- What a contribution brings: PHASE 0 data enters exact accumulators (R58), a gather block is a finished result. -/
def partOf (g : Geo) (x : ContribP) : Part :=
  let f := g.seg.format.toNat
  let base : Part := { ieee := x.ieee.toNat, saturated := x.saturated, poison := x.poison, missing := x.missing,
                       replay := x.replay && x.phase ≠ 0 }
  if x.empty then base
  else if exactSeg g.seg && x.phase ≠ 3 then
    if x.phase = 0 then
      { base with exact := (unpackElems f x.data g.elems).map fun c => let a := exactAdd f {} c; (a.v, a.fl)
                  ieee := flOr base.ieee (exactDataFlags f g.elems x.data % 32), empty := false }
    else { base with exact := exactParse f g.elems x.data, empty := false }
  else { base with data := x.data, empty := false, saturated := x.saturated || accSaturated f g.elems x.data }

/-- One LSE group combined with another (R179). -/
def lseMerge (f group : Nat) (l r : List Byte) : List Byte × Nat :=
  let w := fun (b : List Byte) (o : Nat) => leNat ((b.drop o).take 4)
  let nothing := fun (b : List Byte) => decodeVal 0x12 (w b 0) = .inf true && (w b 4) % 2 ^ 31 = 0
  if nothing l then (r, 0)
  else if nothing r then (l, 0)
  else
    let m := elemMinMax 0x12 true (w l 0) (w r 0)
    let scale := fun (b : List Byte) =>
      let d := elemSub 0x12 false (w b 0) m.1
      let e := elemUnary 6 0x12 d.1
      let a := elemMul 0x12 false (w b 4) e.1
      (a.1, flOr d.2 (flOr e.2 a.2))
    let a1 := scale l
    let a2 := scale r
    let sm := elemAdd 0x12 false a1.1 a2.1
    let os := (List.range group).map fun i =>
      let elem := fun (b : List Byte) => decodeVal f (getElem f (b.drop 8) i)
      let lin32 := fun (b : List Byte) => (encodeVal 0x12 (elem b).linear).1
      let bad := if (elem l).signalling || (elem r).signalling then flInvalid else 0
      let p := elemMul 0x12 false (lin32 l) a1.1
      let q := elemMul 0x12 false (lin32 r) a2.1
      let t := elemAdd 0x12 false p.1 q.1
      let d := elemDiv 0x12 false t.1 sm.1
      let c := encodeVal f (decodeVal 0x12 d.1)
      (c.1, flOr bad (flOr p.2 (flOr q.2 (flOr t.2 (flOr d.2 c.2)))))
    let body := leBytes 4 m.1 ++ leBytes 4 sm.1 ++ packElems f (os.map Prod.fst)
    let len := elemBits 0xA f group / 8
    (body ++ List.replicate (len - body.length) 0,
     flOr m.2 (flOr a1.2 (flOr a2.2 (flOr sm.2 (os.foldl (fun a o => flOr a o.2) 0)))))

/-- The Gumbel key of an element at position `q` (R178). -/
def gumbelOf (c : Contract) (round f q : Nat) (z : Nat × Nat) : Nat :=
  let ctr := (c.par.stepBase.toNat + round) % 2 ^ 64 * 2 ^ 64 + q % 2 ^ 32 * 2 ^ 32 + z.2
  gumbelKey f z.1 c.par.tinv.toNat ((tcg c.par.seed.toNat ctr).getD 0 0).toNat

/-- One of two GUMBEL elements: the key decides by the rules of ARGMAX, the element passes on unchanged (R43, R178). -/
def gumbelChoose (c : Contract) (round f q : Nat) (a b : Nat × Nat) : (Nat × Nat) × Nat :=
  let ka := gumbelOf c round f q a
  let kb := gumbelOf c round f q b
  let pick := if a.2 ≤ b.2 then (if argBeats 0x12 true ka kb then b else a) else (if argBeats 0x12 true kb ka then a else b)
  let fl := if (decodeVal f a.1).signalling || (decodeVal f b.1).signalling then flInvalid else 0
  ((if (decodeVal f pick.1).isNan then canonicalNan f else pick.1, pick.2), fl)

/-- Combine packed data, the left operand first: the data, the flags, and whether an element saturated (R57, R59, R173). -/
def combineData (c : Contract) (round : Nat) (g : Geo) (l r : List Byte) : List Byte × Nat × Bool :=
  let op := g.seg.op.toNat
  let f := g.seg.format.toNat
  let n := g.elems
  if op = 0xA then
    let len := elemBits op f c.par.group.toNat / 8
    let rs := (List.range n).map fun i => lseMerge f c.par.group.toNat ((l.drop (i * len)).take len) ((r.drop (i * len)).take len)
    (rs.flatMap Prod.fst, rs.foldl (fun a x => flOr a x.2) 0, false)
  else if op = 5 || op = 6 || op = 0xB then
    let rs := (List.range n).map fun i =>
      if op = 0xB then gumbelChoose c round f (g.first + i) (getArg f l i) (getArg f r i)
      else argChoose f (op = 6) (getArg f l i) (getArg f r i)
    (rs.flatMap fun x => argBytes f x.1, rs.foldl (fun a x => flOr a x.2) 0, false)
  else if fmtAcc f then
    let rs := (List.range n).map fun i => accCombine f (getElem f l i) (getElem f r i)
    (packElems f (rs.map Prod.fst), 0, rs.any Prod.snd)
  else
    let rs := (List.range n).map fun i =>
      let a := getElem f l i
      let b := getElem f r i
      if op = 1 then elemAdd f false a b
      else if op = 2 then elemMul f false a b
      else if op = 3 || op = 4 then elemMinMax f (op = 4) a b
      else (elemLogic (op - 7) a b, 0)
    (packElems f (rs.map Prod.fst), rs.foldl (fun a x => flOr a x.2) 0, false)

/-- Combine two parts: EMPTY yields the other one unchanged (R177); the Boolean says that a NaN arose (R42). -/
def joinPart (c : Contract) (round : Nat) (g : Geo) (l r : Part) : Part × Bool :=
  let marks := fun (p : Part) => { p with missing := l.missing || r.missing, replay := l.replay || r.replay }
  if r.empty then (marks l, false)
  else if l.empty then (marks r, false)
  else
    let base : Part := marks { empty := false, ieee := flOr l.ieee r.ieee, saturated := l.saturated || r.saturated,
                               poison := l.poison || r.poison }
    if exactSeg g.seg then
      let rs := (l.exact.zip r.exact).map fun e =>
        let a : Acc := { v := e.1.1, fl := e.1.2 }
        let b : Acc := { v := e.2.1, fl := e.2.2 }
        let m := exactMerge a b
        ((m.v, m.fl), exactMergeFlags a b)
      let fl := rs.foldl (fun a x => flOr a x.2) 0
      ({ base with exact := rs.map Prod.fst, ieee := flOr base.ieee (fl % 32) }, bit fl 5)
    else
      let d := combineData c round g l.data r.data
      ({ base with data := d.1, ieee := flOr base.ieee (d.2.1 % 32), saturated := base.saturated || d.2.2 }, bit d.2.1 5)

/-- The finished data of a part: exact accumulators are rounded once (R58). -/
def finishPart (g : Geo) (p : Part) : Part :=
  if exactSeg g.seg && !p.empty && p.data.isEmpty then
    let rs := p.exact.map fun x => exactRound g.seg.format.toNat { v := x.1, fl := x.2 }
    { p with data := packElems g.seg.format.toNat (rs.map Prod.fst), exact := [],
             ieee := flOr p.ieee (rs.foldl (fun a x => flOr a x.2) 0 % 32) }
  else p

def pourPart (x : Pour) : Part :=
  { data := x.data, exact := x.exact, empty := x.empty, ieee := x.ieee.toNat, saturated := x.saturated, poison := x.poison,
    replay := x.replay, missing := x.missing }

def withPart (x : Pour) (p : Part) : Pour :=
  { x with data := p.data, exact := p.exact, empty := p.empty, ieee := BitVec.ofNat 5 p.ieee, saturated := p.saturated,
           poison := p.poison, replay := p.replay, missing := p.missing }

/-! ### Packets (R169) -/

/-- The CONTRIB or RESULT packet of a pour. -/
def pourPacket (result : Bool) (tc : Nat) (dst src : BitVec 26) (x : ContribP) : Packet :=
  let flags := b01 x.empty + 2 * b01 x.replay + 4 * b01 x.missing + 8 * x.ieee.toNat
  { ty := if result then 0x05 else 0x04, tc := BitVec.ofNat 3 tc, devt := !result, dst := dst, src := src,
    tspec := leBytes 4 x.ckey.toNat ++ leBytes 2 x.pour.toNat
      ++ leBytes 2 (x.contributor.toNat + x.seg.toNat * 2 ^ 9 + x.phase.toNat * 2 ^ 13)
      ++ [x.step, BitVec.ofNat 8 flags] ++ leBytes 2 x.elems.toNat ++ leBytes 2 x.round.toNat
      ++ [x.gen, BitVec.ofNat 8 (b01 x.saturated + 2 * b01 x.poison)]
    payload := x.data ++ List.replicate (ceilDiv x.data.length 16 * 16 - x.data.length) 0 }

/-- The contribution that a CONTRIB packet carries. -/
def contribOf (p : Packet) (chan : Option (Nat × Nat)) : ContribP :=
  let w := tsp p 22 2
  let fl := tsp p 25 1
  { ckey := BitVec.ofNat 32 (tsp p 16 4), pour := BitVec.ofNat 16 (tsp p 20 2), contributor := BitVec.ofNat 9 w,
    seg := BitVec.ofNat 4 (w / 2 ^ 9), phase := BitVec.ofNat 3 (w / 2 ^ 13), step := BitVec.ofNat 8 (tsp p 24 1),
    empty := bit fl 0, replay := bit fl 1, missing := bit fl 2, ieee := BitVec.ofNat 5 (fl / 8),
    elems := BitVec.ofNat 16 (tsp p 26 2), round := BitVec.ofNat 16 (tsp p 28 2), gen := BitVec.ofNat 8 (tsp p 30 1),
    saturated := bit (tsp p 31 1) 0, poison := bit (tsp p 31 1) 1, data := p.payload, chan := chan }

/-- What a pour holds, as a partial of a phase and step, or as a RESULT. -/
def pourContrib (c : Contract) (round p : Nat) (g : Geo) (x : Part) (phase step : Nat) : ContribP :=
  let f := g.seg.format.toNat
  { ckey := c.par.ckey, pour := BitVec.ofNat 16 p, contributor := 0, seg := BitVec.ofNat 4 g.idx,
    phase := BitVec.ofNat 3 phase, step := BitVec.ofNat 8 step, empty := x.empty, replay := false, missing := x.missing,
    ieee := BitVec.ofNat 5 x.ieee, elems := BitVec.ofNat 16 g.elems, round := BitVec.ofNat 16 round,
    gen := BitVec.ofNat 8 c.gen, saturated := x.saturated, poison := x.poison,
    data := if x.empty then [] else if exactSeg g.seg && x.data.isEmpty then exactBytes f x.exact else x.data, chan := none }

/-- The packets of a partial: an exact one that is longer than 4,064 bytes takes several, in order (R169, log 31). -/
def partialPieces (y : ContribP) : List ContribP :=
  if y.data.length ≤ 4064 then [y]
  else (List.range (ceilDiv y.data.length 4064)).map fun i => { y with data := (y.data.drop (i * 4064)).take 4064 }

/-- The bit of a contribution in the contributor bitmap (R171). -/
def contribBit (x : ContribP) : Nat :=
  match x.phase.toNat with
  | 0 => x.contributor.toNat
  | 1 => 320 + x.step.toNat
  | 2 => 338 + x.step.toNat
  | _ => 356 + x.step.toNat

/-- The step at which halving sends pour `p` away, for device `u` over dimensions `ds` (R184): the number of steps when it
keeps the pour to the end. -/
def halvingLeave (u p : Nat) : List Nat → Nat → Nat → Nat → Nat
  | [], j, _, _ => j
  | d :: ds, j, lo, n =>
    let low := ceilDiv n 2
    let inLow := p < lo + low
    if inLow = bit u d then j
    else if inLow then halvingLeave u p ds (j + 1) lo low
    else halvingLeave u p ds (j + 1) (lo + low) (n - low)

namespace State

/-! ### Contracts -/

def roundOf (c : Contract) (r : Nat) : Option Round := c.rounds.find? fun x => x.no = r

def pourOf (c : Contract) (r p : Nat) : Pour := ((roundOf c r).map fun x => look {} x.pours p).getD {}

def mapRound (c : Contract) (r : Nat) (f : Round → Round) : Contract :=
  { c with rounds := replaceFirst (fun x => decide (x.no = r)) f c.rounds }

def setPour (s : State) (key r p : Nat) (x : Pour) : State :=
  match s.contract key with
  | none => s
  | some c => s.setContract key (some (mapRound c r fun o => { o with pours := put {} o.pours p x }))

/-- Pours in flight. -/
def inFlight (c : Contract) : Nat := (c.rounds.map fun r => (r.pours.filter fun p => !p.2.done).length).sum

/-- Its state occupies a vat, and is not being moved (R186, R187). -/
def resident (s : State) (c : Contract) : Bool :=
  match c.vat with
  | some v => !(s.vat v).decanting && (s.vat v).refilling.isNone
  | none => false

/-- The vat's occupancy watermark and its last activity (R160, R186, R188). -/
def vatTouch (s : State) (key : Nat) : State :=
  match s.contract key with
  | none => s
  | some c => match c.vat with
    | none => s
    | some v => (s.setVat v { s.vat v with idleSince := s.mono }).markUpdate (2057 + v) (inFlight c)

/-- Put a contract among the ready ones (R186). -/
def makeReady (s : State) (key : Nat) : State :=
  match s.contract key with
  | none => s
  | some c =>
    if c.vat.isSome || c.ready.isSome then s
    else
      let s := s.setContract key (some { c with ready := some s.vats.order })
      { s with vats := { s.vats with order := s.vats.order + 1 } }

/-! ### Acceptance (R170, R171) -/

/-- The unit is finished with a contribution that it does not keep. -/
def contribDone (s : State) (x : ContribP) : State :=
  match x.chan with
  | some (f, q) => s.chanDelivered f q
  | none => s

/-- A contribution to no contract: UNREACHABLE to its source (R167, R193). -/
def contribGone (s : State) (x : ContribP) : State :=
  let p := x.chan.bind fun fq => (look none (s.egCh fq.1).handed fq.2).bind fun c => (s.cask c).pkt
  let s := match p with
    | some p => s.nackEndpoint p 4
    | none => s
  s.contribDone x

/-- Accept a packet while its cask stays held: the cask (R118, R180). -/
def chanKeep (s : State) (x : ContribP) : Option Nat × State :=
  match x.chan with
  | none => (none, s)
  | some (f, q) =>
    let h := s.egCh f
    (look none h.handed q, (s.setEgCh f { h with handed := put none h.handed q none }).chanDelivered f q)

/-- A CONTRIB that is not of the contract (R171): its participant, its SEG, its step, its ELEMS. -/
def contribBad (s : State) (c : Contract) (x : ContribP) : Bool :=
  match geoOf c x.pour.toNat with
  | none => true
  | some g =>
    g.idx ≠ x.seg.toNat || (!x.empty && x.elems.toNat ≠ g.elems) ||
    (if x.phase = 0 then !(localParts c).contains x.contributor.toNat
     else 3 < x.phase.toNat || !(s.freeDims c.par.devMask.toNat).contains x.step.toNat)

def countDuplicate (s : State) (c : Contract) (x : ContribP) : State :=
  (s.setContract x.ckey.toNat (some { c with duplicates := c.duplicates + 1 })).contribDone x

/-- Reserve the cask of a pour's output on the VAT account (R172). -/
def reserveOut (s : State) : Option Nat × State :=
  match s.admitTest 2048 4096 with
  | .cask c => (some c, s.allocCask c 2048 none 1 none)
  | .noCask => (none, s.assertSrc 0x100)
  | .ceiling => (none, s)
  | .shared => (none, s.assertSrc 0x101)

/-- Lowest incomplete pour of the unsettled rounds, counted from the first of them. -/
def lowestOpen (c : Contract) : Nat :=
  let n := roundPours c
  let done := fun (i : Nat) => (pourOf c ((c.nextRound + i / n) % 65536) (i % n)).done
  ((List.range (2 * n)).find? fun i => !done i).getD (2 * n)

/-- A packet of an exact partial, which may be one of several (R169, log 31). -/
def exactPiece (g : Geo) (x : ContribP) : Bool :=
  exactSeg g.seg && !x.empty && (x.phase = 1 || x.phase = 2)

/-- Accept a contribution into its pour; the bitmap's bit is set once the whole partial is here. -/
def contribAccept (s : State) (c : Contract) (g : Geo) (x : ContribP) (out : Option Nat) : State :=
  let key := x.ckey.toNat
  let rno := x.round.toNat
  let c := if (roundOf c rno).isSome then c else { c with rounds := c.rounds ++ [{ no := rno }] }
  let c := mapRound c rno fun r =>
    let r := if x.phase = 0 && !x.replay then { r with tReady := s.ns } else r
    if x.phase = 0 && c.par.replay ≠ 0 then { r with kept := r.kept ++ [{ x with chan := none }] } else r
  let s := if x.phase = 0 && c.par.replay ≠ 0 then s.setRetained (s.cel.retained + x.data.length) else s
  let s := s.setContract key (some c)
  let o := pourOf c rno x.pour.toNat
  let b := contribBit x
  let o := { o with elems := g.elems, out := o.out.orElse fun _ => out }
  let before := ((look none o.inputs b).map ContribP.data).getD []
  let data := if exactPiece g x then (before ++ x.data).take (g.elems * exactSize g.seg.format.toNat) else x.data
  let o := { o with inputs := put none o.inputs b (some { x with chan := none, data := data }) }
  if exactPiece g x && data.length < g.elems * exactSize g.seg.format.toNat then
    ((s.contribDone x).setPour key rno x.pour.toNat o).vatTouch key
  else
    let k := s.chanKeep x
    let o := { o with bitmap := o.bitmap ||| BitVec.ofNat 384 (2 ^ b), casks := put none o.casks b k.1 }
    (k.2.setPour key rno x.pour.toNat o).vatTouch key

/-- Try a contribution (R167, R170, R171): true when it is accepted or discarded, false when it stays pending. -/
def contribTry (s : State) (x : ContribP) : Bool × State :=
  let key := x.ckey.toNat
  match s.contract key with
  | none => (true, (s.contribGone x).assertSrc 0x600)
  | some c =>
    if c.failed then (true, s.contribGone x)
    else if s.contribBad c x then (true, (s.contribDone x).assertSrc 0x601)
    else
      let old := (c.gen + 256 - x.gen.toNat) % 256
      let d := (x.round.toNat + 65536 - c.nextRound) % 65536
      let o := pourOf c x.round.toNat x.pour.toNat
      let b := contribBit x
      let seen := o.bitmap.getLsbD b && (look none o.inputs b).all fun y => x.phase = 0 || y.gen = x.gen
      if (1 ≤ old && old < 128) || 32768 ≤ d || o.done || seen then (true, s.countDuplicate c x)
      else if c.vat.isNone then (false, s.makeReady key)
      else if !s.resident c || 2 ≤ d || (c.closing && (roundOf c x.round.toNat).isNone) then (false, s)
      else
        match geoOf c x.pour.toNat with
        | none => (true, s)
        | some g =>
          if !(o.bitmap = 0) || o.out.isSome || !o.inputs.isEmpty then (true, s.contribAccept c g x none)
          else if lowestOpen c + c.window ≤ d * roundPours c + x.pour.toNat then (false, s)
          else if c.par.tapMode = 1 then (true, s.contribAccept c g x none)
          else
            let r := s.reserveOut
            match r.1 with
            | none => (false, r.2)
            | some k => (true, r.2.contribAccept c g x (some k))

/-- Try the pending contributions of a contract again, in their order. -/
def retryPending (s : State) (key : Nat) : State :=
  match s.contract key with
  | none => s
  | some c =>
    let s := s.setContract key (some { c with pending := [] })
    c.pending.foldl (fun s e =>
      let r := s.contribTry e.1
      if r.1 then r.2
      else match r.2.contract key with
        | some c => r.2.setContract key (some { c with pending := c.pending ++ [e] })
        | none => r.2) s

/-! ### Combining and sending (R172, R180-R184) -/

/-- Release the casks of inputs that have been combined. -/
def dropInputs (s : State) (x : Pour) (bits : List Nat) : Pour × State :=
  let s := (bits.filterMap fun b => look none x.casks b).foldl (fun s k => s.decRef k) s
  ({ x with inputs := x.inputs.filter fun e => !bits.contains e.1, casks := x.casks.filter fun e => !bits.contains e.1 }, s)

/-- The vat as the unit of FS 0x610 and FS 0x611 (R202, R349). -/
def vatUnit (v : Option Nat) : FUnit := (v.map FUnit.vat).getD .none

/-- A corrected error of the vat store is counted (R195). -/
def vatCorrected (s : State) (v : Option Nat) : State :=
  State.assertIn { s with vats := { s.vats with corrected := s.vats.corrected + 1 } } 0x610 (vatUnit v)

/-- Poison pour `p` of a round, where it exists (R195). -/
def poisonPour (s : State) (key r p : Nat) : State :=
  match s.contract key with
  | none => s
  | some c =>
    let hit := fun (e : Nat × Pour) => if e.1 = p && !e.2.done then (e.1, { e.2 with poison := true }) else e
    s.setContract key (some (mapRound c r fun o => { o with pours := o.pours.map hit }))

/-- Accumulator words that a combine of a pour writes may meet a running injection: an uncorrectable error poisons the
pour, and containment of the vat may then take it away (R195, R356). -/
def vatInject (s : State) (key r p : Nat) (v : Option Nat) (words : Nat) : State :=
  let i := s.injTakeN 0x43 0 words
  match i.1 with
  | none => s
  | some true => (i.2.poisonPour key r p).assertIn 0x611 (vatUnit v)
  | some false => i.2.vatCorrected v

/-- Fold the local contributions that may be folded now (R180): the pour, the bits folded, whether a NaN arose. -/
def foldLocal (c : Contract) (round : Nat) (g : Geo) (x : Pour) : Pour × List Nat × Bool :=
  let ps := localParts c
  let ready := if orderFree g.seg || exactSeg g.seg then (x.inputs.map Prod.fst).filter (· < 320)
    else (ps.drop x.folded).takeWhile fun i => (look none x.inputs i).isSome
  let r := ready.foldl (fun (a : Part × Bool) i =>
    match look none x.inputs i with
    | some y => let j := joinPart c round g a.1 (partOf g y); (j.1, a.2 || j.2)
    | none => a) (pourPart x, false)
  let n := x.folded + ready.length
  ({ withPart x r.1 with folded := n, localDone := decide (ps.length ≤ n) }, ready, r.2)

/-- The fold of the contributions that a failed device's participants had mirrored here, and whether one is absent (R193). -/
def mirrorFold (s : State) (c : Contract) (round p : Nat) (g : Geo) (f : Nat) : Part :=
  let ms := (look [] s.fab.mirrors ((f + 1) * 2 ^ 18 + f)).filter fun m =>
    m.ty = 0x04 && tsp m 16 4 = c.par.ckey.toNat && tsp m 20 2 = p && tsp m 28 2 = round && tsp m 22 2 / 2 ^ 13 = 0
  let got := (localParts c).map fun i => (ms.map fun m => contribOf m none).find? fun x => x.contributor.toNat = i
  let r := got.foldl (fun (a : Part) x => match x with
    | some x => (joinPart c round g a (partOf g x)).1
    | none => { a with missing := true }) {}
  r

/-- What stands in for an opposite sub-cube without a present member (R183, R193): EMPTY, or the mirrored contributions of a
failed partner; MISSING when a position of it was present at open. -/
def standIn (s : State) (c : Contract) (round p : Nat) (g : Geo) (ds : List Nat) (j : Nat) : Part :=
  let t := s.own ^^^ 2 ^ ds.getD j 0
  let low := ((ds.take j).map fun d => 2 ^ d).sum
  let fresh := (List.range (2 ^ s.fab.ndim)).any fun w =>
    (w ^^^ t) &&& (2 ^ 18 - 1 - low) = 0 && !c.holes.contains w
  if j = 0 && !c.holes.contains t then s.mirrorFold c round p g t else { missing := fresh }

/-- Record a partial in contract retention (R192), in place of an earlier copy of it. -/
def keepPartial (s : State) (key r : Nat) (x : ContribP) : State :=
  match s.contract key with
  | none => s
  | some c =>
    if c.par.replay = 0 then s
    else
      let same := fun (y : ContribP) => y.phase = x.phase && y.pour = x.pour && y.step = x.step
      let old := ((roundOf c r).map fun o => ((o.kept.filter same).map fun y => y.data.length).sum).getD 0
      let s := s.setContract key (some (mapRound c r fun o => { o with kept := (o.kept.filter fun y => !same y) ++ [x] }))
      s.setRetained (s.cel.retained + x.data.length - old)

/-- The reserved cask is free for a further use; one that has been retired is replaced. -/
def outFree (s : State) (x : Pour) : Bool :=
  match x.out with
  | some k => (s.cask k).refs = 1 && !(s.cask k).retired
  | none => true

/-- Send one partial to device `v`, through the reserved cask (R172); of a tap-only contract through a cask of its own. -/
def sendPartial (s : State) (c : Contract) (x : Pour) (v : Nat) (y : ContribP) : State :=
  let p := pourPacket false c.par.tc.toNat (BitVec.ofNat 26 (v * 256)) s.ownAddr y
  match x.out with
  | none => s.originate (2 ^ 20) p
  | some k =>
    let s := (s.setCask k { s.cask k with refs := 2, pkt := some p, stamp := s.mono, firstLeft := none }).pbInject k
    s.admitReliable k p none

/-- The receivers of a RESULT on this device, by slot (R163). -/
def resultSlots (s : State) (c : Contract) : List Nat :=
  if c.par.receive = 0 then members 256 c.par.slots.toNat
  else if c.par.receive = 1 && c.par.root.toNat / 256 = s.own then [c.par.root.toNat % 256]
  else []

/-- The mirrors of a settled round's dual-homed participants are freed (R125, R192). -/
def dropMirrors (s : State) (key r : Nat) : State :=
  let of := fun (m : Packet) => m.ty = 0x04 && tsp m 16 4 = key && tsp m 28 2 = r
  let gone := (s.fab.mirrors.map fun e => ((e.2.filter of).map storedLen).sum).sum
  let left := (s.fab.mirrors.map fun e => (e.1, e.2.filter (!of ·))).filter fun e => !e.2.isEmpty
  if gone = 0 then s else (s.setFab { s.fab with mirrors := left }).setRetained (s.cel.retained - gone)

/-- Settle round `r` of a contract with the global T_READY `t`: its retention is freed, and the deadline is checked (R168,
R192). -/
def settleRound (s : State) (key r t : Nat) : State :=
  match s.contract key with
  | none => s
  | some c =>
    match roundOf c r with
    | none => s
    | some o =>
      let late := c.par.deadline ≠ 0 && t + c.par.deadline.toNat * 10 < o.lastOut
      let bytes := (o.kept.map fun k => k.data.length).sum
      let s := s.setContract key (some { c with
        rounds := c.rounds.filter fun x => x.no ≠ r, nextRound := (c.nextRound + 1) % 65536 })
      let s := if bytes = 0 then s else s.freeRetained bytes
      let s := s.dropMirrors key r
      let s := if late then s.assertSrc 0x608 else s
      s.retryPending key

/-- Enter settlement with every complete round whose predecessors have entered it (R192); without a settlement identifier
the round settles at once. -/
def enterSettlement (s : State) (key : Nat) : State :=
  [0, 1].foldl (fun s _ =>
    match s.contract key with
    | none => s
    | some c =>
      let n := roundPours c
      let complete := fun (o : Round) => (o.pours.filter fun p => p.2.done).length = n
      let r := if ((roundOf c c.nextRound).map Round.settling).getD false then (c.nextRound + 1) % 65536 else c.nextRound
      match roundOf c r with
      | none => s
      | some o =>
        if o.settling || !complete o then s
        else
          let s := s.setContract key (some (mapRound c r fun o => { o with settling := true }))
          match c.settleId with
          | some i => s.syncOwn i (BitVec.ofNat 64 o.tReady)
          | none => s.settleRound key r o.tReady) s

/-- The RESULT of a formed pour goes to its receivers, and the pour is complete (R163, R169, R172, R193). It carries REPLAY
where it may differ in rounding between devices (R194). -/
def emitResult (s : State) (c : Contract) (g : Geo) (r p : Nat) (x : Pour) : State :=
  let key := c.par.ckey.toNat
  let sends := !x.again && c.par.tapMode ≠ 1 && c.par.receive ≠ 2
  let slots := if sends then s.resultSlots c else []
  let y := pourContrib c r p g (pourPart x) 0 0
  let y := { y with replay := x.replay && (x.missing || (c.split && !(orderFree g.seg || exactSeg g.seg))) }
  let pkt := pourPacket true c.par.tc.toNat s.ownAddr s.ownAddr y
  let s := match x.out with
    | none => s
    | some k =>
      if slots.isEmpty then s.decRef k
      else ((s.setCask k { s.cask k with pkt := some pkt, firstLeft := none }).pbInject k).sendCopies k pkt slots
  let s := s.setPour key r p { bitmap := x.bitmap, done := true, elems := x.elems }
  let s := match s.contract key with
    | some c => s.setContract key (some { c with pours := c.pours + 1, quanta := c.quanta + 1 })
    | none => s
  let s := if x.missing then s.assertSrc 0x620 else s
  ((s.vatTouch key).enterSettlement key).retryPending key

/-- One thing a pour can do now: send its next partial, fold local contributions, combine a step, or emit its RESULT. -/
def pourStep (s : State) (key r p : Nat) : Option State :=
  match s.contract key with
  | none => none
  | some c =>
    match geoOf c p with
    | none => none
    | some g =>
      let x := pourOf c r p
      let ds := s.freeDims c.par.devMask.toNat
      let k := ds.length
      let halving := c.algo = 3
      let leave := if halving then halvingLeave s.own p ds 0 0 (roundPours c) else k
      let await := fun (b : Nat) => look none x.inputs b
      let words := ceilDiv (packedLen g.seg.format.toNat g.elems) 8
      let combined := fun (s : State) (x : Pour) (nan : Bool) =>
        let s := (s.setPour key r p x).vatInject key r p c.vat words
        if nan then s.assertSrc 0x4F1 else s
      let formed := fun (x : Pour) =>
        let back := (List.range (min leave k)).reverse
        { withPart x (finishPart g (pourPart x)) with
          formed := true, formedAt := s.mono, tapLeft := if c.par.tapMode = 0 || x.again then 0 else c.par.tapPresses,
          targets := if halving then back.map fun j => (s.own ^^^ 2 ^ ds.getD j 0, 3, ds.getD j 0) else [] }
      if x.done || x.bitmap = 0 || !s.resident c then none
      else
        match x.targets with
        | (v, ph, st) :: rest =>
          let all := partialPieces (pourContrib c r p g (pourPart x) ph st)
          let y := all.getD x.piece (pourContrib c r p g (pourPart x) ph st)
          if !s.outFree x || s.ingressWait (pourPacket false 0 (BitVec.ofNat 26 (v * 256)) s.ownAddr y) true then none
          else
            let x' := if x.piece + 1 < all.length then { x with piece := x.piece + 1 } else { x with targets := rest, piece := 0 }
            some ((s.setPour key r p x').sendPartial c x v y)
        | [] =>
          let await := fun (b : Nat) => if x.bitmap.getLsbD b then await b else none
          if x.formed then
            if x.tapLeft ≠ 0 || !s.outFree x then none else some (s.emitResult c g r p x)
          else if !x.localDone then
            let f := foldLocal c r g x
            if f.2.1.isEmpty && !f.1.localDone then none
            else
              let d := s.dropInputs f.1 f.2.1
              some (combined d.2 d.1 f.2.2)
          else if x.step = k then some (s.setPour key r p (formed x))
          else
            let dim := ds.getD x.step 0
            let join := fun (other : Part) (b : Nat) =>
              let o := joinPart c r g (if bit s.own dim then other else pourPart x) (if bit s.own dim then pourPart x else other)
              let d := s.dropInputs { withPart x o.1 with step := x.step + 1 } [b]
              some (combined d.2 d.1 o.2)
            if halving && x.step = leave then
              let t := s.own ^^^ 2 ^ dim
              if x.sent ≤ x.step then
                some ((s.setPour key r p { x with sent := x.step + 1, targets := [(t, 2, dim)] }).keepPartial key r
                  (pourContrib c r p g (pourPart x) 2 dim))
              else match await (356 + dim) with
                | none => none
                | some y =>
                  let d := s.dropInputs (formed (withPart x (partOf g y))) [356 + dim]
                  some (d.2.setPour key r p d.1)
            else if halving then
              match await (338 + dim) with
              | none => none
              | some y => join (partOf g y) (338 + dim)
            else if x.sent ≤ x.step then
              let tgts := s.targetsOf c.par.devMask.toNat c.par.devValue.toNat ds s.own x.step
              some ((s.setPour key r p { x with sent := x.step + 1, targets := tgts.map fun v => (v, 1, dim) }).keepPartial key r
                (pourContrib c r p g (pourPart x) 1 dim))
            else match await (320 + dim) with
              | some y => join (partOf g y) (320 + dim)
              | none =>
                match s.sourceOf c.par.devMask.toNat c.par.devValue.toNat ds s.own x.step with
                | some _ => none
                | none => join (s.standIn c r p g ds x.step) (320 + dim)

/-- All that a pour can do now. -/
def pourWork (s : State) (key r p : Nat) : Nat → State
  | 0 => s
  | n + 1 => match s.pourStep key r p with
    | none => s
    | some t => t.pourWork key r p n

/-! ### Scheduling (R186, R187) -/

/-- Rank of a contract: smaller goes first (R186). -/
def rankKey (s : State) (c : Contract) : Nat × Nat × Nat :=
  let since := ((c.pending.head?).map Prod.snd).getD s.mono
  if c.par.deadline ≠ 0 then (0, since + c.par.deadline.toNat * 10, c.ready.getD s.vats.order)
  else (1, 6 - c.par.tc.toNat, c.ready.getD s.vats.order)

def rankLess (a b : Nat × Nat × Nat) : Bool :=
  a.1 < b.1 || (a.1 = b.1 && (a.2.1 < b.2.1 || (a.2.1 = b.2.1 && a.2.2 < b.2.2)))

/-- The first of a list under an order. -/
def firstBy {α : Type} (less : α → α → Bool) : List α → Option α
  | [] => none
  | x :: xs => match firstBy less xs with
    | none => some x
    | some y => if less y x then some y else some x

/-- The vat whose contract is decanted to make room for `c` (R186). -/
def victim (s : State) (c : Contract) : Option Nat :=
  let mine := s.rankKey c
  let cands := (List.range 60).filterMap fun v =>
    let x := s.vat v
    if x.pinned || x.decanting || x.refilling.isSome || x.contained then none
    else x.key.bind fun k => (s.contract k).map fun d => (v, d)
  let idle := cands.filter fun e => inFlight e.2 = 0 && e.2.pending.isEmpty
  let below := fun (e : Nat × Contract) => rankLess mine (s.rankKey e.2)
  let last := firstBy fun (a b : Nat × Contract) => rankLess (s.rankKey b.2) (s.rankKey a.2)
  match firstBy (fun (a b : Nat × Contract) => (s.vat a.1).idleSince < (s.vat b.1).idleSince) idle with
  | some e => some e.1
  | none =>
    match (if c.par.deadline ≠ 0 then last (cands.filter fun e => e.2.par.deadline = 0 && below e) else none) with
    | some e => some e.1
    | none => (last (cands.filter fun e => e.2.par.quantum.toNat ≤ e.2.quanta && below e)).map Prod.fst

/-- Place contract `key` in vat `v`: at once, or by a refill of its image, whose reads are draws of the VAT requester. A
contract with a PIN pins the vat (R187, R188, R277). -/
def placeContract (s : State) (key v : Nat) : State :=
  match s.contract key with
  | none => s
  | some c =>
    let s := s.setContract key (some { c with vat := some v, ready := none, quanta := 0 })
    let s := s.setVat v { s.vat v with
      key := some key, pinned := (s.vat v).pinned || c.par.pin ≠ 0xFF, refilling := if c.image then some key else none,
      idleSince := s.mono, placedAt := s.mono }
    if c.image then s.systemDraws 4 2 (imageBytes c) (.vat v) else s.retryPending key

/-- Begin to decant vat `v`: the writes of its image are draws of the VAT requester (R187, R277). -/
def startDecant (s : State) (v : Nat) : State :=
  let x := s.vat v
  match x.key.bind s.contract with
  | none => s
  | some c => if x.decanting then s else (s.setVat v { x with decanting := true }).systemDraws 4 2 (imageBytes c) (.vat v)

/-- Draws of a decant or refill that have still to complete (R187, R277). -/
def vatDraws (s : State) (v : Nat) : Bool :=
  s.cel.staves.any fun e => e.2.wait.any (fun d => d.use = .vat v) || e.2.grant.any fun d => d.use = .vat v

/-- A contract that waits for its PIN vat to be decanted (R188). -/
def awaitsPin (s : State) (v : Nat) (c : Contract) : Bool := c.par.pin.toNat = v && c.vat.isNone && (s.vat v).pinned

/-- The contract that waits for pinned vat `v`, once it is empty, takes it (R188). -/
def placePinned (s : State) (v : Nat) : State :=
  match s.vats.contracts.find? fun e => e.2.any (s.awaitsPin v) with
  | some e => s.placeContract e.1 v
  | none => s

/-! ### Replay (R193, R351) -/

/-- Send the retained partials of the unsettled rounds again, with REPLAY and the present GEN, to the devices that now take
them as a source. -/
def replaySend (s : State) (key : Nat) : State :=
  match s.contract key with
  | none => s
  | some c =>
    let ds := s.freeDims c.par.devMask.toNat
    let s := s.setContract key (some { c with replayDue := false })
    c.rounds.foldl (fun s r => (r.kept.filter fun y => y.phase = 1).foldl (fun s y =>
      let j := ds.findIdx fun d => d = y.step.toNat
      (s.targetsOf c.par.devMask.toNat c.par.devValue.toNat ds s.own j).foldl (fun s v =>
        (partialPieces { y with replay := true, gen := BitVec.ofNat 8 c.gen }).foldl (fun s z =>
          s.originate (2 ^ 20) (pourPacket false c.par.tc.toNat (BitVec.ofNat 26 (v * 256)) s.ownAddr z)) s) s) s) s

/-- A hole in the sub-cube of a contract without REPLAY fails it: its waiting pours are abandoned (R193). -/
def failContract (s : State) (key : Nat) (c : Contract) : State :=
  let s := (c.rounds.flatMap fun r => r.pours.flatMap fun p => pourCasks p.2).foldl (fun s k => s.decRef k) s
  (s.setContract key (some { c with failed := true, rounds := [] })).retryPending key |>.assertSrc 0x622

/-- The pours of a halving round begin again by doubling, from the local contributions that contract retention holds; a pour
whose RESULT has not left keeps the cask reserved for it (R172, R193). -/
def rerunHalving (s : State) (key : Nat) (c : Contract) : State :=
  let s := (c.rounds.flatMap fun r => r.pours.flatMap fun p => p.2.casks.filterMap Prod.snd).foldl (fun s k => s.decRef k) s
  let rounds := c.rounds.map fun r =>
    let ps := (r.pours.map fun p => p.1)
    { r with
      kept := r.kept.filter fun y => y.phase = 0
      pours := ps.foldl (fun (t : Tab Pour) p =>
        let mine := r.kept.filter fun y => y.phase = 0 && y.pour.toNat = p
        let o := look {} r.pours p
        put {} t p { bitmap := BitVec.ofNat 384 (mine.foldl (fun a y => a ||| 2 ^ contribBit y) 0)
                     inputs := mine.foldl (fun t y => put none t (contribBit y) (some y)) []
                     elems := o.elems, out := o.out, replay := true, again := o.done || o.again }) [] }
  s.setContract key (some { c with algo := 2, rounds := rounds })

/-- Every participant of failed device `f` is known here to be dual-homed with this device, its partner in the first
dimension (R194, log 121). -/
def mirroredHere (s : State) (c : Contract) (f : Nat) : Bool :=
  (s.freeDims c.par.devMask.toNat).head?.map (fun d => f ^^^ 2 ^ d) = some s.own && c.par.presses = 0 &&
    (members 256 c.par.slots.toNat).all fun l => s.fab.dual.any fun e => e.2.any fun d =>
      d.fna2 = some f && d.port = l / 4

/-- What a new hole does to a pour that is not complete: it straddles the failure, and packets of a partial that came in
part are dropped with the device that sent them (R193, R194). -/
def holePour (x : Pour) : Pour :=
  if x.done then x else { x with replay := true, inputs := x.inputs.filter fun e => x.bitmap.getLsbD e.1 }

/-- Contracts meet a new hole at position `f` (R193). -/
def vatsHole (s : State) (f : Nat) : State :=
  let keys := s.vats.contracts.filterMap fun e => e.2.bind fun c =>
    if f &&& c.par.devMask.toNat = c.par.devValue.toNat && !c.failed && !c.holes.contains f then some e.1 else none
  keys.foldl (fun s key =>
    match s.contract key with
    | none => s
    | some c =>
      if c.par.replay = 0 then s.failContract key c
      else
        let c := { c with gen := (c.gen + 1) % 256, split := c.split || !s.mirroredHere c f }
        let s := s.assertSrc 0x621
        if c.algo = 3 then s.rerunHalving key c
        else
          let rounds := c.rounds.map fun r => { r with pours := r.pours.map fun p => (p.1, holePour p.2) }
          (s.setContract key (some { c with rounds := rounds })).replaySend key) s

/-- Remove a contract (R162, R167, R187): its vat, its casks, its retention and its image are freed; what is pending is
refused. -/
def dropContract (s : State) (key : Nat) : State :=
  match s.contract key with
  | none => s
  | some c =>
    let s := (c.rounds.flatMap fun r => r.pours.flatMap fun p => pourCasks p.2).foldl (fun s k => s.decRef k) s
    let bytes := ((c.rounds.map fun r => (r.kept.map fun k => k.data.length).sum)).sum
    let s := if bytes = 0 then s else s.freeRetained bytes
    let s := ((s.setContract key none).setDecanted (s.cel.decanted - imageBytes c)).tableChange
    let awaited := fun (s : State) (v : Nat) => s.vats.contracts.any fun e => e.2.any (s.awaitsPin v)
    let s := match c.vat with
      | some v => (s.setVat v { contained := (s.vat v).contained, pinned := awaited s v }).placePinned v
      | none => if s.awaitsPin c.par.pin.toNat c && !awaited s c.par.pin.toNat
        then s.setVat c.par.pin.toNat { s.vat c.par.pin.toNat with pinned := false } else s
    c.pending.foldl (fun s e => (s.contribTry e.1).2) s

end State

/-! ### The rows -/

/-- CONTRIB_RECEIVE (R170): a CONTRIB or partial, handed over by its delivery channel, or by a press. -/
def execContribReceive (c : ContribP) (s : State) : Host.Outcome State Fault Refusal :=
  let r := s.contribTry c
  if r.1 then .next r.2
  else match r.2.contract c.ckey.toNat with
    | some k => .next (r.2.setContract c.ckey.toNat (some { k with pending := k.pending ++ [(c, s.mono)] }))
    | none => .next r.2

def execPendingContribRetry (ckey : BitVec 32) (s : State) : Host.Outcome State Fault Refusal :=
  .next (s.retryPending ckey.toNat)

/-- PENDING_CONTRIB_AGEING (R170): discarded as a packet too old is, so that edge retransmission returns it. -/
def execPendingContribAgeing (ckey : BitVec 32) (s : State) : Host.Outcome State Fault Refusal :=
  let key := ckey.toNat
  match s.contract key with
  | none => .next s
  | some c =>
    let old := fun (e : ContribP × Nat) => e.1.chan.isSome && decide (s.sw.ageing * 100000 < s.mono - e.2)
    let gone := c.pending.filter old
    let s := s.setContract key (some { c with pending := c.pending.filter fun e => !old e })
    .next (gone.foldl (fun s e => match e.1.chan with
      | some (f, q) =>
        let h := s.egCh f
        let s := s.setEgCh f { h with handed := put none h.handed q none }
        let s := match look none h.handed q with
          | some k => s.decRef k
          | none => s
        (s.chanLost f q).assertSrc 0x120
      | none => s) s)

/-- POUR_COMBINE_DONE (R180-R184): the lane has finished; the pour goes on as far as it can. -/
def execPourCombineDone (ckey : BitVec 32) (round pour : BitVec 16) (s : State) : Host.Outcome State Fault Refusal :=
  .next (s.pourWork ckey.toNat round.toNat pour.toNat 1000)

/-- VAT_SCHEDULE (R186): the highest-ranked ready contract takes the lowest free vat, or room is made for it. -/
def execVatSchedule (s : State) : Host.Outcome State Fault Refusal :=
  let due := s.vats.contracts.filterMap fun e => e.2.bind fun c => if c.replayDue then some e.1 else none
  let s := due.foldl (fun s k => s.replaySend k) s
  let ready := s.vats.contracts.filterMap fun e => e.2.bind fun c =>
    if c.ready.isSome && c.vat.isNone && !c.failed && !s.awaitsPin c.par.pin.toNat c then some (e.1, c) else none
  match State.firstBy (fun (a b : Nat × Contract) => State.rankLess (s.rankKey a.2) (s.rankKey b.2)) ready with
  | none => .next s
  | some (key, c) =>
    let free := (List.range 60).find? fun v =>
      let x := s.vat v
      x.key.isNone && !x.pinned && !x.contained && !x.decanting && x.refilling.isNone
    match free with
    | some v => .next (if c.image && s.planChanging then s else s.placeContract key v)
    | none => match (if s.planChanging then none else s.victim c) with
      | some v => .next (s.startDecant v)
      | none => .next s

/-- DECANT_DONE (R187): every line of the image has been written, which needs the tiers (R25). -/
def execDecantDone (vat : Fin 64) (s : State) : Host.Outcome State Fault Refusal :=
  let v := vat.val
  let x := s.vat v
  match x.key with
  | none => .next s
  | some key =>
    match s.contract key with
    | none => .next s
    | some c =>
      if !x.decanting || x.refilling.isSome || !s.tiersActive || s.vatDraws v then .next s
      else
        let s := s.setContract key (some { c with vat := none, image := true, decants := c.decants + 1 })
        let s := s.setVat v { x with key := none, decanting := false }
        let s := if c.pending.isEmpty then s else s.makeReady key
        .next (s.placePinned v)

/-- REFILL_DONE (R187): the image has been read, which needs the tiers (R25); what arrived during the refill is accepted. -/
def execRefillDone (vat : Fin 64) (s : State) : Host.Outcome State Fault Refusal :=
  let v := vat.val
  match (s.vat v).refilling with
  | none => .next s
  | some key =>
    if !s.tiersActive || s.vatDraws v then .next s else
    let s := s.setVat v { s.vat v with refilling := none, idleSince := s.mono }
    match s.contract key with
    | none => .next s
    | some c => .next ((s.setContract key (some { c with image := false, refills := c.refills + 1 })).retryPending key)

/-- TAP_STALL_TIMER (R191): a pour has waited for FREE beyond the ageing limit. -/
def execTapStallTimer (ckey : BitVec 32) (press : Fin 64) (s : State) : Host.Outcome State Fault Refusal :=
  let key := ckey.toNat
  match s.contract key with
  | none => .next s
  | some c =>
    let due := c.rounds.flatMap fun r => (r.pours.filter fun p => p.2.formed && p.2.tapLeft.getLsbD press.val && !p.2.stalled &&
      decide (s.sw.ageing * 100000 < s.mono - p.2.formedAt)).map fun p => (r.no, p)
    match due.head? with
    | none => .next s
    | some (rno, p) => .next ((s.setPour key rno p.1 { p.2 with stalled := true }).assertSrc 0x618)

/-- ROUND_SETTLE (R168, R192): the IMAX over the devices has ended, and its result is the global T_READY. A row that names
another value than the counter's result settles nothing (log 3). -/
def execRoundSettle (ckey : BitVec 32) (round : BitVec 16) (tReady : BitVec 64) (s : State) : Host.Outcome State Fault Refusal :=
  match s.contract ckey.toNat with
  | none => .next s
  | some c =>
    match c.settleId with
    | none => .next s
    | some i =>
      match (s.counter i).settled with
      | [] => .next s
      | t :: rest =>
        if t = tReady && c.nextRound = round.toNat && ((State.roundOf c round.toNat).map Round.settling).getD false then
          .next ((s.setCounter i { s.counter i with settled := rest }).settleRound ckey.toNat round.toNat t.toNat)
        else .next s

/-- VAT_SCRUB (R195, R357): an error found in a vat without a resident contract. -/
def execVatScrub (vat : Fin 64) (uncorrectable : Bool) (s : State) : Host.Outcome State Fault Refusal :=
  if (s.vat vat.val).key.isSome then .next s
  else if uncorrectable then .next (s.assertIn 0x611 (.vat vat.val))
  else .next (s.vatCorrected (some vat.val))

end Sys2Proof.Machine
end

