-- ==== Sys2Proof/Machine/Fabric.lean ====
section
/-!
DEFINITION. The fabric manager: discovery (R100-R106), the routing table's recomputation (R108), endpoints (R124),
failover notices (R126), and the epoch's commit (R112, R113).
-/

namespace Sys2Proof.Machine

namespace State

/-! ### Holes (R100, R108, R126, R193, R201) -/

/-- The primary address of a pair whose second port is on this device, from the redirect entry that delivers to it (R126). -/
def primaryAddr (s : State) (d : Dual) : Option Nat :=
  ((s.bank s.fab.live).redirects.find? fun e => e.2 = some s.own && e.1 % 256 / 4 = d.port).map Prod.fst

/-- An egress device's channel from `f` is continued by device `by_` up to number `value` (R126). -/
def takeOver (s : State) (f by_ value : Nat) : State := s.setEgCh f { s.egCh f with takeover := some value, ackTo := some by_ }

/-- A REDIRECT or TAKEOVER has not been here before; it is noted (log 34). -/
def noteSeen (s : State) (x : Nat × Nat × Nat) : State := s.setFab { s.fab with seen := s.fab.seen ++ [x] }

/-- The secondary takes over one mirrored channel of a failed primary (R126): TAKEOVER to its egress, flooded like a notice
(log 34), then the mirrored packets one at a time. -/
def takeChannel (s : State) (f k : Nat) (ms : List Packet) : State :=
  let e := keyEgress k
  let top := (best (fun (p : Packet) => ((seqDiff p.dcseq.toNat ((ms.head?.map fun q => q.dcseq.toNat).getD 0) : Nat) : Int)) ms).map
    fun p => p.dcseq.toNat
  match top with
  | none => s
  | some t =>
    let v := seqAdd t (2 ^ 16)
    let s := s.setInCh k { live := true, next := v, resending := true }
    let s := s.setFab { s.fab with takeover := put [] s.fab.takeover k ms }
    let m : DiscMsg := { s.discMsg 8 with subject := BitVec.ofNat 26 f, value := BitVec.ofNat 32 v }
    let s := if e = s.own then s.takeOver f s.own v else (s.noteSeen (8, f, v)).floodDisc 64 m
    s.takeoverStep k

/-- This device is the secondary of endpoints whose primary was the failed position (R126). -/
def takeoverStart (s : State) (f : Nat) : State :=
  let mine := (s.fab.dual.filterMap fun e => e.2.map fun d => (e.1, d)).filter fun e =>
    e.2.fna2 = some s.own && !e.2.degraded && (s.primaryAddr e.2).map (· / 256) = some f
  if mine.isEmpty then s
  else
    let s := mine.foldl (fun s e =>
      let a := (s.primaryAddr e.2).getD 0
      let m := { s.discMsg 7 with subject := BitVec.ofNat 26 a, subjectId := BitVec.ofNat 64 e.1 }
      (s.noteSeen (7, a, s.own)).floodDisc 64 m) s
    let ks := s.fab.mirrors.filter fun e => e.1 / 2 ^ 18 = f + 1
    (ks.foldl (fun s e => s.takeChannel f e.1 e.2) s).assertSrc 0x2C2

/-- Packets that waited for a mirror which can no longer come go on (R126). -/
def releaseMirrors (s : State) : State :=
  s.fab.mirrorWait.foldl (fun s m =>
    match (s.inCh (s.chanOf m.1 m.2.1)).kept.find? fun r => r.seq = m.2.1 with
    | none => s
    | some r =>
      if (s.mirrorOf r.pkt).isSome then s
      else (s.setFab { s.fab with mirrorWait := s.fab.mirrorWait.erase m }).afterMirror m) s

/-- A position becomes a hole at this device, or is one no longer. -/
def setHole (s : State) (f : Nat) (on detected : Bool) : State :=
  let s := s.setFab { s.fab with holes := put false s.fab.holes f on, recompute := true }
  let s : State := { s with adm := { s.adm with rerun := true } }
  let s := s.pinsCheck.reparent
  if !on then s.setFab { s.fab with seen := s.fab.seen.filter fun x => (if x.1 = 7 then x.2.1 / 256 else x.2.1) ≠ f }
  else
    let s := (s.syncHole f detected).vatsHole f
    let s := s.takeoverStart f
    (s.degradePairs fun d => d.fna2 = some f).releaseMirrors

def holeMsg (s : State) (f : Nat) (clear : Bool) : DiscMsg :=
  { s.discMsg 4 with subject := BitVec.ofNat 26 f, value := if clear then 1 else 0 }

/-- The partner in dimension `d` is declared a hole (R100). -/
def declareHole (s : State) (d : Nat) : State :=
  let s := s.setDim d { s.dim d with down := true }
  match s.fab.fna with
  | none => s
  | some u =>
    let f := s.partner u d
    let s := if look false s.fab.holes f then s.pinsCheck.reparent else s.setHole f true true
    (s.floodDisc 64 (s.holeMsg f false)).assertIn 0x210 (.dim d)

/-- A dimension link that was down is back, with a HELLO: the hole behind it is cleared (R100). -/
def linkReturns (s : State) (d : Nat) : State :=
  if !(s.dim d).down then s
  else
    let s := s.setDim d { s.dim d with down := false }
    match s.fab.fna with
    | none => s
    | some u =>
      let f := s.partner u d
      if look false s.fab.holes f then (s.setHole f false false).floodDisc 64 (s.holeMsg f true) else s.pinsCheck.reparent

/-! ### Discovery states (R105, R106) -/

/-- Is candidate (serial, marked) better than another (R106)? -/
def betterRoot (a b : BitVec 64 × Bool) : Bool := (a.2 && !b.2) || (a.2 = b.2 && a.1.toNat < b.1.toNat)

def rootMsg (s : State) (hops : Nat) : DiscMsg := { s.discMsg 2 with rootHops := hops }

/-- INIT ends when every ACTIVE dimension port that is not excluded has exchanged HELLO; ROOT is then flooded. -/
def initCheck (s : State) : State :=
  let ports := s.dimPorts.filter fun p => (s.link (p * 4)).st = .active && !(s.port p).excluded
  if s.fab.disc = .init && ports.all fun p => (s.port p).hello then
    (s.setFab { s.fab with disc := .elect }).floodDisc 64 (s.rootMsg s.fab.root.2.2)
  else s

/-- FAB_DISCOVER's replies (R105, R317). -/
def discReply (s : State) (ok : Bool) : State :=
  match s.fab.discFor with
  | none => s
  | some h =>
    let s := s.setFab { s.fab with discFor := none }
    if ok then
      complete h { st := s, params := [(32, s.fab.fna.getD 0 + 2 ^ 31), (8, s.fab.ndim), (64, s.fab.root.1.toNat),
                                       (32, (s.fab.holes.filter Prod.snd).length)] }
    else
      State.complete h { st := s, status := 0x0601, detail := 2, params := [(32, 0), (8, s.fab.ndim), (64, s.fab.root.1.toNat),
                                       (32, (s.fab.holes.filter Prod.snd).length)] }

/-- Address of the endpoint at link `l`: that of its primary attachment (R102). -/
def slotAddress (s : State) (l : Nat) : Option Nat :=
  match s.dualOf l with
  | none => some (s.own * 256 + l)
  | some d =>
    if d.fna2 = some s.own then s.primaryAddr d
    else if d.port = l / 4 then some (s.own * 256 + l)
    else some (s.own * 256 + s.portSlot d.port (((s.slot l).identity.map BitVec.toNat).getD 0))

/-- Answer an ANNOUNCE with ASSIGN (R124). -/
def assign (s : State) (l : Nat) : State :=
  let x := s.slot l
  let s := s.setSlot l { x with assigned := true, held := false }
  match s.slotAddress l with
  | some a => s.sendDisc l { s.discMsg 6 with subject := BitVec.ofNat 26 a, subjectId := x.identity.getD 0 }
  | none => s

/-- A link is miswired: both serial numbers and ports go to the log (R105). HELLO and COORD name no port, and the far one is
recorded as the port that this device's own map gives to their DIM and MEMBER, 0xFF where it gives none (log 131). -/
def miswire (s : State) (d p : Nat) (m : DiscMsg) : State :=
  let far := (s.bundle m.dim.toNat).getD m.member.toNat 0xFF
  let s := s.setDim d { s.dim d with miswired := true }
  (s.setFab { s.fab with log := s.fab.log ++ [(s.ident.serial, m.serial, p, far)] }).pinsCheck

/-- The dimension of a port. -/
def portDim (s : State) (p : Nat) : Option (Nat × Nat) := look none s.fab.map p

/-- A COORD that names the elected root and implies another FNA than `f`: its link is miswired, FS 0x201 (R106). -/
def coordConflict (s : State) (f : Nat) (c : Nat × DiscMsg) : State :=
  match s.portDim c.1 with
  | none => s
  | some (d, _) =>
    if (s.dim d).miswired || c.2.rootSerial ≠ s.fab.root.1 || s.partner c.2.fna.toNat d = f then s
    else (s.miswire d c.1 c.2).assertIn 0x201 (.dim d)

/-- Take an FNA: READY (R105, R106): the other held COORDs are compared, COORD on every dimension port, the endpoints'
addresses (R124), the table (R108), and the holes at dimensions without a link (R100). -/
def takeFna (s : State) (f : Nat) : State :=
  let old := s.fab.fna
  let s := s.fab.coords.foldl (fun s c => s.coordConflict f c) s
  let s := s.setFab { s.fab with fna := some f, disc := .ready, coords := [], recompute := true }
  let s := s.floodDisc 64 (s.discMsg 3)
  let due := (s.fab.slots.filter fun e => e.2.held || (e.2.assigned && old ≠ some f)).map Prod.fst
  let s := due.foldl (fun s l => if (s.slot l).quarantined then s else s.assign l) s
  let s := ((List.range s.fab.ndim).filter fun d => !s.dimUp d).foldl (fun s d => s.declareHole d) s
  s.reparent.discReply true

/-- In ASSIGN: a held COORD that names the elected root gives the FNA (R106). -/
def assignCheck (s : State) : State :=
  if s.fab.disc ≠ .assign then s
  else match s.fab.coords.findSome? fun c =>
      if c.2.rootSerial = s.fab.root.1 then
        (s.portDim c.1).bind fun d => if (s.dim d.1).miswired then none else some (s.partner c.2.fna.toNat d.1)
      else none with
    | none => s.setFab { s.fab with coords := [] }
    | some f => s.takeFna f

/-- Forward a flooded message afresh, with this device's own fields; in REDIRECT and TAKEOVER the FNA stays that of the
secondary (R103, R104, log 34). -/
def passOn (s : State) (port : Nat) (m : DiscMsg) : State :=
  let x : DiscMsg := { s.discMsg m.msg.toNat with hops := m.hops + 1, subject := m.subject, subjectId := m.subjectId, value := m.value }
  s.floodDisc port (if m.msg = 4 then x else { x with fna := m.fna, fnaValid := m.fnaValid })

end State

/-! ### The rows -/

/-- HELLO_TIMER (R104). -/
def execHelloTimer (s : State) : Host.Outcome State Fault Refusal :=
  .next ((s.dimPorts.filter fun p => (s.link (p * 4)).st = .active).foldl (fun s p => s.sendDisc (p * 4) (s.discMsg 1)) s)

/-- HELLO_RECEIVE (R100, R105). -/
def execHelloReceive (port : Fin 64) (m : DiscMsg) (s : State) : Host.Outcome State Fault Refusal :=
  let p := port.val
  match (if m.msg = 1 then s.portDim p else none) with
  | none => .next s
  | some (d, mem) =>
    let s := s.setPort p { s.port p with hello := true }
    if m.dim.toNat ≠ d || m.member.toNat ≠ mem || m.twisted ≠ s.fab.twisted || m.ndim.toNat ≠ s.fab.ndim then
      .next (((s.miswire d p m).assertIn 0x200 (.dim d)).initCheck)
    else
      let s := s.setDim d { s.dim d with helloAt := some s.mono, serial := m.serial }
      .next ((s.linkReturns d).initCheck)

/-- HELLO_TIMEOUT (R100): no HELLO over the link for 3 ms. -/
def execHelloTimeout (dim : Fin 18) (s : State) : Host.Outcome State Fault Refusal :=
  let x := s.dim dim.val
  match x.helloAt with
  | some t => .next (if t + 3000000 ≤ s.mono && !x.down then s.declareHole dim.val else s)
  | none => .next s

/-- BUNDLE_DOWN (R100): every member of the bundle is down. -/
def execBundleDown (dim : Fin 18) (s : State) : Host.Outcome State Fault Refusal :=
  let d := dim.val
  if !(s.bundle d).isEmpty && !(s.dim d).down && (s.bundle d).all fun p => (s.link (p * 4)).st ≠ .active then
    .next (s.declareHole d)
  else .next s

/-- INIT_TIMEOUT (R105). -/
def execInitTimeout (s : State) : Host.Outcome State Fault Refusal :=
  if s.fab.disc ≠ .init then .next s
  else
    let late := s.dimPorts.filter fun p => (s.link (p * 4)).st = .active && !(s.port p).hello
    let s := late.foldl (fun s p => s.setPort p { s.port p with excluded := true }) s
    let s := if late.isEmpty then s else s.assertSrc 0x204
    .next s.initCheck

/-- ELECT_QUIET (R105, R106): the root takes its FNA; another device looks through the COORDs it holds. -/
def execElectQuiet (s : State) : Host.Outcome State Fault Refusal :=
  if s.fab.disc ≠ .elect then .next s
  else
    let s := s.setFab { s.fab with disc := .assign }
    .next (if s.fab.root.1 = s.ident.serial then s.takeFna s.fab.rootFna else s.assignCheck)

/-- ASSIGN_TIMEOUT (R105). -/
def execAssignTimeout (s : State) : Host.Outcome State Fault Refusal :=
  if s.fab.disc ≠ .assign then .next s
  else .next (((s.setFab { s.fab with disc := .failed, fna := none }).assertSrc 0x204).discReply false)

/-- ROOT_RECEIVE (R106). -/
def execRootReceive (port : Fin 64) (m : DiscMsg) (s : State) : Host.Outcome State Fault Refusal :=
  if m.msg ≠ 2 || s.fab.disc = .idle || (s.portDim port.val).isNone then .next s
  else
    let hops := m.rootHops + 1
    let first := m.rootMarked && !s.fab.seenMarked.contains m.rootSerial
    let open_ := s.fab.disc = .init || s.fab.disc = .elect
    let improves := open_ && State.betterRoot (m.rootSerial, m.rootMarked) (s.fab.root.1, s.fab.root.2.1)
    let s := if s.fab.marked && m.rootMarked && m.rootSerial ≠ s.ident.serial then s.assertSrc 0x202 else s
    let s := if improves then s.setFab { s.fab with root := (m.rootSerial, m.rootMarked, hops) } else s
    let s := if first then s.setFab { s.fab with seenMarked := s.fab.seenMarked ++ [m.rootSerial] } else s
    if improves || first then
      .next (s.floodDisc port.val { s.discMsg 2 with
        hops := m.hops + 1
        rootMarked := m.rootMarked
        rootSerial := m.rootSerial
        rootHops := hops })
    else .next s

/-- COORD_RECEIVE (R106). -/
def execCoordReceive (port : Fin 64) (m : DiscMsg) (s : State) : Host.Outcome State Fault Refusal :=
  let p := port.val
  match (if m.msg = 3 && m.fnaValid then s.portDim p else none) with
  | none => .next s
  | some (d, _) =>
    if (s.dim d).miswired then .next s
    else
      match s.fab.disc with
      | .init => .next (s.setFab { s.fab with coords := s.fab.coords ++ [(p, m)] })
      | .elect => .next (s.setFab { s.fab with coords := s.fab.coords ++ [(p, m)] })
      | .assign => .next ((s.setFab { s.fab with coords := [(p, m)] }).assignCheck)
      | .ready => .next (s.coordConflict s.own (p, m))
      | _ => .next s

/-- HOLE_RECEIVE (R100). -/
def execHoleReceive (port : Fin 64) (m : DiscMsg) (s : State) : Host.Outcome State Fault Refusal :=
  let f := m.subject.toNat
  if m.msg ≠ 4 || (s.portDim port.val).isNone || 2 ^ s.fab.ndim ≤ f then .next s
  else if m.value.getLsbD 0 then
    if look false s.fab.holes f then .next ((s.setHole f false false).passOn port.val m) else .next s
  else if s.fab.fna = some f then
    if s.ctl.quiesced then .next s else .next (s.floodDisc 64 (s.holeMsg f true))
  else if look false s.fab.holes f then .next s
  else .next (((s.setHole f true false).passOn port.val m).assertSrc 0x211)

/-- The computed table of a bank is that over the positions now present; one loaded explicitly stays (R108). -/
def State.recomputeBank (s : State) (e : Bool) : State :=
  if (s.bank e).explicit then s else s.setBank e { s.bank e with holes := s.fab.holes }

/-- TABLE_RECOMPUTE_DONE (R100, R108): the live bank's, and with a session open the staged one's. -/
def execTableRecomputeDone (s : State) : Host.Outcome State Fault Refusal :=
  if !s.fab.recompute then .next s
  else
    let s := s.setFab { s.fab with recompute := false }
    let s := s.recomputeBank s.fab.live
    let s := if s.fab.session then s.recomputeBank (!s.fab.live) else s
    let n := s.fab.ndim
    let reached := (layers s.fab.twisted n s.fab.holes (2 ^ n) [s.own] []).flatten
    let lost := (List.range (2 ^ n)).any fun f => !look false s.fab.holes f && !reached.contains f
    .next (if s.isRoot && lost then s.assertSrc 0x203 else s)

/-- The ports of a failover pair that are on this device (R124, R125): on the secondary the second alone. -/
def State.pairPorts (s : State) (d : Dual) : List Nat :=
  let two := if d.port2 = 0xFF then [] else [d.port2]
  match d.fna2 with
  | none => d.port :: two
  | some f => if f = s.own then two else [d.port]

/-- ANNOUNCE_RECEIVE (R124). -/
def execAnnounceReceive (link : Fin 256) (m : DiscMsg) (s : State) : Host.Outcome State Fault Refusal :=
  let l := link.val
  let x := s.slot l
  if m.msg ≠ 5 || (s.linkDim l).isSome then .next s
  else if x.quarantined || (s.port (l / 4)).quarantined then
    .next (s.setFab { s.fab with log := s.fab.log ++ [(m.serial, m.serial, l / 4, s.ns)] })
  else
    let other := if m.serial = 0 then none else s.fab.slots.find? fun e => e.1 ≠ l && e.2.identity = some m.serial && !e.2.quarantined
    let ports := if m.serial = 0 then [] else match look none s.fab.dual m.serial.toNat with
      | some d => s.pairPorts d
      | none => []
    let pair := fun (o : Nat × EpSlot) => ports.contains (l / 4) && ports.contains (o.1 / 4)
    match other.filter fun o => !pair o with
    | some o =>
      let s := s.setSlot l { x with identity := some m.serial, quarantined := true, assigned := false, announcedAt := s.ns }
      let log := [(m.serial, m.serial, o.1 / 4, o.2.announcedAt), (m.serial, m.serial, l / 4, s.ns)]
      .next ((s.setFab { s.fab with log := s.fab.log ++ log }).assertIn 0x2C0 (.epPort (l / 4)))
    | none =>
      let at_ := if x.identity = some m.serial then x.announcedAt else s.ns
      let s := s.setSlot l { x with identity := some m.serial, announcedAt := at_, held := true }
      .next (if s.fab.disc = .ready then s.assign l else s)

/-- REDIRECT_RECEIVE (R126): a partner of the failed position holds the redirect, and sends what it holds for the endpoint
to the secondary. Each device passes the message on once, so that it reaches every partner (log 34). -/
def execRedirectReceive (port : Fin 64) (m : DiscMsg) (s : State) : Host.Outcome State Fault Refusal :=
  let note := (7, m.subject.toNat, m.fna.toNat)
  if m.msg ≠ 7 || (s.portDim port.val).isNone || s.fab.seen.contains note then .next s
  else
    let a := m.subject.toNat
    let s := (s.noteSeen note).passOn port.val m
    let near := (List.range s.fab.ndim).any fun d => s.partner s.own d = a / 256
    if !near || s.own = m.fna.toNat then .next s
    else
      let add := fun (b : Bank) => { b with redirects := put none b.redirects a (some m.fna.toNat) }
      let s := (s.setBank false (add s.fab.bank0)).setBank true (add s.fab.bank1)
      let held := s.sw.queues.flatMap fun q => if (s.linkDim (q.1 / 8)).isNone then []
        else ((q.2.eLane ++ q.2.aLane).filter fun e => e.dst.toNat = a).map fun e => (q.1, e)
      .next (held.foldl (fun s e => (s.unqueue e.1 e.2).routeCask e.2.cask) s)

/-- VALUE lies 2^16 past the highest mirrored number of this device's own channel from `f`: within the 4,096 numbers that may be
unacknowledged, of EXPECTED (R116, R126, log 34). -/
def State.takeoverFits (s : State) (f v : Nat) : Bool :=
  let h := s.egCh f
  h.live && decide (seqDiff (seqAdd v (2 ^ 32 - 2 ^ 16 + 4096)) h.expected ≤ 8192)

/-- TAKEOVER_RECEIVE (R126): passed on once, and taken by the device whose channel it continues. -/
def execTakeoverReceive (m : PortDisc) (s : State) : Host.Outcome State Fault Refusal :=
  let port := m.port
  let m := m.msg
  let f := m.subject.toNat
  let v := m.value.toNat
  if m.msg ≠ 8 || (s.portDim port.val).isNone || s.fab.seen.contains (8, f, v) then .next s
  else
    let s := (s.noteSeen (8, f, v)).passOn port.val m
    .next (if s.takeoverFits f v then s.takeOver f m.fna.toNat v else s)

/-- Make the staged bank live (R112). -/
def State.commitBank (s : State) : State :=
  (s.setFab { s.fab with live := !s.fab.live, oldHeld := true, session := false, commit := none,
                         commitAt := s.mono }).pinsCheck

/-- EPOCH_COMMIT_TIME (R112). -/
def execEpochCommitTime (s : State) : Host.Outcome State Fault Refusal :=
  match s.fab.commit with
  | some (t, _) => .next (if t ≤ s.ns then s.commitBank else s)
  | none => .next s

/-- EPOCH_BANK_FREE (R113, R321): 50 us after the commit, or at the fence, when no packet of the old epoch is left here. -/
def execEpochBankFree (s : State) : Host.Outcome State Fault Refusal :=
  let left := s.sw.casks.any fun e => e.2.pkt.any fun p => p.epoch ≠ s.fab.live
  if s.fab.oldHeld && (s.fab.commitAt + 50000 ≤ s.mono || (!s.fab.commitFor.isEmpty && !left)) then
    let hs := s.fab.commitFor
    .next (hs.foldl State.waitStep (s.setFab { s.fab with oldHeld := false, commitFor := [] }))
  else .next s

end Sys2Proof.Machine
end

