-- ==== Sys2Proof/Machine/Press.lean ====
section
/-!
DEFINITION. What the press units share: contexts and their partitions (R214, R215, R220), pads and CP memories with their
codes (R213, R252, R356), instruction faults (R231, R259, R260), semaphores as instructions use them (R208, R233), and the end
of a launch (R229).
-/

namespace Sys2Proof.Machine

/-! ### Causes (R259) -/

def cIllegal : Nat := 0x01
def cAlign : Nat := 0x02
def cUnmapped : Nat := 0x03
def cRange : Nat := 0x04
def cSemOverflow : Nat := 0x05
def cGsRange : Nat := 0x06
def cPadEcc : Nat := 0x07
def cQpushFetch : Nat := 0x08
def cCelPoison : Nat := 0x09
def cCelWrite : Nat := 0x0A
def cCpEcc : Nat := 0x0B
def cSyncUnbound : Nat := 0x0C

namespace State

/-! ### Contexts -/

def ctx (s : State) (p c : Nat) : Ctx := look {} (s.pr p).ctxs c

def setCtx (s : State) (p c : Nat) (x : Ctx) : State := s.setPr p { s.pr p with ctxs := put {} (s.pr p).ctxs c x }

/-- The context that issues on press `p`: a running one, begun, with no switch due (R221). -/
def issuing (s : State) (p : Nat) : Option Nat :=
  let r := s.pr p
  let x := s.ctx p r.cur
  if x.st = .running && r.switchDue.isNone && !x.finished && !x.digestWait then some r.cur else none

/-- CP of a context: live, or as saved (R221). -/
def cpOf (s : State) (p c : Nat) : Cp :=
  if (s.pr p).cur = c then (s.pr p).cp else ((s.ctx p c).saved.map Prod.fst).getD {}

def setCpOf (s : State) (p c : Nat) (k : Cp) : State :=
  if (s.pr p).cur = c then s.setPr p { s.pr p with cp := k }
  else
    let x := s.ctx p c
    s.setCtx p c { x with saved := some (k, (x.saved.map Prod.snd).getD []) }

/-- Stream `e` of a context: live, or as saved. -/
def streamOf (s : State) (p c e : Nat) : Stream :=
  if (s.pr p).cur = c then look {} (s.pr p).streams e else (((s.ctx p c).saved.map Prod.snd).getD []).getD e {}

def setStreamOf (s : State) (p c e : Nat) (k : Stream) : State :=
  if (s.pr p).cur = c then s.setPr p { s.pr p with streams := put {} (s.pr p).streams e k }
  else
    let x := s.ctx p c
    let old := (x.saved.map Prod.snd).getD []
    s.setCtx p c { x with saved := some ((x.saved.map Prod.fst).getD {},
      (List.range 4).map fun i => if i = e then k else old.getD i {}) }

/-! ### Memories with their codes -/

/-- Which memory of a press: pad, CP instruction, CP data. -/
inductive Mem where
  | pad | imem | dmem
  deriving DecidableEq, Repr

def memSize : Mem → Nat
  | .pad => 2 ^ 21
  | .imem => 2 ^ 17
  | .dmem => 2 ^ 18

def memOf (s : State) : Mem → Tab Byte
  | .pad => s.press.pad
  | .imem => s.press.imem
  | .dmem => s.press.dmem

def memErr (s : State) : Mem → Tab Nat
  | .pad => s.press.padErr
  | .imem => s.press.imemErr
  | .dmem => s.press.dmemErr

def setMem (s : State) (m : Mem) (t : Tab Byte) : State :=
  match m with
  | .pad => { s with press := { s.press with pad := t } }
  | .imem => { s with press := { s.press with imem := t } }
  | .dmem => { s with press := { s.press with dmem := t } }

def setMemErr (s : State) (m : Mem) (t : Tab Nat) : State :=
  match m with
  | .pad => { s with press := { s.press with padErr := t } }
  | .imem => { s with press := { s.press with imemErr := t } }
  | .dmem => { s with press := { s.press with dmemErr := t } }

/-- Keys of the 64-bit words that `n` bytes from `a` touch. -/
def wordsIn (a n : Nat) : List Nat := (List.range ((a + n + 7) / 8 - a / 8)).map fun i => (a / 8 + i) * 8

/-- A corrected error is counted and sets its source (R213, R252, R261). -/
def eccCorrected (s : State) (p : Nat) (m : Mem) : State :=
  match m with
  | .pad => (s.setPr p { s.pr p with padCorrected := (s.pr p).padCorrected + 1 }).assertSrc (0x500 + p)
  | _ => s.assertSrc (0x580 + p)

/-- Read bytes of a press's memory: the bytes, and whether a word had an uncorrectable error. -/
def memRead (s : State) (m : Mem) (p a n : Nat) : List Byte × Bool × State :=
  let base := p * memSize m + a
  let bad := (s.memErr m).filter fun e => base / 8 * 8 ≤ e.1 && e.1 < base + n
  let s1 := bad.foldl (fun s e => if e.2 = 1 then (s.setMemErr m (put 0 (s.memErr m) e.1 0)).eccCorrected p m else s) s
  (readMem (s.memOf m) base n, bad.any fun e => 2 ≤ e.2, if n = 0 then s else s1)

/-- Write bytes of a press's memory: words covered whole lose their errors, and words may meet a running injection of the
memory's group (R356). -/
def memWrite (s : State) (m : Mem) (p a : Nat) (bs : List Byte) : State :=
  let n := bs.length
  let base := p * memSize m + a
  let s := s.setMem m (writeMem (s.memOf m) base bs)
  let s := s.setMemErr m ((s.memErr m).filter fun e => !(base ≤ e.1 && e.1 + 8 ≤ base + n))
  let ws := wordsIn base n
  let g := if m = .pad then 0x44 else 0x45
  let left := look 0 s.faults.injLeft (injKey g p)
  let r := s.injTakeN g p ws.length
  match (if n = 0 then none else r.1) with
  | none => s
  | some dbl => r.2.setMemErr m ((ws.take left).foldl (fun t w => put 0 t w (if dbl then 2 else 1)) (r.2.memErr m))

/-! ### Press addresses (R214, R215) -/

/-- What a press address reaches. -/
inductive Reach where
  | pad (off : Nat)
  | dmem (off : Nat)
  | cellar (addr : Nat)
  | other (q off : Nat)
  deriving DecidableEq, Repr

/-- The target of `n` bytes at a press address, when they lie in one. The pads of all presses follow one another, so that a
region may run from one into the next (R214). -/
def reachOf (a n : Nat) : Option Reach :=
  if a + n ≤ 2 ^ 21 then some (.pad a)
  else if 2 ^ 30 ≤ a && a + n ≤ 2 ^ 30 + 2 ^ 18 then some (.dmem (a - 2 ^ 30))
  else if 2 ^ 32 ≤ a && a + n ≤ 2 ^ 33 then some (.cellar (a - 2 ^ 32))
  else if 2 ^ 33 ≤ a && a + n ≤ 2 ^ 33 + 2 ^ 27 then some (.other ((a - 2 ^ 33) / 2 ^ 21) (a % 2 ^ 21))
  else none

def within (base size a n : Nat) : Bool := base ≤ a && a + n ≤ base + size

/-- A region in the pads of all presses, from offset `o` in that of press `q`, lies in the pad partitions of context `c` on
presses of a launch set, each part in its own (R215). -/
def inPads (s : State) (set c q o n : Nat) : Bool :=
  (piecesOf (2 ^ 21) (q * 2 ^ 21 + o) n).all fun x =>
    let r := x.1 / 2 ^ 21
    bit set r && within (s.ctx r c).lay.padBase (s.ctx r c).lay.padSize (x.1 % 2 ^ 21) x.2

/-- The partitions of the issuing context (R215, R220). -/
def inPartition (s : State) (p c : Nat) (t : Reach) (n : Nat) : Bool :=
  let x := s.ctx p c
  match t with
  | .pad o => within x.lay.padBase x.lay.padSize o n
  | .dmem o => within x.lay.dmemBase x.lay.dmemSize o n
  | .cellar a => (members 64 x.set.toNat).any (fun q => within (s.ctx q c).celBase (s.ctx q c).celSize a n) ||
      within x.spareBase x.spareSize a n
  | .other q o => s.inPads x.set.toNat c q o n

/-- An engine reaches a target: 0 TE, 1 VE, 2 RE0, 3 RE1 (R203, R214, R216, R249). -/
def reachable (p e : Nat) (write : Bool) : Reach → Bool
  | .pad _ => true
  | .dmem _ => e = 2 && !write
  | .cellar a => (e = 0 && !write && a / staveBytes = p) || (e = 2 && !write) || (e = 3 && write)
  | .other _ _ => (e = 2 && !write) || (e = 3 && write)

/-- Check an access: its target, or the cause (R237). -/
def access (s : State) (p c e : Nat) (write : Bool) (a n : Nat) : Except Nat Reach :=
  if a % 32 ≠ 0 then .error cAlign
  else match reachOf a n with
    | none => .error cUnmapped
    | some t =>
      if e = 3 && !write && (match t with | .pad _ => false | _ => true) then .error cUnmapped
      else if !reachable p e write t then .error cUnmapped
      else if !s.inPartition p c t n then .error cRange
      else .ok t

/-! ### The end of a launch (R229, R231) -/

/-- The number of a context state, in the order of R227. -/
def ctxCode : CtxState → Nat
  | .empty => 0
  | .loaded => 1
  | .running => 2
  | .done => 3
  | .stopped => 4
  | .faulted => 5

/-- A graceful stop has ended; PRESS_STOP gets its reply, the state of the context on every press of the set (R230,
R317). A stop that begins a power change has none (R373). -/
def stopReply (s : State) (c : Nat) (set : BitVec 64) (h : SpHdr) : State :=
  let s := (members 64 set.toNat).foldl (fun s q => s.setCtx q c { s.ctx q c with stopFor := none }) s
  if h.opcode ≠ 0x0603 then s
  else complete h { st := s, params := (members 64 set.toNat).map fun q => (8, ctxCode (s.ctx q c).st) }

/-- A graceful stop ends when every engine of the launch is idle with an empty queue (R230). -/
def stopCheck (s : State) (p c : Nat) : State :=
  let x := s.ctx p c
  match x.stopFor with
  | none => s
  | some h =>
    let quiet := (members 64 x.set.toNat).all fun q => (List.range 4).all fun e =>
      (s.streamOf q c e).st = .idle && (s.streamOf q c e).queue.isEmpty
    if quiet then (s.stopLaunch p c false).stopReply c x.set h else s

/-- The CP of a context stops, and each engine discards the entries it has not begun (R230). -/
def stopIssue (s : State) (p c : Nat) : State :=
  let s := s.setCpOf p c { s.cpOf p c with running := false, wait := .none }
  let s := (List.range 4).foldl (fun s e =>
    let k := s.streamOf p c e
    if k.st = .busy || k.st = .stalled || k.waited then s.setStreamOf p c e { k with queue := k.queue.take 1, fetching := false }
    else s.setStreamOf p c e { k with queue := [], fetching := false, st := .idle, waited := false }) s
  let keep := fun (w : SemWaiter) => !(w.press = p && w.ctx = c)
  let drop := fun (t : Tab (List SemWaiter)) =>
    (t.map fun (e : Nat × List SemWaiter) => (e.1, e.2.filter keep)).filter fun e => !e.2.isEmpty
  let s := s.setPr p { s.pr p with lsWait := drop (s.pr p).lsWait }
  { s with press := { s.press with gsWait := drop s.press.gsWait } }

/-- Begin a graceful stop of the launch that runs in context `c` of press `p` (R230). -/
def gracefulStop (s : State) (p c : Nat) (h : SpHdr) : State :=
  let set := members 64 (s.ctx p c).set.toNat
  let s := set.foldl (fun s q => (s.stopIssue q c).setCtx q c { (s.stopIssue q c).ctx q c with stopFor := some h }) s
  s.stopCheck p c

/-- An instruction fault (R231, R260): recorded, and the whole launch stops; `who` is an engine, or 4 for the CP. -/
def pressFault (s : State) (p c who pc cause addr : Nat) : State :=
  let x := s.ctx p c
  if x.st ≠ .running then s
  else
    let s := s.setCtx p c { x with cause := cause, fstream := who, fpc := pc, faddr := addr }
    let s := s.stopLaunch p c true
    let s := (s.launchNotice x 0x0602).assertSrc (0x400 + p)
    match x.stopFor with
    | some h => s.stopReply c x.set h
    | none => s

/-- Every press has finished, and its digest, if any, is complete: the launch is DONE. -/
def launchDone (s : State) (p c : Nat) (outDigest : List Byte) : State :=
  let x := s.ctx p c
  let s := s.bookRecord p c 0 outDigest
  let s := (members 64 x.set.toNat).foldl (fun s q =>
    let y := s.ctx q c
    s.setCtx q c { y with st := .done, finished := false, digestWait := false, launch := none, saved := none }) s
  (s.launchNotice x 0).closeGid x.gid

/-- A press has finished when its CP has halted, and every engine is idle with an empty queue and nothing to fetch (R229). A
graceful stop that was ordered first ends the launch as STOPPED instead (R230). -/
def finishCheck (s : State) (p c : Nat) : State :=
  let x := s.ctx p c
  let k := s.cpOf p c
  let quiet := (List.range 4).all fun e =>
    let t := s.streamOf p c e
    t.st = .idle && t.queue.isEmpty && !t.fetching && t.pours.isEmpty
  if x.st ≠ .running || x.finished || x.stopFor.isSome || !k.halted || !quiet then s
  else
    let s := s.setCtx p c { x with finished := true }
    let all := (members 64 x.set.toNat).all fun q => (s.ctx q c).finished
    if !all then s
    else if s.tele.select.getLsbD 248 && s.tele.select.getLsbD 249 then
      (members 64 x.set.toNat).foldl (fun s q => s.setCtx q c { s.ctx q c with digestWait := true }) s
    else s.launchDone p c (List.replicate 16 0)

/-! ### Turns of contexts (R222) -/

/-- A context is runnable unless all its streams wait for a semaphore, or are idle with an empty queue (R222). -/
def runnable (s : State) (p c : Nat) : Bool :=
  let k := s.cpOf p c
  let cpWaits := !k.running || (match k.wait with
    | .sem _ _ _ => true
    | _ => false)
  (s.ctx p c).st = .running && !(s.ctx p c).finished && !(s.ctx p c).digestWait &&
    !(cpWaits && (List.range 4).all fun e =>
      let t := s.streamOf p c e
      t.st = .waiting || (t.st = .idle && t.queue.isEmpty && !t.fetching))

/-- The next runnable context after the current one, in rotating order (R222). -/
def nextContext (s : State) (p : Nat) : Option Nat :=
  ((List.range 7).map fun i => ((s.pr p).cur + 1 + i) % 8).find? (s.runnable p)

/-- A context that is no longer runnable gives up the rest of its quantum: it issues nothing, so that none of its engines is
within an instruction (R222). -/
def giveUp (s : State) (p : Nat) : State :=
  let r := s.pr p
  if s.runnable p r.cur || r.switchDue.isSome then s else s.setPr p { r with switchDue := s.nextContext p }

/-! ### Semaphores of instructions (R208, R210, R233) -/

/-- The cause that a semaphore number meets. -/
def semCheck (s : State) (p c : Nat) (global : Bool) (n : Nat) : Option Nat :=
  let y := s.ctx p c
  if global then (if within y.lay.gsFirst y.lay.gsCount n 1 then none else some cGsRange)
  else if 63 < n then some cIllegal
  else if within y.lay.lsFirst y.lay.lsCount n 1 then none else some cRange

/-- An instruction signals; carrying the count past its maximum is a fault (R208). -/
def signalOr (s : State) (p c who pc : Nat) (global : Bool) (n k : Nat) : State :=
  let r := s.semSignal global p n k
  if r.1 then r.2.pressFault p c who pc cSemOverflow 0 else r.2

/-- The running context of press `p` to whose partition local semaphore `n` belongs (R220). -/
def lsOwner (s : State) (p n : Nat) : Option Nat :=
  (List.range 8).find? fun c =>
    (s.ctx p c).st = .running && within (s.ctx p c).lay.lsFirst (s.ctx p c).lay.lsCount n 1

/-- A tap or the sync engine signals a local semaphore with 1. Carrying the count past its maximum is a fault (R208): it is
recorded for the CP of the context that holds the semaphore, since no instruction of the press is named (log 83). -/
def signalFromOutside (s : State) (p n : Nat) : State :=
  let r := s.semSignal false p n 1
  if !r.1 then r.2
  else match r.2.lsOwner p n with
    | some c => r.2.pressFault p c 4 (r.2.cpOf p c).pc cSemOverflow 0
    | none => r.2

end State

/-- TAP_WRITE (R190): the oldest formed pour that the press still lacks, once FREE allows; then FILL is signalled (R208). A
fenced press rejects the write (R23), and the pour goes on waiting (log 123). -/
def execTapWrite (ckey : BitVec 32) (press : Fin 64) (s : State) : Host.Outcome State Fault Refusal :=
  let key := ckey.toNat
  let n := press.val
  if (s.pr n).fenced then .next s
  else match s.contract key with
  | none => .next s
  | some c =>
    let due := c.rounds.flatMap fun r => (r.pours.filter fun p => p.2.formed && p.2.tapLeft.getLsbD n).map fun p => (r.no, p)
    match due.head? with
    | none => .next s
    | some (rno, p) =>
      let me : SemWaiter := { press := n, ctx := 8, who := 5 + key, need := 1 }
      let fr := c.par.free.toNat
      let w := if (s.semWaiters false n fr).contains me then s.semRelease false fr me else s.semWait false fr me
      if !w.1 then .next w.2
      else
        let at_ := c.par.tapBase.toNat + 4096 * (p.1 % c.par.tapSlots.toNat)
        let s := w.2.memWrite .pad n at_ p.2.data
        let s := s.setPour key rno p.1 { p.2 with tapLeft := p.2.tapLeft &&& ~~~(1#64 <<< n), stalled := false }
        .next (s.signalFromOutside n c.par.fill.toNat)

end Sys2Proof.Machine
end

