-- ==== Sys2Proof/Machine/Cp.lean ====
section
/-!
DEFINITION. The control processor (R252-R257): fetch, the instructions of R254, its waits, sync contributions and the
results it receives. A row acts when the instruction at the program counter of the issuing context is the row's; an opcode
that R254 does not list is ILLEGAL under whichever row is sent (log 40).
-/

namespace Sys2Proof.Machine

/-- The opcodes of R254. -/
def cpOpcodes : List Nat :=
  [0x01, 0x02, 0x03, 0x04, 0x05, 0x06, 0x07, 0x08, 0x09, 0x10, 0x11, 0x12, 0x13, 0x14, 0x15, 0x16, 0x17, 0x20, 0x21, 0x22,
   0x23, 0x24, 0x25, 0x28, 0x29, 0x30, 0x31, 0x32, 0x33, 0x34, 0x35, 0x36, 0x37, 0x38, 0x39, 0x3A, 0x3F]

/-- A register's value; s0 reads as 0 (R252). -/
def Cp.reg (k : Cp) (r : Nat) : BitVec 64 := if r = 0 then 0 else look 0 k.regs r

/-- Write a register; s0 ignores it (R252). -/
def Cp.setReg (k : Cp) (r : Nat) (v : BitVec 64) : Cp := if r = 0 then k else { k with regs := put 0 k.regs r v }

/-- Fields of R253. -/
def fRd (w : Nat) : Nat := bits w 23 20
def fRs1 (w : Nat) : Nat := bits w 19 16
def fRs2 (w : Nat) : Nat := bits w 15 12
def fImm16 (w : Nat) : Int := signed 16 w
def fImm20 (w : Nat) : Int := signed 20 w

/-- Every bit of a mask is 0 in the instruction. -/
def reservedZero (w mask : Nat) : Bool := (w &&& mask) = 0

namespace State

/-! ### Fetch and the program counter (R252, R256) -/

/-- Fetch one instruction: the word and the cause its fetch meets, 0 for none; outside the instruction space it is UNMAPPED
(R252, R259). -/
def fetchWord (s : State) (p c pc : Nat) : (Nat × Nat) × State :=
  let y := (s.ctx p c).lay
  if 2 ^ 17 < pc + 4 then ((0, cUnmapped), s)
  else if !within y.imemBase y.imemSize pc 4 then ((0, cRange), s)
  else
    let r := s.memRead .imem p pc 4
    ((leNat r.1, if r.2.1 then cCpEcc else 0), r.2.2)

/-- Fetch the instruction at the program counter and the two after it. -/
def refill (s : State) (p c : Nat) : State :=
  let pc := (s.pr p).cp.pc
  let a := s.fetchWord p c pc
  let b := a.2.fetchWord p c (pc + 4)
  let d := b.2.fetchWord p c (pc + 8)
  let r := d.2.pr p
  d.2.setPr p { r with cp := { r.cp with pipe := [a.1, b.1, d.1] } }

/-- Go on to the next instruction, fetching one more. -/
def cpAdvance (s : State) (p c : Nat) : State :=
  let pc := ((s.pr p).cp.pc + 4) % 2 ^ 32
  let f := s.fetchWord p c (pc + 8)
  let r := f.2.pr p
  f.2.setPr p { r with cp := { r.cp with pc := pc, pipe := r.cp.pipe.drop 1 ++ [f.1] } }

/-- A taken branch or jump refills the fetched pair (R256). -/
def cpJump (s : State) (p c pc : Nat) : State :=
  let r := s.pr p
  (s.setPr p { r with cp := { r.cp with pc := pc } }).refill p c

def cpFault (s : State) (p c cause addr : Nat) : State := s.pressFault p c 4 (s.pr p).cp.pc cause addr

/-- Write a result and go on. -/
def cpResult (s : State) (p c rd : Nat) (v : BitVec 64) : State :=
  let r := s.pr p
  (s.setPr p { r with cp := r.cp.setReg rd v }).cpAdvance p c

/-- Run the instruction at the program counter when its opcode is `op`; `f` is given the context and the word. -/
def cpRow (s : State) (p op : Nat) (f : Nat → Nat → State) : State :=
  match s.issuing p with
  | none => s
  | some c =>
    let k := (s.pr p).cp
    if !k.running || k.wait ≠ .none then s
    else match k.pipe.head? with
      | none => s
      | some (w, cause) =>
        if cause ≠ 0 then s.cpFault p c cause (if cause = cCpEcc then 0 else k.pc)
        else if w / 2 ^ 24 = op then f c w
        else if cpOpcodes.contains (w / 2 ^ 24) then s
        else s.cpFault p c cIllegal 0

/-! ### Arithmetic -/

/-- FUNC of ALU (R254). -/
def aluOp (func : Nat) (a b : BitVec 64) : BitVec 64 :=
  match func with
  | 0 => a + b
  | 1 => a - b
  | 2 => a &&& b
  | 3 => a ||| b
  | 4 => a ^^^ b
  | 5 => a <<< (b.toNat % 64)
  | 6 => a >>> (b.toNat % 64)
  | 7 => a.sshiftRight (b.toNat % 64)
  | 8 => if a.toInt < b.toInt then 1 else 0
  | 9 => if a.toNat < b.toNat then 1 else 0
  | 10 => a * b
  | 11 => BitVec.ofNat 64 (a.toNat * b.toNat / 2 ^ 64)
  | 12 => if b = 0 then BitVec.allOnes 64 else BitVec.ofNat 64 (a.toNat / b.toNat)
  | _ => if b = 0 then a else BitVec.ofNat 64 (a.toNat % b.toNat)

def cpAlu (s : State) (p c w : Nat) : State :=
  let k := (s.pr p).cp
  let func := bits w 3 0
  if !reservedZero w 0xFF0 || 13 < func then s.cpFault p c cIllegal 0
  else s.cpResult p c (fRd w) (aluOp func (k.reg (fRs1 w)) (k.reg (fRs2 w)))

/-- An operation of rs1 and IMM16. -/
def cpImm (s : State) (p : Nat) (f : BitVec 64 → BitVec 64 → BitVec 64) (c w : Nat) : State :=
  s.cpResult p c (fRd w) (f ((s.pr p).cp.reg (fRs1 w)) (BitVec.ofInt 64 (fImm16 w)))

def cpShi (s : State) (p c w : Nat) : State :=
  let ty := bits w 7 6
  let a := (s.pr p).cp.reg (fRs1 w)
  if !reservedZero w 0xFF00 || ty = 3 then s.cpFault p c cIllegal 0
  else s.cpResult p c (fRd w) (aluOp (5 + ty) a (BitVec.ofNat 64 (bits w 5 0)))

/-- LI and LUI; rs1 must be s0. -/
def cpLoadImm (s : State) (p : Nat) (scale : Int) (c w : Nat) : State :=
  if fRs1 w ≠ 0 then s.cpFault p c cIllegal 0 else s.cpResult p c (fRd w) (BitVec.ofInt 64 (fImm16 w * scale))

/-! ### Loads and stores (R252) -/

/-- Where a CP data address of `n` bytes reaches, and what it meets: the memory and the offset in it, or the cause. -/
def cpData (s : State) (p c a n align : Nat) : Except Nat (Mem × Nat) :=
  let y := (s.ctx p c).lay
  if a % align ≠ 0 then .error cAlign
  else if a + n ≤ 2 ^ 18 then (if within y.dmemBase y.dmemSize a n then .ok (.dmem, a) else .error cRange)
  else if 2 ^ 20 ≤ a && a + n ≤ 2 ^ 20 + 2 ^ 17 then
    (if within y.imemBase y.imemSize (a - 2 ^ 20) n then .ok (.imem, a - 2 ^ 20) else .error cRange)
  else .error cUnmapped

/-- The address a load, store or descriptor names: rs1 + IMM16. -/
def cpAddr (s : State) (p w : Nat) : Nat := ((s.pr p).cp.reg (fRs1 w) + BitVec.ofInt 64 (fImm16 w)).toNat

/-- The address recorded for a fault (R260): the press address of CP data memory, otherwise the CP's own (log 41). -/
def cpFaultAddr (a : Nat) : Nat := if a < 2 ^ 18 then 2 ^ 30 + a else a

def cpLoad (s : State) (p n c w : Nat) : State :=
  let a := s.cpAddr p w
  match s.cpData p c a n n with
  | .error e => s.cpFault p c e (cpFaultAddr a)
  | .ok (m, o) =>
    let r := s.memRead m p o n
    if r.2.1 then r.2.2.cpFault p c cCpEcc (cpFaultAddr a)
    else r.2.2.cpResult p c (fRd w) (BitVec.ofNat 64 (leNat r.1))

def cpStore (s : State) (p n c w : Nat) : State :=
  let a := s.cpAddr p w
  match s.cpData p c a n n with
  | .error e => s.cpFault p c e (cpFaultAddr a)
  | .ok (m, o) => (s.memWrite m p o (leBytes n ((s.pr p).cp.reg (fRd w)).toNat)).cpAdvance p c

/-! ### Branches and jumps -/

def cpBranch (s : State) (p : Nat) (taken : BitVec 64 → BitVec 64 → Bool) (c w : Nat) : State :=
  let k := (s.pr p).cp
  if taken (k.reg (fRd w)) (k.reg (fRs1 w)) then s.cpJump p c (unsigned 32 ((k.pc : Int) + 4 * fImm16 w))
  else s.cpAdvance p c

/-- Write the link register, then jump. -/
def cpLink (s : State) (p c rd target : Nat) : State :=
  let r := s.pr p
  let s := s.setPr p { r with cp := r.cp.setReg rd (BitVec.ofNat 64 ((r.cp.pc + 4) % 2 ^ 32)) }
  s.cpJump p c target

/-! ### Queues (R204, R239, R255) -/

/-- Room for one more entry (R204). -/
def queueFull (k : Stream) : Bool := 32 ≤ k.queue.length

/-- The copy of a descriptor enters the queue, and the CP goes on (R255). -/
def enterQueue (s : State) (p c e a : Nat) : State :=
  let r := s.memRead .dmem p a 32
  if r.2.1 then r.2.2.cpFault p c cCpEcc (cpFaultAddr a)
  else
    let t := r.2.2
    let k := t.streamOf p c e
    let t := t.setStreamOf p c e { k with
      queue := k.queue ++ [{ pc := a, bytes := r.1 }]
      pc := if k.queue.isEmpty then a else k.pc }
    let q := t.pr p
    (t.setPr p { q with cp := { q.cp with wait := .none } }).cpAdvance p c

def cpQpush (s : State) (p c w : Nat) : State :=
  let e := bits w 21 20
  let a := s.cpAddr p w
  if !reservedZero w 0xC00000 then s.cpFault p c cIllegal 0
  else if (s.streamOf p c e).fetch then s.cpFault p c cQpushFetch 0
  else match s.cpData p c a 32 32 with
    | .error x => s.cpFault p c x (cpFaultAddr a)
    | .ok (m, o) =>
      if m ≠ .dmem then s.cpFault p c cUnmapped (cpFaultAddr a)
      else if queueFull (s.streamOf p c e) then
        let r := s.pr p
        s.setPr p { r with cp := { r.cp with wait := .queue e o } }
      else s.enterQueue p c e o

/-- The head of a queue has begun: its wait is over, or it runs. -/
def headBegun (k : Stream) : Bool := k.st = .busy || k.st = .stalled || k.waited

/-- Remove a waiter from every semaphore. -/
def dropWaiter (s : State) (p c who : Nat) : State :=
  let keep := fun (x : SemWaiter) => !(x.press = p && x.ctx = c && x.who = who)
  let f := fun (t : Tab (List SemWaiter)) =>
    (t.map fun (e : Nat × List SemWaiter) => (e.1, e.2.filter keep)).filter fun e => !e.2.isEmpty
  let s := s.setPr p { s.pr p with lsWait := f (s.pr p).lsWait }
  { s with press := { s.press with gsWait := f s.press.gsWait } }

/-- SYNC.IQ on one stream (R239). An entry that has begun is kept, and completes. -/
def syncIq (s : State) (p c e : Nat) : State :=
  let k := s.streamOf p c e
  if !k.fetch then s
  else
    let begun := headBegun k && !k.queue.isEmpty
    let kept := if begun then k.queue.take 1 else []
    let gone := if begun then k.queue.drop 1 else k.queue
    let isEnd := k.queue.head?.any fun q => q.bytes.getD 0 0 = 2
    let at_ := match gone with
      | q :: _ => q.pc
      | [] => if begun && !isEnd then k.pc + 32 else k.pc
    let s := if begun then s else s.dropWaiter p c e
    s.setStreamOf p c e { k with
      queue := kept
      fp := at_
      fetching := true
      pc := if begun then k.pc else at_
      st := if begun then k.st else .idle }

def cpSynciq (s : State) (p c w : Nat) : State :=
  if !reservedZero w 0xFFFFF0 then s.cpFault p c cIllegal 0
  else ((members 4 w).foldl (fun s e => s.syncIq p c e) s).cpAdvance p c

/-- FENCEIF: both fetched instructions are fetched again (R256). -/
def cpFenceif (s : State) (p c w : Nat) : State :=
  if !reservedZero w 0xFFFFFF then s.cpFault p c cIllegal 0
  else s.cpJump p c (((s.pr p).cp.pc + 4) % 2 ^ 32)

/-! ### Semaphores (R208, R210, R233, R254) -/

/-- The semaphore a CP instruction names, when its fields and its count are legal; otherwise the cause. -/
def cpSem (s : State) (p c w : Nat) (count : Option Nat) : Except Nat (Bool × Nat) :=
  let g := bit w 15
  let n := bits w 11 0
  if !reservedZero w 0xF7000 then .error cIllegal
  else match count with
    | some k =>
      if k = 0 || semMax g < k then .error cIllegal
      else match s.semCheck p c g n with
        | some e => .error e
        | none => .ok (g, n)
    | none => match s.semCheck p c g n with
      | some e => .error e
      | none => .ok (g, n)

def cpSemwait (s : State) (p c w : Nat) : State :=
  let k := ((s.pr p).cp.reg (fRd w)).toNat
  match s.cpSem p c w (some k) with
  | .error e => s.cpFault p c e 0
  | .ok (g, n) =>
    let r := s.semWait g n { press := p, ctx := c, who := 4, need := k }
    if r.1 then r.2.cpAdvance p c
    else
      let q := r.2.pr p
      (r.2.setPr p { q with cp := { q.cp with wait := .sem g n k } }).giveUp p

def cpSemsig (s : State) (p c w : Nat) : State :=
  let k := ((s.pr p).cp.reg (fRd w)).toNat
  match s.cpSem p c w (some k) with
  | .error e => s.cpFault p c e 0
  | .ok (g, n) =>
    let r := s.semSignal g p n k
    if r.1 then r.2.cpFault p c cSemOverflow 0 else r.2.cpAdvance p c

def cpSemread (s : State) (p c w : Nat) : State :=
  match s.cpSem p c w none with
  | .error e => s.cpFault p c e 0
  | .ok (g, n) => s.cpResult p c (fRd w) (BitVec.ofNat 64 (s.semCount g p n))

/-- Semaphores at which a waiter is the first, and its need is met. -/
def metSem (s : State) (p : Nat) (x : SemWaiter → Bool) : Option (Bool × Nat × SemWaiter) :=
  let find := fun (g : Bool) (t : Tab (List SemWaiter)) => t.findSome? fun e =>
    match e.2.head? with
    | some h => if x h && h.need ≤ s.semCount g p e.1 then some (g, e.1, h) else none
    | none => none
  match find false (s.pr p).lsWait with
  | some r => some r
  | none => find true s.press.gsWait

/-- A waiter is served: the CP of its context goes on, an engine's head may begin. A descheduled context that became runnable
has its turn next where the present one is not runnable (R208, R222). -/
def released (s : State) (p c who : Nat) : State :=
  if who = 4 then
    let k := { s.cpOf p c with wait := CpWait.none }
    let s := s.setCpOf p c k
    if (s.pr p).cur = c then s.cpAdvance p c
    else (s.setCpOf p c { k with pc := (k.pc + 4) % 2 ^ 32, pipe := [] }).giveUp p
  else
    let k := s.streamOf p c who
    (s.setStreamOf p c who { k with st := .idle, waited := true }).giveUp p

/-! ### Sync contributions (R212, R257) -/

def cpSyncc (s : State) (p c w : Nat) : State :=
  let a := s.cpAddr p w
  let y := (s.ctx p c).lay
  if !reservedZero w 0xF00000 then s.cpFault p c cIllegal 0
  else match s.cpData p c a 32 8 with
    | .error e => s.cpFault p c e (cpFaultAddr a)
    | .ok (m, o) =>
      if m ≠ .dmem then s.cpFault p c cUnmapped (cpFaultAddr a)
      else
        let r := s.memRead .dmem p o 32
        let t := r.2.2
        let d := fun (i n : Nat) => leNat ((r.1.drop i).take n)
        let id := d 12 2
        let ls := d 14 1
        let res := d 16 4
        let k := t.counter id
        if r.2.1 then t.cpFault p c cCpEcc (cpFaultAddr a)
        else if 4095 < id || 63 < ls || d 15 1 ≠ 0 || d 20 4 ≠ 0 || d 24 8 ≠ 0 then t.cpFault p c cIllegal 0
        else if res % 16 ≠ 0 then t.cpFault p c cAlign (cpFaultAddr res)
        else if 2 ^ 18 < res + 16 then t.cpFault p c cUnmapped (cpFaultAddr res)
        else if !within y.dmemBase y.dmemSize res 16 || !within y.lsFirst y.lsCount ls 1 then t.cpFault p c cRange (cpFaultAddr res)
        else if k.op = 0 || k.relay || !k.presses.getLsbD p then t.cpFault p c cSyncUnbound 0
        else
          let second := k.got.contains (256 + p)
          let x : SyncSlot :=
            { syncId := BitVec.ofNat 12 id, op := BitVec.ofNat 4 k.op, step := 0xFF,
              flags := if k.parity != second then 128 else 0,
              loc := if syncHasLoc k.op then BitVec.ofNat 32 (d 8 4) else 0, payload := BitVec.ofNat 64 (d 0 8) }
          let t := if 2 ≤ (k.waiters.filter fun v => v.1 = p).length then t
            else t.setCounter id { k with waiters := k.waiters ++ [(p, ls, res)] }
          (t.syncSlot (256 + p) x).cpAdvance p c

/-! ### Status and waiting (R240, R254) -/

def stNumber : StState → Nat
  | .idle => 0
  | .waiting => 1
  | .busy => 2
  | .stalled => 3

def cpEstat (s : State) (p c w : Nat) : State :=
  let k := s.streamOf p c (bits w 17 16)
  let field := bits w 3 0
  if !reservedZero w 0xCFFF0 || 5 < field then s.cpFault p c cIllegal 0
  else
    let v : Nat := match field with
      | 0 => k.flags.toNat
      | 1 => k.sat
      | 2 => k.inexact
      | 3 => k.pc
      | 4 => k.queue.length
      | _ => stNumber k.st
    s.cpResult p c (fRd w) (BitVec.ofNat 64 v)

def cpEclr (s : State) (p c w : Nat) : State :=
  if !reservedZero w 0xFFFFF0 then s.cpFault p c cIllegal 0
  else
    ((members 4 w).foldl (fun s e =>
      s.setStreamOf p c e { s.streamOf p c e with flags := 0, sat := 0, inexact := 0 }) s).cpAdvance p c

/-- Each engine of a mask is idle with an empty queue. -/
def enginesIdle (s : State) (p c mask : Nat) : Bool :=
  (members 4 mask).all fun e => (s.streamOf p c e).st = .idle && (s.streamOf p c e).queue.isEmpty

def cpEwait (s : State) (p c w : Nat) : State :=
  if !reservedZero w 0xFFFFF0 then s.cpFault p c cIllegal 0
  else if s.enginesIdle p c (bits w 3 0) then s.cpAdvance p c
  else
    let r := s.pr p
    s.setPr p { r with cp := { r.cp with wait := .engines (bits w 3 0) } }

def cpTime (s : State) (p c w : Nat) : State :=
  if !reservedZero w 0xFFFFF then s.cpFault p c cIllegal 0
  else s.cpResult p c (fRd w) (BitVec.ofNat 64 s.ns)

/-- HALT: the CP stops, and the press may have finished (R229). -/
def cpHalt (s : State) (p c w : Nat) : State :=
  if !reservedZero w 0xFFFFFF then s.cpFault p c cIllegal 0
  else
    let r := s.pr p
    ((s.setPr p { r with cp := { r.cp with running := false, halted := true, pipe := [] } }).finishCheck p c).giveUp p

end State

/-! ### The rows -/

def execAlu (p : Fin 64) (s : State) : Host.Outcome State Fault Refusal := .next (s.cpRow p.val 0x01 (s.cpAlu p.val))

def execAddi (p : Fin 64) (s : State) : Host.Outcome State Fault Refusal :=
  .next (s.cpRow p.val 0x02 (s.cpImm p.val fun a b => a + b))

def execAndi (p : Fin 64) (s : State) : Host.Outcome State Fault Refusal :=
  .next (s.cpRow p.val 0x03 (s.cpImm p.val fun a b => a &&& b))

def execOri (p : Fin 64) (s : State) : Host.Outcome State Fault Refusal :=
  .next (s.cpRow p.val 0x04 (s.cpImm p.val fun a b => a ||| b))

def execXori (p : Fin 64) (s : State) : Host.Outcome State Fault Refusal :=
  .next (s.cpRow p.val 0x05 (s.cpImm p.val fun a b => a ^^^ b))

def execShi (p : Fin 64) (s : State) : Host.Outcome State Fault Refusal := .next (s.cpRow p.val 0x06 (s.cpShi p.val))

def execLi (p : Fin 64) (s : State) : Host.Outcome State Fault Refusal := .next (s.cpRow p.val 0x07 (s.cpLoadImm p.val 1))

def execLui (p : Fin 64) (s : State) : Host.Outcome State Fault Refusal :=
  .next (s.cpRow p.val 0x08 (s.cpLoadImm p.val 65536))

def execSlti (p : Fin 64) (s : State) : Host.Outcome State Fault Refusal :=
  .next (s.cpRow p.val 0x09 (s.cpImm p.val fun a b => if a.toInt < b.toInt then 1 else 0))

def execLd (p : Fin 64) (s : State) : Host.Outcome State Fault Refusal := .next (s.cpRow p.val 0x10 (s.cpLoad p.val 8))

def execLw (p : Fin 64) (s : State) : Host.Outcome State Fault Refusal := .next (s.cpRow p.val 0x11 (s.cpLoad p.val 4))

def execLh (p : Fin 64) (s : State) : Host.Outcome State Fault Refusal := .next (s.cpRow p.val 0x12 (s.cpLoad p.val 2))

def execLb (p : Fin 64) (s : State) : Host.Outcome State Fault Refusal := .next (s.cpRow p.val 0x13 (s.cpLoad p.val 1))

def execSd (p : Fin 64) (s : State) : Host.Outcome State Fault Refusal := .next (s.cpRow p.val 0x14 (s.cpStore p.val 8))

def execSw (p : Fin 64) (s : State) : Host.Outcome State Fault Refusal := .next (s.cpRow p.val 0x15 (s.cpStore p.val 4))

def execSh (p : Fin 64) (s : State) : Host.Outcome State Fault Refusal := .next (s.cpRow p.val 0x16 (s.cpStore p.val 2))

def execSb (p : Fin 64) (s : State) : Host.Outcome State Fault Refusal := .next (s.cpRow p.val 0x17 (s.cpStore p.val 1))

def execBeq (p : Fin 64) (s : State) : Host.Outcome State Fault Refusal :=
  .next (s.cpRow p.val 0x20 (s.cpBranch p.val fun a b => a = b))

def execBne (p : Fin 64) (s : State) : Host.Outcome State Fault Refusal :=
  .next (s.cpRow p.val 0x21 (s.cpBranch p.val fun a b => a ≠ b))

def execBlt (p : Fin 64) (s : State) : Host.Outcome State Fault Refusal :=
  .next (s.cpRow p.val 0x22 (s.cpBranch p.val fun a b => a.toInt < b.toInt))

def execBge (p : Fin 64) (s : State) : Host.Outcome State Fault Refusal :=
  .next (s.cpRow p.val 0x23 (s.cpBranch p.val fun a b => b.toInt ≤ a.toInt))

def execBltu (p : Fin 64) (s : State) : Host.Outcome State Fault Refusal :=
  .next (s.cpRow p.val 0x24 (s.cpBranch p.val fun a b => a.toNat < b.toNat))

def execBgeu (p : Fin 64) (s : State) : Host.Outcome State Fault Refusal :=
  .next (s.cpRow p.val 0x25 (s.cpBranch p.val fun a b => b.toNat ≤ a.toNat))

def execJal (p : Fin 64) (s : State) : Host.Outcome State Fault Refusal :=
  .next (s.cpRow p.val 0x28 fun c w =>
    s.cpLink p.val c (fRd w) (unsigned 32 (((s.pr p.val).cp.pc : Int) + 4 * fImm20 w)))

def execJalr (p : Fin 64) (s : State) : Host.Outcome State Fault Refusal :=
  .next (s.cpRow p.val 0x29 fun c w => s.cpLink p.val c (fRd w) (s.cpAddr p.val w % 2 ^ 32 / 4 * 4))

def execQpush (p : Fin 64) (s : State) : Host.Outcome State Fault Refusal := .next (s.cpRow p.val 0x30 (s.cpQpush p.val))

/-- QPUSH_ENTER (R204, R255): an entry has become free. -/
def execQpushEnter (p : Fin 64) (s : State) : Host.Outcome State Fault Refusal :=
  match s.issuing p.val with
  | none => .next s
  | some c =>
    match (s.pr p.val).cp.wait with
    | .queue e a => .next (if State.queueFull (s.streamOf p.val c e) then s else s.enterQueue p.val c e a)
    | _ => .next s

def execSynciq (p : Fin 64) (s : State) : Host.Outcome State Fault Refusal := .next (s.cpRow p.val 0x31 (s.cpSynciq p.val))

def execFenceif (p : Fin 64) (s : State) : Host.Outcome State Fault Refusal :=
  .next (s.cpRow p.val 0x32 (s.cpFenceif p.val))

def execSemwait (p : Fin 64) (s : State) : Host.Outcome State Fault Refusal :=
  .next (s.cpRow p.val 0x33 (s.cpSemwait p.val))

def execSemsig (p : Fin 64) (s : State) : Host.Outcome State Fault Refusal := .next (s.cpRow p.val 0x34 (s.cpSemsig p.val))

def execSemread (p : Fin 64) (s : State) : Host.Outcome State Fault Refusal :=
  .next (s.cpRow p.val 0x35 (s.cpSemread p.val))

/-- SEM_WAIT_RELEASE (R208): the first waiter of a semaphore is the named one of this press, and its need is met. -/
def execSemWaitRelease (p : Fin 64) (who : Fin 5) (s : State) : Host.Outcome State Fault Refusal :=
  match s.metSem p.val fun h => h.press = p.val && h.who = who.val with
  | none => .next s
  | some (g, n, h) =>
    let r := s.semRelease g n h
    .next (if r.1 then r.2.released p.val h.ctx who.val else s)

def execSyncc (p : Fin 64) (s : State) : Host.Outcome State Fault Refusal := .next (s.cpRow p.val 0x36 (s.cpSyncc p.val))

/-- SYNC_RESULT_WRITE (R212, R257): the result goes to CP data memory, then the local semaphore is signalled. -/
def execSyncResultWrite (p : Fin 64) (syncId : BitVec 12) (s : State) : Host.Outcome State Fault Refusal :=
  let k := s.counter syncId.toNat
  match k.due.find? fun d => d.press = p.val with
  | none => .next s
  | some d =>
    let s := s.setCounter syncId.toNat { k with due := k.due.erase d }
    let s := s.memWrite .dmem p.val d.addr
      (leBytes 8 d.value.toNat ++ leBytes 4 d.loc.toNat ++ leBytes 1 d.flags ++ [0, 0, 0])
    .next (s.signalFromOutside p.val d.ls)

def execEstat (p : Fin 64) (s : State) : Host.Outcome State Fault Refusal := .next (s.cpRow p.val 0x37 (s.cpEstat p.val))

def execEclr (p : Fin 64) (s : State) : Host.Outcome State Fault Refusal := .next (s.cpRow p.val 0x38 (s.cpEclr p.val))

def execEwait (p : Fin 64) (s : State) : Host.Outcome State Fault Refusal := .next (s.cpRow p.val 0x39 (s.cpEwait p.val))

/-- EWAIT_RELEASE (R254): each engine waited for is idle with an empty queue. -/
def execEwaitRelease (p : Fin 64) (s : State) : Host.Outcome State Fault Refusal :=
  match s.issuing p.val with
  | none => .next s
  | some c =>
    match (s.pr p.val).cp.wait with
    | .engines m =>
      let r := s.pr p.val
      .next (if s.enginesIdle p.val c m then
        (s.setPr p.val { r with cp := { r.cp with wait := .none } }).cpAdvance p.val c else s)
    | _ => .next s

def execTime (p : Fin 64) (s : State) : Host.Outcome State Fault Refusal := .next (s.cpRow p.val 0x3A (s.cpTime p.val))

def execHalt (p : Fin 64) (s : State) : Host.Outcome State Fault Refusal := .next (s.cpRow p.val 0x3F (s.cpHalt p.val))

end Sys2Proof.Machine
end

