-- ==== Sys2Proof/Machine/Streams.lean ====
section
/-!
DEFINITION. Engine streams (R204, R205, R232-R240): the header and the loop nest, how an instruction comes to begin, fetching,
and the macro-instructions of every engine. A row acts when the head of the engine's queue has the row's opcode; an opcode
that the engine does not accept is ILLEGAL under whichever row is sent (log 40). An instruction's wait, checks and reads
happen at its row, and MACRO_COMPLETE ends it (log 42).
-/

namespace Sys2Proof.Machine

/-! ### Fields of a macro-instruction (R232) -/

/-- `n` bytes at offset `i`, as a number. -/
def mField (b : List Byte) (i n : Nat) : Nat := leNat ((b.drop i).take n)

def mOpc (b : List Byte) : Nat := mField b 0 1
def mAdv (b : List Byte) : Nat := mField b 1 1
def mWaitK (b : List Byte) : Nat := mField b 4 1
def mSigK (b : List Byte) : Nat := mField b 5 1
def mWaitSem (b : List Byte) : Nat := mField b 2 2 % 4096
def mWaitG (b : List Byte) : Bool := bit (mField b 2 2) 12
def mSigSem (b : List Byte) : Nat := mField b 6 2 % 4096
def mSigG (b : List Byte) : Bool := bit (mField b 6 2) 12

/-- Iterations of loop level `k`. -/
def mLoop (b : List Byte) (k : Nat) : Nat := mField b (8 + 2 * k) 2 + 1

/-- Iterations of the whole nest. -/
def mCount (b : List Byte) : Nat := mLoop b 0 * mLoop b 1 * mLoop b 2 * mLoop b 3

/-- The four loop fields are 0. -/
def noLoop (b : List Byte) : Bool := mField b 8 8 = 0

/-- A bit field of one byte. -/
def mBits (b : List Byte) (i hi lo : Nat) : Nat := bits (mField b i 1) hi lo

/-- Effective address of register `r` at linear iteration `j` (R236); `ignore0` treats the stride of L0 as 0. -/
def effAddr (k : Stream) (b : List Byte) (r j : Nat) (ignore0 : Bool := false) : Nat :=
  let a := look {} k.areg r
  let i0 := j % mLoop b 0
  let i1 := j / mLoop b 0 % mLoop b 1
  let i2 := j / (mLoop b 0 * mLoop b 1) % mLoop b 2
  let i3 := j / (mLoop b 0 * mLoop b 1 * mLoop b 2)
  unsigned 40 (a.cur + (if ignore0 then 0 else i0 * a.s0) + i1 * a.s1 + i2 * a.s2 + i3 * a.s3)

/-- The opcodes an engine accepts (R234): 0 TE, 1 VE, 2 RE0, 3 RE1. -/
def engineAccepts (e opc : Nat) : Bool :=
  opc ≤ 2 || (e = 0 && opc = 0x10) || (e = 1 && 0x20 ≤ opc && opc ≤ 0x28) ||
    (2 ≤ e && (opc = 0x30 || opc = 0x31)) || (e = 3 && opc = 0x32)

/-- What a body meets: nothing, or a cause and the press address concerned. -/
abbrev Met := Option (Nat × Nat)

/-- Iterations `j`, `j + 1`, … in order, until one meets a cause. -/
def iterate (f : Nat → State → Met × State) : Nat → Nat → State → Met × State
  | 0, _, s => (none, s)
  | n + 1, j, s =>
    let r := f j s
    match r.1 with
    | some e => (some e, r.2)
    | none => iterate f n (j + 1) r.2

namespace State

/-- The context whose current instructions go on, whether or not a switch is due (R221). -/
def working (s : State) (p : Nat) : Option Nat :=
  let c := (s.pr p).cur
  if (s.ctx p c).st = .running then some c else none

/-! ### Reading and writing pads for an engine -/

/-- What the instructions in progress of other streams of press `p` have overwritten: theirs are the only writes that nothing
orders before a read, since an instruction signals when it completes (R206, R209). -/
def unorderedWrites (s : State) (p c e : Nat) : List (Nat × List Byte) :=
  (List.range 4).flatMap fun f => if f = e then [] else (s.streamOf p c f).before

/-- The byte at `a` before the first of the writes that touched it. -/
def byteBefore (ws : List (Nat × List Byte)) (a : Nat) (b : Byte) : Byte :=
  ws.foldl (fun b w => if w.1 ≤ a && a < w.1 + w.2.length then w.2.getD (a - w.1) 0 else b) b

/-- Bytes read at `a` in the pads: of each aligned 32-byte unit that an instruction in progress of another stream has written,
the old or the new content, a free choice for each unit (R206). -/
def unordered (s : State) (p c e a : Nat) (bs : List Byte) : List Byte × State :=
  let ws := (s.unorderedWrites p c e).filter fun w => a < w.1 + w.2.length && w.1 < a + bs.length
  if ws.isEmpty then (bs, s)
  else
    let old := fun (i : Nat) => Config.freeNat (s.free + ((a + i) / 32 - a / 32)) % 2 = 1
    (bs.zipIdx.map fun x => if old x.2 then byteBefore ws (a + x.2) x.1 else x.1,
     { s with free := s.free + (bs.length / 32 + 2) })

/-- Read from the own pad at a press address: the bytes, or what is met. -/
def padRead (s : State) (p c e a n : Nat) : Except (Nat × Nat) (List Byte) × State :=
  match s.access p c e false a n with
  | .error x => (.error (x, a), s)
  | .ok (.pad o) =>
    let r := s.memRead .pad p o n
    let u := r.2.2.unordered p c e (p * 2 ^ 21 + o) r.1
    (if r.2.1 then .error (cPadEcc, a) else .ok u.1, u.2)
  | .ok _ => (.error (cUnmapped, a), s)

/-- The instruction in progress overwrites bytes of a pad: what stood there is noted (R206). -/
def noteBefore (s : State) (p c e q o n : Nat) : State :=
  let k := s.streamOf p c e
  s.setStreamOf p c e { k with before := (q * 2 ^ 21 + o, readMem s.press.pad (q * 2 ^ 21 + o) n) :: k.before }

/-- Write to the own pad at a press address. -/
def padWrite (s : State) (p c e a : Nat) (bs : List Byte) : Met × State :=
  match s.access p c e true a bs.length with
  | .error x => (some (x, a), s)
  | .ok (.pad o) => (none, (s.noteBefore p c e p o bs.length).memWrite .pad p o bs)
  | .ok _ => (some (cUnmapped, a), s)

/-- Regions of the list that the context may write, as an abandoned instruction leaves them unspecified (R230). -/
def destRegions (s : State) (p c e : Nat) (rs : List (Nat × Nat)) : List (Nat × Nat) :=
  rs.filter fun r => match s.access p c e true r.1 r.2 with
    | .ok _ => true
    | .error _ => false

/-! ### Beginning an instruction (R233, R237, R260) -/

/-- What the header meets before the wait. -/
def headerCheck (s : State) (p c e : Nat) (b : List Byte) : Option Nat :=
  let w := mField b 2 2
  let g := mField b 6 2
  if 8192 ≤ w || 8192 ≤ g then some cIllegal
  else if e < 2 && (bit w 12 || bit g 12) then some cIllegal
  else
    let a := if mWaitK b = 0 then none else s.semCheck p c (mWaitG b) (mWaitSem b)
    let d := if mSigK b = 0 then none else s.semCheck p c (mSigG b) (mSigSem b)
    a.orElse fun _ => d

/-- The region of the head that a begun instruction writes is noted, and it runs. -/
def beginHead (s : State) (p c e : Nat) (dest : List (Nat × Nat)) : State :=
  let k := s.streamOf p c e
  s.setStreamOf p c e { k with
    st := .busy
    waited := true
    began := s.mono
    dest := s.destRegions p c e dest
    curFlags := 0
    curSat := 0
    curInexact := 0
    draws := 0
    before := []
    tiles := []
    pours := []
    iter := 0 }

/-- Run the head of an engine's queue when its opcode is `op`: the checks made before the wait, of the header and by `check`;
the wait; then `dest` and `body` of the instruction that begins. -/
def engineRow (s : State) (p e op : Nat) (check : List Byte → Option Nat)
    (dest : Stream → List Byte → List (Nat × Nat)) (body : Nat → List Byte → State → Met × State) : State :=
  match s.issuing p with
  | none => s
  | some c =>
    let k := s.streamOf p c e
    match k.queue.head? with
    | none => s
    | some q =>
      let b := q.bytes
      let stop := fun (cause addr : Nat) => s.pressFault p c e q.pc cause addr
      if k.st ≠ .idle then s
      else if q.cause ≠ 0 then stop q.cause (2 ^ 30 + q.pc)
      else if !engineAccepts e (mOpc b) then stop cIllegal 0
      else if mOpc b ≠ op then s
      else match (s.headerCheck p c e b).orElse fun _ => check b with
        | some x => stop x (if x = cAlign then mField b 16 5 else 0)
        | none =>
          let r := if k.waited || mWaitK b = 0 then (true, s)
            else s.semWait (mWaitG b) (mWaitSem b) { press := p, ctx := c, who := e, need := mWaitK b }
          if !r.1 then (r.2.setStreamOf p c e { k with st := .waiting }).giveUp p
          else
            let t := r.2.beginHead p c e (dest k b)
            let y := body c b t
            match y.1 with
            | some x => y.2.pressFault p c e q.pc x.1 x.2
            | none => y.2

/-- Add to the status of the instruction in progress (R240); a new NaN sets FS 0x4F1 and a saturated element of the tensor
engine FS 0x4F0 (R42, R54). -/
def addStatus (s : State) (p c e flags sat inexact : Nat) : State :=
  let k := s.streamOf p c e
  let s := s.setStreamOf p c e { k with
    curFlags := k.curFlags ||| BitVec.ofNat 5 (flags % 32)
    curSat := k.curSat + sat
    curInexact := k.curInexact + inexact }
  let s := if bit flags 5 then s.assertIn 0x4F1 (.press p) else s
  if e = 0 && sat ≠ 0 then s.assertIn 0x4F0 (.press p) else s

end State

/-! ### The rows of every engine -/

/-- STREAM_FETCH (R204, R238): one entry enters the queue; fetching stops after an END. -/
def execStreamFetch (p : Fin 64) (e : Fin 4) (s : State) : Host.Outcome State Fault Refusal :=
  match s.issuing p.val with
  | none => .next s
  | some c =>
    let k := s.streamOf p.val c e.val
    let y := (s.ctx p.val c).lay
    if !k.fetch || !k.fetching || State.queueFull k then .next s
    else
      let inside := State.within y.dmemBase y.dmemSize k.fp 32
      let r := s.memRead .dmem p.val k.fp 32
      let q : QMacro := if !inside then { pc := k.fp, bytes := [], cause := cRange }
        else { pc := k.fp, bytes := r.1, cause := if r.2.1 then cCpEcc else 0 }
      let t := if inside then r.2.2 else s
      .next (t.setStreamOf p.val c e.val { t.streamOf p.val c e.val with
        queue := k.queue ++ [q]
        pc := if k.queue.isEmpty then k.fp else k.pc
        fp := k.fp + 32
        fetching := !(q.cause = 0 && mOpc q.bytes = 2) })

/-- NOP (R234): wait and signal only; the loop fields must be 0. -/
def execNop (p : Fin 64) (e : Fin 4) (s : State) : Host.Outcome State Fault Refusal :=
  .next (s.engineRow p.val e.val 0x00 (fun b => if noLoop b then none else some cIllegal) (fun _ _ => [])
    fun _ _ t => (none, t))

/-- AREG (R235): load one address register. -/
def execAreg (p : Fin 64) (e : Fin 4) (s : State) : Host.Outcome State Fault Refusal :=
  .next (s.engineRow p.val e.val 0x01
    (fun b => if mAdv b ≠ 0 || !noLoop b || mBits b 21 3 3 ≠ 0 || mField b 22 2 ≠ 0 then some cIllegal
      else if mField b 16 5 % 32 ≠ 0 then some cAlign else none)
    (fun _ _ => [])
    fun c b t =>
      let k := t.streamOf p.val c e.val
      let unit : Int := (2 ^ (mBits b 21 7 4 + 5) : Nat)
      let st := fun (i : Nat) => signed 16 (mField b (24 + 2 * i) 2) * unit
      let a : AddrReg := { cur := mField b 16 5, s0 := st 0, s1 := st 1, s2 := st 2, s3 := st 3 }
      (none, t.setStreamOf p.val c e.val { k with areg := put {} k.areg (mBits b 21 2 0) a }))

/-- END (R238): the stream becomes idle when the instruction completes. -/
def execEndStream (p : Fin 64) (e : Fin 4) (s : State) : Host.Outcome State Fault Refusal :=
  .next (s.engineRow p.val e.val 0x02 (fun _ => none) (fun _ _ => []) fun _ _ t => (none, t))

end Sys2Proof.Machine
end

