-- ==== Sys2Proof/Machine/Tensor.lean ====
section
/-!
DEFINITION. The tensor engine (R49-R56, R216-R218, R241-R243): TMM loads its weight tiles, from the pad or by draws of the
local stave, and forms its output when the last draw has completed.
-/

namespace Sys2Proof.Machine

/-- The operand fields of TMM (R241). -/
structure Tmm where
  x : Nat
  w : Nat
  o : Nat
  sr : Option Nat
  cr : Option Nat
  shape : Nat
  fmt : Nat
  ofmt : Nat
  fixed : Bool
  wide : Bool
  trunc : Bool
  rows : Nat
  anchor : Int
  xpitch : Nat
  opitch : Nat
  deriving DecidableEq, Repr

def tmmOf (b : List Byte) : Tmm :=
  { x := mBits b 16 2 0
    w := mBits b 16 6 4
    o := mBits b 17 2 0
    sr := if mBits b 17 7 7 = 1 then some (mBits b 17 6 4) else none
    cr := if mBits b 18 3 3 = 1 then some (mBits b 18 2 0) else none
    shape := mBits b 19 1 0
    fmt := mField b 20 1
    ofmt := mField b 21 1
    fixed := mBits b 22 0 0 = 1
    wide := mBits b 22 1 1 = 1
    trunc := mBits b 22 2 2 = 1
    rows := mField b 24 2
    anchor := signed 16 (mField b 26 2)
    xpitch := mField b 28 2
    opitch := mField b 30 2 }

/-- Tile shapes K × N (R242). -/
def tileShape (fmt shape : Nat) : Option (Nat × Nat) :=
  if fmt = 3 then (if shape = 0 then some (128, 128) else none)
  else if fmt = 2 then (if shape = 0 then some (256, 128) else if shape = 1 then some (128, 256) else none)
  else if fmt = 1 then
    (if shape = 0 then some (512, 128) else if shape = 1 then some (256, 256) else if shape = 2 then some (128, 512) else none)
  else none

/-- The checks that depend on the fields alone (R241, R242, R260). -/
def tmmCheck (b : List Byte) : Option Nat :=
  let t := tmmOf b
  let reserved := mBits b 16 3 3 + mBits b 16 7 7 + mBits b 17 3 3 + mBits b 18 7 4 + mBits b 19 7 2 + mBits b 22 7 3
    + mField b 23 1
  let n := ((tileShape t.fmt t.shape).map Prod.snd).getD 0
  let raw := fmtAcc t.ofmt
  if reserved ≠ 0 || n = 0 || !(fmtLg t.ofmt || fmtIeee t.ofmt || raw) || t.rows = 0 || 4096 < t.rows
      || (if t.wide then 8192 else 16384) < t.rows * n
      || (raw && ((t.ofmt = 0x31) != t.wide || t.opitch ≠ 0)) then some cIllegal
  else none

/-- Bytes of one output row and its pitch; of a raw output the whole region is one row (R243). -/
def tmmOut (t : Tmm) (n : Nat) : Nat × Nat × Nat :=
  if fmtAcc t.ofmt then (1, t.rows * n * (fmtBits t.ofmt / 8) + ceilDiv (t.rows * n) 32 * 32 + 32, 0)
  else
    let len := packedLen t.ofmt n
    (t.rows, len, if t.opitch = 0 then len else t.opitch * 32)

/-- Output regions of a pass, by its first iteration. -/
def passRegions (k : Stream) (b : List Byte) (pass : Nat) : List (Nat × Nat) :=
  let t := tmmOf b
  let n := ((tileShape t.fmt t.shape).map Prod.snd).getD 0
  let o := tmmOut t n
  let base := effAddr k b t.o (pass * mLoop b 0) true
  (List.range o.1).map fun r => ((base + r * o.2.2) % 2 ^ 40, o.2.1)

def passes (b : List Byte) : Nat := mLoop b 1 * mLoop b 2 * mLoop b 3

def tmmDest (k : Stream) (b : List Byte) : List (Nat × Nat) := (List.range (passes b)).flatMap (passRegions k b)

/-! ### Accumulation (R49-R55) -/

/-- The largest log among finite nonzero elements, with the scale of each element's row or column. -/
def maxLog (es : List (Val × Int)) : Option Int :=
  es.foldl (fun m e => match e.1 with
    | .lg _ l => some (max (m.getD (l + e.2)) (l + e.2))
    | _ => m) none

/-- One beat of one output element: K products in an adder tree, then the check (R51, R54, R55). Bit 6 of the flags notes an
infinity times zero (R42). -/
def dotBeat (wide : Bool) (anchor scale : Int) (xs ws : List Val) (x : Acc) : Acc :=
  let r := (xs.zip ws).foldl (fun (a : Acc × Int × Bool) (v : Val × Val) =>
    let newNan := match v.1, v.2 with
      | .inf _, .zero _ => true
      | .zero _, .inf _ => true
      | _, _ => false
    let q := productInto v.1 v.2 scale (if newNan then { a.1 with fl := setBit a.1.fl 6 } else a.1)
    match q.2 with
    | some pr =>
      let d := addend anchor pr
      (q.1, a.2.1 + d.1, a.2.2 || d.2)
    | none => (q.1, a.2)) (x, 0, false)
  accAdd wide r.1 r.2.1 r.2.2

/-- The accumulators of a pass and their anchor, none before the first tile with a finite nonzero element. -/
structure PassAcc where
  anchor : Option Int := none
  accs : List Acc
  deriving DecidableEq, Repr

/-- One tile against the row block: rows `xs` with their scales, columns `ws` with theirs (R49-R53). -/
def tileStep (fixed : Option Int) (wide : Bool) (xs ws : List (List Val × Int)) (a : PassAcc) : PassAcc :=
  let mx := fun (ys : List (List Val × Int)) => maxLog (ys.flatMap fun y => y.1.map fun v => (v, y.2))
  let new : Option Int := match fixed with
    | some f => some f
    | none => match mx xs, mx ws with
      | some p, some q => some (match a.anchor with
        | some o => max o ((p + q) / 256)
        | none => (p + q) / 256)
      | _, _ => a.anchor
  let accs := match a.anchor, new with
    | some o, some m => if o < m then a.accs.map (accShift (m - o).toNat) else a.accs
    | _, _ => a.accs
  let n := ws.length
  { anchor := new
    accs := accs.zipIdx.map fun e =>
      let x := xs.getD (e.2 / n) ([], 0)
      let w := ws.getD (e.2 % n) ([], 0)
      dotBeat wide (new.getD 0) (x.2 + w.2) x.1 w.1 e.1 }

/-- Columns of a tile stored k-major (R242). -/
def tileColumns (fmt kk n : Nat) (bytes : List Byte) : List (List Val) :=
  let cs := (unpackElems fmt bytes (kk * n)).map (decodeVal fmt)
  (List.range n).map fun j => (List.range kk).map fun i => cs.getD (i * n + j) (.zero false)

namespace State

/-- Read rows of `len` bytes at a pitch, for the tensor engine. -/
def readRows (s : State) (p c a pitch len : Nat) : Nat → Nat → Except (Nat × Nat) (List (List Byte)) × State
  | 0, _ => (.ok [], s)
  | n + 1, r =>
    match s.padRead p c 0 ((a + r * pitch) % 2 ^ 40) len with
    | (.error x, s) => (.error x, s)
    | (.ok bs, s) =>
      match readRows s p c a pitch len n (r + 1) with
      | (.error x, s) => (.error x, s)
      | (.ok rest, s) => (.ok (bs :: rest), s)

/-- Signed 16-bit scales at a register, or zeros. -/
def readScales (s : State) (p c : Nat) (k : Stream) (b : List Byte) (reg : Option Nat) (j n : Nat) :
    Except (Nat × Nat) (List Int) × State :=
  match reg with
  | none => (.ok (List.replicate n 0), s)
  | some r =>
    match s.padRead p c 0 (effAddr k b r j true) (2 * n) with
    | (.error x, s) => (.error x, s)
    | (.ok bs, s) => (.ok ((List.range n).map fun i => signed 16 (mField bs (2 * i) 2)), s)

/-- The bytes of the tile of iteration `j`: in the pad, or as the draws brought them. -/
def readTile (s : State) (p c : Nat) (k : Stream) (b : List Byte) (t : Tmm) (j : Nat) : Except (Nat × Nat) (List Byte) × State :=
  let a := effAddr k b t.w j
  if a < 2 ^ 32 then s.padRead p c 0 a 32768 else (.ok (readMem k.tiles (j * 32768) 32768), s)

/-- Accumulate the tiles `i`, … of a pass (R243). -/
def passTiles (s : State) (p c : Nat) (k : Stream) (b : List Byte) (t : Tmm) (kk n first : Nat) (rs cs : List Int) :
    Nat → Nat → PassAcc → Except (Nat × Nat) PassAcc × State
  | 0, _, a => (.ok a, s)
  | m + 1, i, a =>
    let j := first + i
    match s.readTile p c k b t j with
    | (.error x, s) => (.error x, s)
    | (.ok tile, s) =>
      let len := packedLen t.fmt kk
      match s.readRows p c (effAddr k b t.x j) (if t.xpitch = 0 then len else t.xpitch * 32) len t.rows 0 with
      | (.error x, s) => (.error x, s)
      | (.ok rows, s) =>
        let xs := (rows.map fun r => (unpackElems t.fmt r kk).map (decodeVal t.fmt)).zip rs
        let ws := (tileColumns t.fmt kk n tile).zip cs
        passTiles s p c k b t kk n first rs cs m (i + 1) (tileStep (if t.fixed then some t.anchor else none) t.wide xs ws a)

/-- What a pass writes, with the flags of its elements (R56, R243). The anchor of a raw output without any finite nonzero
element is free (log 7). -/
def passOutput (s : State) (t : Tmm) (n : Nat) (a : PassAcc) : List (List Byte) × Nat × State :=
  if fmtAcc t.ofmt then
    let w := fmtBits t.ofmt
    let fl := a.accs.map fun x => BitVec.ofNat 8 (x.fl % 64)
    let anchor := unsigned 16 (a.anchor.getD (Config.freeNat s.free))
    let s := if a.anchor.isNone then { s with free := s.free + 1 } else s
    ([(a.accs.flatMap fun x => leBytes (w / 8) (unsigned w x.v)) ++ fl
      ++ List.replicate (ceilDiv fl.length 32 * 32 - fl.length) 0 ++ leBytes 2 anchor ++ List.replicate 30 0], 0, s)
  else
    let cs := a.accs.map fun x => accConvert t.ofmt { x with fl := x.fl % 64 } (a.anchor.getD 0 - 47) t.trunc
    ((List.range t.rows).map fun r => packElems t.ofmt (((cs.drop (r * n)).take n).map Prod.fst),
     cs.foldl (fun f x => flOr f x.2) 0, s)

/-- Write the rows of a pass at its regions. -/
def writeRegions (s : State) (p c e : Nat) : List (Nat × Nat) → List (List Byte) → Met × State
  | r :: rs, b :: bs =>
    match s.padWrite p c e r.1 b with
    | (some x, s) => (some x, s)
    | (none, s) => writeRegions s p c e rs bs
  | _, _ => (none, s)

/-- One pass of a TMM: clear, accumulate, convert, write (R243). -/
def tmmPass (p c : Nat) (k : Stream) (b : List Byte) (pass : Nat) (s : State) : Met × State :=
  let t := tmmOf b
  let sh := (tileShape t.fmt t.shape).getD (0, 1)
  let n := sh.2
  let first := pass * mLoop b 0
  match s.readScales p c k b t.sr first t.rows with
  | (.error x, s) => (some x, s)
  | (.ok rs, s) =>
    match s.readScales p c k b t.cr first n with
    | (.error x, s) => (some x, s)
    | (.ok cs, s) =>
      match s.passTiles p c k b t sh.1 n first rs cs (mLoop b 0) 0 { accs := List.replicate (t.rows * n) {} } with
      | (.error x, s) => (some x, s)
      | (.ok a, s) =>
        let out := s.passOutput t n a
        let w := out.2.2.writeRegions p c 0 (passRegions k b pass) out.1
        let sat := (a.accs.filter fun x => bit x.fl 0).length
        let inexact := (a.accs.filter fun x => bit x.fl 5).length
        let bad := a.accs.any fun x => bit x.fl 6 || (bit x.fl 2 && bit x.fl 3)
        let fl := flOr out.2.1 (flOr (if bad then flInvalid + flNewNan else 0) (if inexact ≠ 0 then flInexact else 0))
        (w.1, w.2.addStatus p c 0 fl sat inexact)

/-- The output of a TMM whose tiles have all been read. -/
def tmmFinish (s : State) (p c : Nat) (b : List Byte) : Met × State :=
  let k := s.streamOf p c 0
  iterate (tmmPass p c k b) (passes b) 0 s

/-- Request one tile from the local stave (R216, R218); a fenced requester is refused (R281). -/
def tileDraws (p c : Nat) (b : List Byte) (j : Nat) (s : State) : Met × State :=
  let k := s.streamOf p c 0
  let a := effAddr k b (tmmOf b).w j
  match s.access p c 0 false a 32768 with
  | .error x => (some (x, a), s)
  | .ok (.cellar d) =>
    if (d + 32767) / staveBytes ≠ p then (some (cUnmapped, a), s)
    else if s.reqFenced d 0 then (some (cCelPoison, a), s)
    else
      let ps := piecesOf 4096 d 32768
      let s := s.setStreamOf p c 0 { k with draws := k.draws + ps.length }
      (none, ps.foldl (fun s q => s.request 0 q.1 q.2 (.tile p c (j * 32768 + (q.1 - d)))) s)
  | .ok _ => (none, s)

end State

/-- TMM (R241-R243): the tiles are requested in iteration order. -/
def execTmm (p : Fin 64) (s : State) : Host.Outcome State Fault Refusal :=
  .next (s.engineRow p.val 0 0x10 tmmCheck tmmDest fun c b t => iterate (State.tileDraws p.val c b) (mCount b) 0 t)

end Sys2Proof.Machine
end

