-- ==== Sys2Proof/Machine/Vector.lean ====
section
/-!
DEFINITION. The vector engine (R219, R245-R248): one definition for each row over a shared body that reads the operands of an
iteration from the pad, computes, and writes its result.
-/

namespace Sys2Proof.Machine

/-! ### Operand fields (R245) -/

def vSub (b : List Byte) : Nat := mField b 16 1
def vD (b : List Byte) : Nat := mBits b 17 2 0
def vA (b : List Byte) : Nat := mBits b 17 6 4
def vB (b : List Byte) : Nat := mBits b 18 2 0
def vC (b : List Byte) : Nat := mBits b 18 6 4
def vBcast (b : List Byte) : Bool := mBits b 19 0 0 = 1
def vTrunc (b : List Byte) : Bool := mBits b 19 1 1 = 1
def vSat (b : List Byte) : Bool := mBits b 19 2 2 = 1
def vExact (b : List Byte) : Bool := mBits b 19 3 3 = 1
def vScaleEn (b : List Byte) : Bool := mBits b 19 4 4 = 1
def vSfmt (b : List Byte) : Nat := mField b 20 1
def vDfmt (b : List Byte) : Nat := mField b 21 1
def vAux (b : List Byte) : Nat := mField b 22 2
def vLen (b : List Byte) : Nat := mField b 24 4
def vImm (b : List Byte) : Nat := mField b 28 4

/-- Formats of the vector engine: all but ACC64 and ACC96 (R245). -/
def vFormat (f : Nat) : Bool := fmtKnown f && !fmtAcc f

/-- The checks every vector instruction makes (R245), and those of its opcode. -/
def vCheck (legal : List Byte → Bool) (b : List Byte) : Option Nat :=
  let reserved := mBits b 17 3 3 + mBits b 17 7 7 + mBits b 18 3 3 + mBits b 18 7 7 + mBits b 19 7 5
  if reserved ≠ 0 || vLen b = 0 || 2 ^ 20 < vLen b || !vFormat (vSfmt b) || !vFormat (vDfmt b) || !legal b then some cIllegal
  else none

/-- What an iteration computes: the bytes it writes, its flags, and its saturating conversions. -/
structure VRes where
  bytes : List Byte
  flags : Nat := 0
  sat : Nat := 0
  deriving DecidableEq, Repr

/-- Results of elements, packed. -/
def vPack (f : Nat) (rs : List (Nat × Nat)) : VRes :=
  { bytes := packElems f (rs.map Prod.fst), flags := rs.foldl (fun a r => flOr a r.2) 0 }

namespace State

/-- Read the operands of an iteration: (address, bytes) in order. -/
def readSources (s : State) (p c : Nat) : List (Nat × Nat) → Except (Nat × Nat) (List (List Byte)) × State
  | [] => (.ok [], s)
  | r :: rs =>
    match s.padRead p c 1 r.1 r.2 with
    | (.error x, s) => (.error x, s)
    | (.ok bs, s) =>
      match readSources s p c rs with
      | (.error x, s) => (.error x, s)
      | (.ok t, s) => (.ok (bs :: t), s)

/-- The iterations of a vector instruction: `srcs` lists the registers it reads with their bytes, `comp` is given the
iteration and what was read. -/
def vectorBody (srcs : List Byte → List (Nat × Nat)) (comp : List Byte → Nat → List (List Byte) → VRes)
    (p c : Nat) (b : List Byte) (s : State) : Met × State :=
  let k := s.streamOf p c 1
  iterate (fun j s =>
    match s.readSources p c ((srcs b).map fun r => (effAddr k b r.1 j, r.2)) with
    | (.error x, s) => (some x, s)
    | (.ok bs, s) =>
      let v := comp b j bs
      let w := s.padWrite p c 1 (effAddr k b (vD b) j) v.bytes
      (w.1, if w.1.isSome then w.2 else w.2.addStatus p c 1 v.flags v.sat 0)) (mCount b) 0 s

/-- One vector row: its opcode, its check, the bytes of its result, what it reads and computes. -/
def vectorRow (s : State) (p op : Nat) (legal : List Byte → Bool) (dlen : List Byte → Nat)
    (srcs : List Byte → List (Nat × Nat)) (comp : List Byte → Nat → List (List Byte) → VRes) : State :=
  s.engineRow p 1 op (vCheck legal)
    (fun k b => (List.range (mCount b)).map fun j => (effAddr k b (vD b) j, dlen b))
    (vectorBody srcs comp p)

end State

/-- Bytes of a source and of a destination vector. -/
def vSrcLen (b : List Byte) : Nat := packedLen (vSfmt b) (vLen b)
def vDstLen (b : List Byte) : Nat := packedLen (vDfmt b) (vLen b)

/-- Operand B: a vector, or one element (R245). -/
def vBLen (b : List Byte) : Nat := packedLen (vSfmt b) (if vBcast b then 1 else vLen b)

/-- Elements of the operand at place `i` of those read. -/
def vElems (b : List Byte) (i : Nat) (bs : List (List Byte)) : List Nat := unpackElems (vSfmt b) (bs.getD i []) (vLen b)

/-- Elements of operand B. -/
def vElemsB (b : List Byte) (bs : List (List Byte)) : List Nat :=
  if vBcast b then List.replicate (vLen b) (getElem (vSfmt b) (bs.getD 1 []) 0) else vElems b 1 bs

/-! ### VBIN -/

/-- Shift by B modulo the width; SHR is arithmetic for signed formats (R247). -/
def elemShift (f : Nat) (left sat : Bool) (a b : Nat) : Nat × Nat :=
  let k := b % fmtBits f
  if left then intResult f sat (intOf f a * (2 ^ k : Nat)) else (unsigned (fmtBits f) (intOf f a / (2 ^ k : Nat)), 0)

/-- Comparisons of R43: 1 or 0; a signalling NaN raises invalid. -/
def elemCmp (sub f a b : Nat) : Nat × Nat :=
  let x := decodeVal f a
  let y := decodeVal f b
  if x.isNan || y.isNan then (0, if x.signalling || y.signalling then flInvalid else 0)
  else
    let c := valCmp x y
    (b01 (if sub = 11 then decide (c = 0) else if sub = 12 then decide (c < 0) else decide (c ≤ 0)), 0)

def elemBin (sub f : Nat) (sat : Bool) (a b : Nat) : Nat × Nat :=
  match sub with
  | 0 => elemAdd f sat a b
  | 1 => elemSub f sat a b
  | 2 => elemMul f sat a b
  | 3 => elemDiv f sat a b
  | 4 => elemMinMax f false a b
  | 5 => elemMinMax f true a b
  | 6 => (elemLogic 0 a b, 0)
  | 7 => (elemLogic 1 a b, 0)
  | 8 => (elemLogic 2 a b, 0)
  | 9 => elemShift f true sat a b
  | 10 => elemShift f false sat a b
  | sub => elemCmp sub f a b

def vbinLegal (b : List Byte) : Bool :=
  let sub := vSub b
  sub ≤ 13 && (if 11 ≤ sub then vDfmt b = 0x20 else vDfmt b = vSfmt b) && (sub < 6 || 10 < sub || fmtInt (vSfmt b))

def vbinCalc (b : List Byte) (_ : Nat) (bs : List (List Byte)) : VRes :=
  vPack (vDfmt b) (((vElems b 0 bs).zip (vElemsB b bs)).map fun e => elemBin (vSub b) (vSfmt b) (vSat b) e.1 e.2)

/-- VBIN (R247). -/
def execVbin (p : Fin 64) (s : State) : Host.Outcome State Fault Refusal :=
  .next (s.vectorRow p.val 0x20 vbinLegal vDstLen (fun b => [(vA b, vSrcLen b), (vB b, vBLen b)]) vbinCalc)

/-! ### VUN -/

def elemUn (sub f : Nat) (sat : Bool) (a : Nat) : Nat × Nat :=
  if sub = 0 then (if fmtInt f then (a, 0) else encodeVal f (decodeVal f a))
  else if sub ≤ 2 then elemSign sub f sat a
  else elemUnary sub f a

/-- VUN (R247): integers accept the first three subcodes only. -/
def execVun (p : Fin 64) (s : State) : Host.Outcome State Fault Refusal :=
  .next (s.vectorRow p.val 0x21
    (fun b => vSub b ≤ 7 && vDfmt b = vSfmt b && (vSub b ≤ 2 || !fmtInt (vSfmt b))) vDstLen
    (fun b => [(vA b, vSrcLen b)])
    fun b _ bs => vPack (vDfmt b) ((vElems b 0 bs).map fun a => elemUn (vSub b) (vSfmt b) (vSat b) a))

/-! ### VFMA -/

/-- VFMA (R247): A × B + C with one rounding. -/
def execVfma (p : Fin 64) (s : State) : Host.Outcome State Fault Refusal :=
  .next (s.vectorRow p.val 0x22 (fun b => vSub b = 0 && vDfmt b = vSfmt b) vDstLen
    (fun b => [(vA b, vSrcLen b), (vB b, vBLen b), (vC b, vSrcLen b)])
    fun b _ bs => vPack (vDfmt b) ((((vElems b 0 bs).zip (vElemsB b bs)).zip (vElems b 2 bs)).map fun e =>
      elemFma (vSfmt b) (vSat b) e.1.1 e.1.2 e.2))

/-! ### VCVT -/

/-- Convert a code under a scale: into LG under R38, out of LG under R37 (R45-R48). -/
def elemConvert (src dst : Nat) (scale : Int) (trunc sat : Bool) (a : Nat) : Nat × Nat :=
  if fmtInt src && fmtInt dst then intResult dst sat (intOf src a)
  else
    let v := decodeVal src a
    if fmtLg dst then encodeVal dst v false scale
    else encodeVal dst (match v with
      | .lg n l => .lg n (l + scale)
      | v => v) trunc

/-- A conversion that saturates: to a limit of an integer format, or to the largest finite LG code (R36, R47). -/
def convertSaturates (src dst a : Nat) (r : Nat × Nat) : Bool :=
  if fmtInt dst then bit r.2 4 && !(decodeVal src a).isNan else fmtLg dst && bit r.2 2

def vcvtCalc (b : List Byte) (_ : Nat) (bs : List (List Byte)) : VRes :=
  let scale := if vScaleEn b then signed 16 (mField (bs.getD 1 []) 0 2) else signed 16 (vImm b % 65536)
  let es := vElems b 0 bs
  let rs := es.map fun a => elemConvert (vSfmt b) (vDfmt b) scale (vTrunc b) (vSat b) a
  { vPack (vDfmt b) rs with sat := ((es.zip rs).filter fun e => convertSaturates (vSfmt b) (vDfmt b) e.1 e.2).length }

/-- VCVT (R245, R247). -/
def execVcvt (p : Fin 64) (s : State) : Host.Outcome State Fault Refusal :=
  .next (s.vectorRow p.val 0x23 (fun b => vSub b = 0) vDstLen
    (fun b => (vA b, vSrcLen b) :: (if vScaleEn b then [(vC b, 2)] else [])) vcvtCalc)

/-! ### VRED -/

/-- The left fold of an operation over the elements, with its flags. -/
def foldElems (f : Nat → Nat → Nat × Nat) : List Nat → Nat × Nat
  | [] => (0, 0)
  | x :: xs => xs.foldl (fun a y => let r := f a.1 y; (r.1, flOr a.2 r.2)) (x, 0)

/-- What a fold gives, as a unit produces it: of one element alone, the fold examines no pair, and a NaN is still made
canonical and a signalling one raises invalid (R35, R41, R43). -/
def selectOne (f : Nat) (r : Nat × Nat) : Nat × Nat :=
  let q := quietCode f r.1
  (q.1, flOr r.2 q.2)

/-- The reductions of VRED (R247). The largest magnitude of integers is found among the exact magnitudes and stored once,
wrapped or saturated as SAT says. -/
def elemReduce (sub f : Nat) (sat exact : Bool) (es : List Nat) : Nat × Nat :=
  if sub = 0 then
    if exact && !fmtInt f then
      let x := exactSum f es
      let r := exactRound f x.1
      (r.1, flOr x.2 r.2)
    else selectOne f (foldElems (elemAdd f sat) es)
  else if sub = 1 then selectOne f (foldElems (elemMinMax f true) es)
  else if sub = 2 then selectOne f (foldElems (elemMinMax f false) es)
  else if fmtInt f then intResult f sat (es.foldl (fun m c => max m (intOf f c).natAbs) 0 : Nat)
  else
    let ms := es.map (elemSign 2 f sat)
    let r := foldElems (elemMinMax f true) (ms.map Prod.fst)
    (r.1, ms.foldl (fun a m => flOr a m.2) r.2)

/-- The arg selection over elements with indices from `first` (R43, R247). -/
def argReduce (f : Nat) (isMax : Bool) (first : Nat) (es : List Nat) : (Nat × Nat) × Nat :=
  let xs := es.zipIdx.map fun e => (e.1, (first + e.2) % 2 ^ 32)
  match xs with
  | [] => ((0, 0), 0)
  | x :: t =>
    let pick := t.foldl (fun a y => if argBeats f isMax a.1 y.1 then y else a) x
    let fl := if es.any fun c => (decodeVal f c).signalling then flInvalid else 0
    ((if (decodeVal f pick.1).isNan then canonicalNan f else pick.1, pick.2), fl)

def vredCalc (b : List Byte) (_ : Nat) (bs : List (List Byte)) : VRes :=
  let f := vSfmt b
  let es := vElems b 0 bs
  if vSub b = 3 || vSub b = 4 then
    let r := argReduce f (vSub b = 3) (vImm b) es
    { bytes := argBytes f r.1, flags := r.2 }
  else vPack f [elemReduce (vSub b) f (vSat b) (vExact b) es]

/-- VRED (R247): one result per vector. -/
def execVred (p : Fin 64) (s : State) : Host.Outcome State Fault Refusal :=
  .next (s.vectorRow p.val 0x24 (fun b => vSub b ≤ 5 && vDfmt b = vSfmt b)
    (fun b => if vSub b = 3 || vSub b = 4 then argLen (vSfmt b) else packedLen (vSfmt b) 1)
    (fun b => [(vA b, vSrcLen b)]) vredCalc)

/-! ### VSCALE -/

/-- ⌈256 log2 m⌉ of a finite nonzero magnitude. -/
def ceilLog (v : Val) : Option Int :=
  match v with
  | .lg _ l => some l
  | .dy _ m e _ =>
    let k : Int := (bitLen (m ^ 256) - 1 : Nat)
    some (k + 256 * e + (if m = 2 ^ (bitLen m - 1) then 0 else 1))
  | _ => none

/-- The scale of a vector for a target LG format (R247). -/
def vscaleOf (f target : Nat) (es : List Nat) : Int :=
  let m := es.foldl (fun (m : Option Int) c => match ceilLog (decodeVal f c) with
    | some l => some (max (m.getD l) l)
    | none => m) none
  let t : Int := if target = 1 then 256 else if target = 2 then 1952 else 16381
  match m with
  | none => 0
  | some l => max (-32768) (min 32767 (l - t))

/-- VSCALE (R247): one int16 per vector; DFMT names the source format or int16 (log 44). -/
def execVscale (p : Fin 64) (s : State) : Host.Outcome State Fault Refusal :=
  .next (s.vectorRow p.val 0x25
    (fun b => vSub b = 0 && (vDfmt b = vSfmt b || vDfmt b = 0x21) && fmtLg (vImm b % 256)) (fun _ => 2)
    (fun b => [(vA b, vSrcLen b)])
    fun b _ bs => { bytes := leBytes 2 (unsigned 16 (vscaleOf (vSfmt b) (vImm b % 256) (vElems b 0 bs))) })

/-! ### VLUT -/

/-- Table lookup: an index outside the table reads the last entry and raises invalid (R247). An entry is copied as it
stands, a NaN with its payload and without a flag: R41 speaks of units that produce a NaN, and a lookup reads none
(DESIGN CHOICE, log 120). -/
def elemLut (f d aux : Nat) (table : List Byte) (a : Nat) : Nat × Nat :=
  let i := intOf f a
  if i < 0 || (aux : Int) < i then (getElem d table aux, flInvalid) else (getElem d table i.toNat, 0)

/-- VLUT (R247). -/
def execVlut (p : Fin 64) (s : State) : Host.Outcome State Fault Refusal :=
  .next (s.vectorRow p.val 0x26
    (fun b => vSub b = 0 && [0x20, 0x21, 0x28, 0x29].contains (vSfmt b)) vDstLen
    (fun b => [(vA b, vSrcLen b), (vB b, packedLen (vDfmt b) (vAux b + 1))])
    fun b _ bs => vPack (vDfmt b) ((vElems b 0 bs).map fun a => elemLut (vSfmt b) (vDfmt b) (vAux b) (bs.getD 1 []) a))

/-! ### VTOPK -/

/-- Insert an element behind every one that it does not beat (R43). -/
def rankInsert (f : Nat) (isMax : Bool) (x : Nat × Nat) : List (Nat × Nat) → List (Nat × Nat)
  | [] => [x]
  | y :: ys => if argBeats f isMax y.1 x.1 then x :: y :: ys else y :: rankInsert f isMax x ys

/-- The first `k` in rank order. -/
def topK (f : Nat) (isMax : Bool) (k : Nat) (xs : List (Nat × Nat)) : List (Nat × Nat) :=
  xs.foldl (fun r x => (rankInsert f isMax x r).take k) []

/-- VTOPK (R247). -/
def execVtopk (p : Fin 64) (s : State) : Host.Outcome State Fault Refusal :=
  .next (s.vectorRow p.val 0x27
    (fun b => vSub b ≤ 1 && vDfmt b = vSfmt b && 1 ≤ vAux b && vAux b ≤ 256 && vAux b ≤ vLen b)
    (fun b => vAux b * argLen (vSfmt b)) (fun b => [(vA b, vSrcLen b)])
    fun b _ bs =>
      let f := vSfmt b
      let es := vElems b 0 bs
      let r := topK f (vSub b = 0) (vAux b) (es.zipIdx.map fun e => (e.1, (vImm b + e.2) % 2 ^ 32))
      { bytes := r.flatMap fun x => argBytes f (if (decodeVal f x.1).isNan then canonicalNan f else x.1, x.2)
        flags := if es.any fun c => (decodeVal f c).signalling then flInvalid else 0 })

/-! ### VRNG -/

/-- The counter words of element `e` of iteration `j` (R248, R258). -/
def vrngWords (b : List Byte) (key rec : List Byte) (j e : Nat) : List (BitVec 32) :=
  let low := (mField rec 8 4 + j * vLen b + e) % 2 ^ 32
  tcg (leNat key) (mField rec 0 8 * 2 ^ 64 + vImm b * 2 ^ 32 + low)

def vrngCalc (b : List Byte) (j : Nat) (bs : List (List Byte)) : VRes :=
  let ws := (List.range (vLen b)).map (vrngWords b (bs.getD 0 []) (bs.getD 1 []) j)
  if vSub b = 0 then { bytes := ws.flatMap fun w => w.flatMap fun x => leBytes 4 x.toNat }
  else
    vPack 0x12 (ws.map fun w =>
      let w0 := (w.getD 0 0).toNat
      if vSub b = 1 then uniform32 w0 else gumbelNoise (2 * w0 + 1))

/-- VRNG (R247, R248). -/
def execVrng (p : Fin 64) (s : State) : Host.Outcome State Fault Refusal :=
  .next (s.vectorRow p.val 0x28
    (fun b => vSub b ≤ 2 && vDfmt b = vSfmt b && vDfmt b = (if vSub b = 0 then 0x2A else 0x12))
    (fun b => if vSub b = 0 then 16 * vLen b else 4 * vLen b) (fun b => [(vA b, 16), (vB b, 16)]) vrngCalc)

end Sys2Proof.Machine
end

