-- ==== Sys2Proof/Machine/Racking.lean ====
section
/-!
DEFINITION. The racking engines (R249-R251), the end of a macro-instruction (R209, R236, R240), the timers of streams (R211,
R223), contexts (R221, R222), and the end of a draw (R250, R275, R278) and of a stuck grant (R281).
-/

namespace Sys2Proof.Machine

/-! ### RCOPY and RFILL (R249) -/

def rSrc (b : List Byte) : Nat := mBits b 16 2 0
def rDst (b : List Byte) : Nat := mBits b 16 6 4
def rBytes (b : List Byte) : Nat := mField b 20 4

def rackCheck (fill : Bool) (b : List Byte) : Option Nat :=
  let n := rBytes b
  if mBits b 16 3 3 ≠ 0 || mBits b 16 7 7 ≠ 0 || mField b 17 3 ≠ 0 || n % 32 ≠ 0 || n = 0 || 2 ^ 24 < n
      || (!fill && mField b 24 8 ≠ 0) then some cIllegal else none

def rackDest (k : Stream) (b : List Byte) : List (Nat × Nat) :=
  (List.range (mCount b)).map fun j => (effAddr k b (rDst b) j, rBytes b)

/-- The requester that a racking engine of press `p` is at a cellar address (R277). -/
def rackReq (p e addr : Nat) : Nat := if addr / staveBytes = p then e - 1 else 3

namespace State

/-- Request draws for a piece of the cellar, counted on the engine; a fenced requester is refused (R216, R281). -/
def rackDraws (s : State) (p c e cause d n : Nat) (use : Nat → Nat → DrawUse) : Met × State :=
  let ps := (piecesOf staveBytes d n).flatMap fun q => piecesOf 4096 q.1 q.2
  if ps.any fun q => s.reqFenced q.1 (rackReq p e q.1) then (some (cause, 2 ^ 32 + d), s)
  else
    let k := s.streamOf p c e
    let s := s.setStreamOf p c e { k with draws := k.draws + ps.length }
    (none, ps.foldl (fun s q => s.request (rackReq p e q.1) q.1 q.2 (use (q.1 - d) q.2)) s)

/-- Put bytes at a destination the engine may write: a pad at once, the cellar by draws. -/
def rackPut (s : State) (p c e : Nat) (t : Reach) (bs : List Byte) : Met × State :=
  match t with
  | .pad o => (none, (s.noteBefore p c e p o bs.length).memWrite .pad p o bs)
  | .other q o => (none, (s.noteBefore p c e q o bs.length).memWrite .pad q o bs)
  | .cellar d => s.rackDraws p c e cCelWrite d bs.length fun i n => .fromPad p c e ((bs.drop i).take n)
  | .dmem _ => (some (cUnmapped, 0), s)

/-- The offset of a target in the pads of all presses. -/
def padPlace (p : Nat) : Reach → Option Nat
  | .pad o => some (p * 2 ^ 21 + o)
  | .other q o => some (q * 2 ^ 21 + o)
  | _ => none

/-- Two regions of `n` bytes share a byte. -/
def rackOverlap (p n : Nat) (a b : Reach) : Bool :=
  match padPlace p a, padPlace p b with
  | some x, some y => x < y + n && y < x + n
  | _, _ => false

/-- Copy from a pad: what another stream of that press writes unordered is old or new (R206, R213). -/
def padToDest (s : State) (p c e q o n a : Nat) (dst : Reach) : Met × State :=
  let r := s.memRead .pad q o n
  if r.2.1 then (some (cPadEcc, a), r.2.2)
  else
    let u := r.2.2.unordered q c (if p = q then e else 4) (q * 2 ^ 21 + o) r.1
    u.2.rackPut p c e dst u.1

/-- One iteration of RCOPY (R249): overlapping regions give unspecified destination contents. -/
def rcopyStep (p c e : Nat) (b : List Byte) (j : Nat) (s : State) : Met × State :=
  let k := s.streamOf p c e
  let n := rBytes b
  let a := effAddr k b (rSrc b) j
  let d := effAddr k b (rDst b) j
  match s.access p c e false a n, s.access p c e true d n with
  | .error x, _ => (some (x, a), s)
  | _, .error x => (some (x, d), s)
  | .ok src, .ok dst =>
    if rackOverlap p n src dst then
      ({ s with free := s.free + 1 } : State).rackPut p c e dst (freeBytes s.free n)
    else match src with
      | .cellar x =>
        match dst with
        | .pad o => s.rackDraws p c e cCelPoison x n fun i _ => .toPad p c e (o + i)
        | _ => (some (cUnmapped, d), s)
      | .pad o => s.padToDest p c e p o n a dst
      | .other q o => s.padToDest p c e q o n a dst
      | .dmem o =>
        let r := s.memRead .dmem p o n
        if r.2.1 then (some (cCpEcc, a), r.2.2) else r.2.2.rackPut p c e dst r.1

/-- One iteration of RFILL: PATTERN repeated over the destination. -/
def rfillStep (p c e : Nat) (b : List Byte) (j : Nat) (s : State) : Met × State :=
  let k := s.streamOf p c e
  let d := effAddr k b (rDst b) j
  match s.access p c e true d (rBytes b) with
  | .error x => (some (x, d), s)
  | .ok dst => s.rackPut p c e dst ((List.range (rBytes b)).map fun i => b.getD (24 + i % 8) 0)

/-! ### RPOUR (R211, R251) -/

/-- The pour of iteration `j`, read from the pad. -/
def rpourData (s : State) (p c : Nat) (b : List Byte) (j : Nat) : Except (Nat × Nat) ContribP × State :=
  let w := mField b 22 2
  let empty := bit w 15
  let x : ContribP :=
    { ckey := BitVec.ofNat 32 (mField b 16 4), pour := BitVec.ofNat 16 (mField b 20 2 + j),
      contributor := BitVec.ofNat 9 (w % 512), seg := BitVec.ofNat 4 (w / 512 % 16), phase := 0, step := 0, empty := empty,
      replay := false, ieee := 0, elems := BitVec.ofNat 16 (mField b 26 2), round := BitVec.ofNat 16 (mField b 24 2), gen := 0,
      saturated := false, poison := false, data := [], chan := none }
  if mField b 28 2 = 0 then (.ok x, s)
  else
    match s.padRead p c 3 (effAddr (s.streamOf p c 3) b (mBits b 30 2 0) j) (mField b 28 2) with
    | (.error y, s) => (.error y, s)
    | (.ok bs, s) => (.ok { x with data := if empty then [] else bs }, s)

/-- Present the pours from iteration `j` on, until one is held (R211). -/
def rpourFrom (p c : Nat) (b : List Byte) : Nat → Nat → State → Met × State
  | 0, _, s => (none, s)
  | n + 1, j, s =>
    match s.rpourData p c b j with
    | (.error x, s) => (some x, s)
    | (.ok x, s) =>
      let r := s.contribTry x
      if r.1 then rpourFrom p c b n (j + 1) r.2
      else
        let k := r.2.streamOf p c 3
        (none, r.2.setStreamOf p c 3 { k with st := .stalled, heldAt := s.mono, pours := [x], iter := j + 1 })

def rpourCheck (b : List Byte) : Option Nat :=
  let w := mField b 22 2
  let n := mField b 28 2
  if w % 512 < 256 || 319 < w % 512 || bits w 14 13 ≠ 0 || 4096 ≤ n || n % 16 ≠ 0 || 4064 < n || (n = 0 && !bit w 15)
      || mBits b 30 7 3 ≠ 0 || mField b 31 1 ≠ 0 then some cIllegal else none

/-! ### The end of a macro-instruction (R209, R236, R240) -/

/-- Address registers after an instruction: ADV moves them one L3 step on (R236). -/
def advance (k : Stream) (b : List Byte) : Tab AddrReg :=
  (members 8 (mAdv b)).foldl (fun t r =>
    let a := look {} t r
    put {} t r { a with cur := unsigned 40 ((a.cur : Int) + (mLoop b 3 : Nat) * a.s3) }) k.areg

/-- Complete the head of a queue: registers advance, the status record is updated, the signal is made (R209, R236, R240). -/
def completeHead (s : State) (p c e : Nat) (q : QMacro) : State :=
  let b := q.bytes
  let sig := if mSigK b = 0 then (false, s) else s.semSignal (mSigG b) p (mSigSem b) (mSigK b)
  if sig.1 then sig.2.pressFault p c e q.pc cSemOverflow 0
  else
    let s := sig.2
    let k := s.streamOf p c e
    let rest := k.queue.drop 1
    let s := s.setStreamOf p c e { k with
      queue := rest
      pc := match rest with
        | r :: _ => r.pc
        | [] => if k.fetching then k.fp else k.pc
      areg := advance k b
      flags := k.flags ||| k.curFlags
      sat := min (2 ^ 32 - 1) (k.sat + k.curSat)
      inexact := min (2 ^ 32 - 1) (k.inexact + k.curInexact)
      st := .idle
      waited := false
      curFlags := 0
      curSat := 0
      curInexact := 0
      dest := []
      before := []
      tiles := []
      iter := 0 }
    ((s.stopCheck p c).finishCheck p c).giveUp p

/-! ### Recorded causes -/

/-- A cause that is recorded without a stop (R211, R223, R259). -/
def recordCause (s : State) (p c e cause pc : Nat) : State :=
  let x := s.ctx p c
  if x.cause ≠ 0 then s else s.setCtx p c { x with cause := cause, fstream := e, fpc := pc, faddr := 0 }

/-! ### The end of a draw -/

/-- One draw of an engine's instruction has completed. -/
def drawDone (s : State) (p c e : Nat) : State :=
  let k := s.streamOf p c e
  if (s.ctx p c).st = .running && k.st = .busy then s.setStreamOf p c e { k with draws := k.draws - 1 } else s

def drawFault (s : State) (p c e cause addr : Nat) : State := s.pressFault p c e (s.streamOf p c e).pc cause (2 ^ 32 + addr)

/-- An access through a window has moved its last line: it answers, and counts as delivered (R118, R266, R275, R276). -/
def accessDone (s : State) (id : Nat) (a : Access) : State :=
  let s := s.setCel { s.cel with accesses := put none s.cel.accesses id none }
  let s := match a.req with
    | none => if a.read then s.emit (.pcieData a.addr a.poisoned (readMem a.data 0 a.len)) else s
    | some p =>
      if p.ty = 0x01 then s
      else s.originate 256 (if a.poisoned then readResponse p 1 [] else readResponse p 0 (readMem a.data 0 a.len))
  match a.chan with
  | some (f, q) => s.chanDelivered f q
  | none => s

/-- One draw of an access. -/
def accessDraw (s : State) (id : Nat) (f : Access → Access) : State :=
  match look none s.cel.accesses id with
  | none => s
  | some a =>
    let a := f { a with left := a.left - 1 }
    if a.left = 0 then s.accessDone id a
    else s.setCel { s.cel with accesses := put none s.cel.accesses id (some a) }

/-- What a granted draw does when its last line moves (R216, R250, R266-R269). -/
def drawEffect (s : State) (d : Draw) : State :=
  match d.use with
  | .toPad p c e o =>
    let r := s.readRange d.addr d.len
    if r.2.1 then r.2.2.drawFault p c e cCelPoison d.addr
    else ((r.2.2.noteBefore p c e p o d.len).memWrite .pad p o r.1).drawDone p c e
  | .fromPad p c e bs =>
    let r := s.writeRange d.addr bs
    if r.1 then r.2.drawFault p c e cCelWrite d.addr else r.2.drawDone p c e
  | .tile p c off =>
    let r := s.readRange d.addr d.len
    if r.2.1 then r.2.2.drawFault p c 0 cCelPoison d.addr
    else
      let s := r.2.2
      let k := s.streamOf p c 0
      (s.setStreamOf p c 0 { k with tiles := writeMem k.tiles off r.1 }).drawDone p c 0
  | .readAcc id off =>
    let r := s.readRange d.addr d.len
    r.2.2.accessDraw id fun a => { a with data := writeMem a.data off r.1, poisoned := a.poisoned || r.2.1 }
  | .writeAcc id bs => (s.writeRange d.addr bs).2.accessDraw id fun a => a
  | .retain k => if (s.cask k).alloc && !(s.cask k).retired then s.decRef k else s
  | .scrub | .vat _ | .system => s

end State

/-! ### The rows -/

/-- RCOPY (R249). -/
def execRcopy (p : Fin 64) (e : Fin 4) (s : State) : Host.Outcome State Fault Refusal :=
  .next (s.engineRow p.val e.val 0x30 (rackCheck false) rackDest fun c b t =>
    iterate (State.rcopyStep p.val c e.val b) (mCount b) 0 t)

/-- RFILL (R249). -/
def execRfill (p : Fin 64) (e : Fin 4) (s : State) : Host.Outcome State Fault Refusal :=
  .next (s.engineRow p.val e.val 0x31 (rackCheck true) rackDest fun c b t =>
    iterate (State.rfillStep p.val c e.val b) (mCount b) 0 t)

/-- RPOUR (R211, R251); the participant's press belongs to the launch (log 43). -/
def execRpour (p : Fin 64) (s : State) : Host.Outcome State Fault Refusal :=
  .next (s.engineRow p.val 3 0x32 State.rpourCheck (fun _ _ => []) fun c b t =>
    if (t.ctx p.val c).set.getLsbD (mField b 22 2 % 512 - 256) then State.rpourFrom p.val c b (mCount b) 0 t
    else (some (cRange, 0), t))

/-- RPOUR_ACCEPT (R211): the held pour is accepted, and RE1 goes on. -/
def execRpourAccept (p : Fin 64) (s : State) : Host.Outcome State Fault Refusal :=
  match s.working p.val with
  | none => .next s
  | some c =>
    let k := s.streamOf p.val c 3
    match k.pours, k.queue with
    | x :: _, q :: _ =>
      let r := s.contribTry x
      if !r.1 then .next r.2
      else
        let t := r.2.setStreamOf p.val c 3 { r.2.streamOf p.val c 3 with st := .busy, pours := [] }
        let y := State.rpourFrom p.val c q.bytes (mCount q.bytes - k.iter) k.iter t
        .next (match y.1 with
          | some x => y.2.pressFault p.val c 3 q.pc x.1 x.2
          | none => y.2)
    | _, _ => .next s

/-- CONTRIB_STALL_TIMER (R211, R261): a hold longer than the ageing limit is recorded. -/
def execContribStallTimer (p : Fin 64) (s : State) : Host.Outcome State Fault Refusal :=
  match s.working p.val with
  | none => .next s
  | some c =>
    let k := s.streamOf p.val c 3
    .next (if k.st = .stalled && s.sw.ageing * 100000 < s.mono - k.heldAt then
      (s.recordCause p.val c 3 0x80 k.pc).assertSrc (0x540 + p.val) else s)

/-- MACRO_COMPLETE (R209, R240): every write of the instruction in progress is complete. A TMM forms its output here. -/
def execMacroComplete (p : Fin 64) (e : Fin 4) (s : State) : Host.Outcome State Fault Refusal :=
  match s.working p.val with
  | none => .next s
  | some c =>
    let k := s.streamOf p.val c e.val
    match k.queue with
    | [] => .next s
    | q :: _ =>
      if k.st ≠ .busy || k.draws ≠ 0 then .next s
      else
        let y := if e.val = 0 && mOpc q.bytes = 0x10 then s.tmmFinish p.val c q.bytes else (none, s)
        .next (match y.1 with
          | some x => y.2.pressFault p.val c e.val q.pc x.1 x.2
          | none => if (y.2.ctx p.val c).st = .running then y.2.completeHead p.val c e.val q else y.2)

/-- OVERRUN_TIMER (R223, R261): an instruction runs for more than twice MAX_INSTR_BEATS at the assured rate. -/
def execOverrunTimer (p : Fin 64) (e : Fin 4) (s : State) : Host.Outcome State Fault Refusal :=
  match s.working p.val with
  | none => .next s
  | some c =>
    let k := s.streamOf p.val c e.val
    let runs := k.st = .busy || k.st = .stalled
    .next (if runs && 2 * (s.ctx p.val c).maxBeats * 1000 < (s.mono - k.began) * s.assured (16 + p.val) then
      (s.recordCause p.val c e.val 0x81 k.pc).assertSrc (0x440 + p.val) else s)

/-- CONTEXT_QUANTUM_EXPIRY (R222): the turn of the present context has lasted its quantum, or it is not runnable; the next
runnable context is chosen, and where there is none the present one has another turn. -/
def execContextQuantumExpiry (p : Fin 64) (s : State) : Host.Outcome State Fault Refusal :=
  let r := s.pr p.val
  .next (if r.switchDue.isSome || (s.runnable p.val r.cur && s.mono < r.turnAt + r.quantum * 1000) then s
    else match s.nextContext p.val with
      | some c => s.setPr p.val { r with switchDue := some c }
      | none => s.setPr p.val { r with turnAt := s.mono })

/-- CONTEXT_SWITCH (R221): once every engine has completed its instruction, the outgoing state is saved and the incoming
state restored. -/
def execContextSwitch (p : Fin 64) (s : State) : Host.Outcome State Fault Refusal :=
  let r := s.pr p.val
  match r.switchDue with
  | none => .next s
  | some c =>
    let busy := (List.range 4).any fun e =>
      let t := (look {} r.streams e : Stream)
      t.st = .busy || t.st = .stalled
    if busy then .next s
    else
      let x := s.ctx p.val r.cur
      let save := x.st = .running && !x.finished
      let s := if save then (s.setCtx p.val r.cur { x with
          saved := some ({ r.cp with pipe := [] }, (List.range 4).map fun e => look {} r.streams e) }).writeSaveArea p.val r.cur
        else s
      let y := s.ctx p.val c
      let s := s.setCtx p.val c { y with saved := none }
      let ks := (y.saved.map Prod.snd).getD []
      let r := s.pr p.val
      let s := s.setPr p.val { r with
        cur := c
        switchDue := none
        turnAt := s.mono
        cp := (y.saved.map Prod.fst).getD {}
        streams := (List.range 4).foldl (fun t e => put {} t e (ks.getD e {})) [] }
      .next (if (s.pr p.val).cp.running then s.refill p.val c else s)

/-- DRAW_COMPLETE (R278): the last line of the granted draw moves, and the stave is free. -/
def execDrawComplete (stave : Fin 64) (s : State) : Host.Outcome State Fault Refusal :=
  let v := s.stave stave.val
  match v.grant with
  | none => .next s
  | some d =>
    if !s.tiersActive then .next s
    else if d.req = 10 then .next (s.scrubDone stave.val)
    else .next ((s.setStave stave.val { v with grant := none, grantAs := none }).drawEffect d)

/-- STAVE_WATCHDOG (R281): a grant held for 20 us is revoked and its requester fenced: the whole press for IDs 0-2, whose
launches fault; otherwise its port at this stave. Admission is re-run (R301). The fence is held until its source is cleared and the unit reset (R354), also
where the source's severity or its sticky bit asked for no containment (log 139). -/
def execStaveWatchdog (stave : Fin 64) (s : State) : Host.Outcome State Fault Refusal :=
  let n := stave.val
  let v := s.stave n
  match v.grant with
  | none => .next s
  | some d =>
    if s.mono < v.grantAt + 20000 then .next s
    else
      let s := (s.movedLines d).setStave n (State.revoke v)
      let u : FUnit := if d.req ≤ 2 then .press n else .requester n d.req
      let s := (s.containUnit u).assertIn (0x340 + n) u
      let s : State := { s with adm := { s.adm with rerun := true } }
      .next (if s.faults.contained.contains (0x340 + n, u) || s.faults.resetDue.contains (0x340 + n, u) then s
        else ({ s with faults := { s.faults with contained := s.faults.contained ++ [(0x340 + n, u)] } } : State))

end Sys2Proof.Machine
end

