-- ==== Sys2Proof/Machine/Admit.lean ====
section
/-!
DEFINITION. Guarantees and admission (R284-R304): the worst-case checks over a state, guarantee records, and the re-run.
Rates are in MB/s or Mb/s, times in ns; every demand is rounded up and every capacity down. A check reads the state in which
the candidate's effect and record stand.
-/

namespace Sys2Proof.Machine

/-- An entry of the report (R299): RESOURCE, a key that tells entries of one resource apart, INDEX, DEMAND, CAPACITY. -/
structure AEntry where
  res : Nat
  key : Nat
  index : Nat
  demand : Nat
  capacity : Nat
  deriving DecidableEq, Repr

def AEntry.fails (e : AEntry) : Bool := e.capacity < e.demand

/-- The order of the checks and their status (R287). -/
def checkOrder (res : Nat) : Nat := if res = 1 then 1 else if res ≤ 3 then 2 else if res = 4 then 3 else if res = 5 then 4 else 5

def checkStatus (res : Nat) : Nat :=
  if res = 1 then 0x0202 else if res ≤ 3 then 0x0203 else if res = 4 then 0x0205 else if res = 5 then 0x0204 else 0x0201

/-- A sum of demands over a list. -/
def sumOf {α : Type} (xs : List α) (f : α → Nat) : Nat := (xs.map f).sum

namespace State

/-- The lowest assured rate of domains, in M beats/s (R286). -/
def lowestRate (s : State) (ds : List Nat) : Nat :=
  (ds.map s.assured).foldl (fun a r => if a = 0 then r else min a r) 0

/-- Records with a contract's deadline, and the contract. -/
def deadlineContracts (s : State) : List (Guarantee × Contract) :=
  s.adm.records.filterMap fun g => match g.claim with
    | .contract key _ => (s.contract key).map fun c => (g, c)
    | _ => none

/-- Pinned by PIN (R163, R188). -/
def isPinned (c : Contract) : Bool := c.par.pin.toNat ≠ 0xFF

/-- Free dimensions of a contract. -/
def contractDims (s : State) (c : Contract) : List Nat := s.freeDims c.par.devMask.toNat

/-! ### Vats (R288) -/

def vatEntries (s : State) : List AEntry :=
  let p := (s.vats.contracts.filter fun e => match e.2 with
    | some c => isPinned c
    | none => false).length
  let d := (s.deadlineContracts.filter fun e => !isPinned e.2).length
  [{ res := 1, key := 0, index := 0, demand := p, capacity := 56 }, { res := 1, key := 1, index := 0, demand := p + d, capacity := 60 }]

/-! ### Stave bandwidth and trellis (R289-R291) -/

/-- The launch of a claim on press `p`: its presses' cellar staves. -/
def launchStaves (s : State) (set ctx : Nat) : List Nat :=
  let ps := members 64 set
  let with_ := ps.filter fun p => 0 < (s.ctx p ctx).celSize
  if with_.isEmpty then ps else with_

/-- Claims of a guarantee on stave `n`, as (requester, MB/s). A window that admits writes may see writes that are not whole lines,
so that its claim is charged twice (R289, log 126). -/
def staveClaims (s : State) (n : Nat) (g : Guarantee) : List (Nat × Nat) :=
  match g.claim with
  | .launch set c _ _ st rm =>
    let vs := s.launchStaves set.toNat c
    (if set.getLsbD n && st ≠ 0 then [(0, st)] else []) ++
    (if vs.contains n && rm ≠ 0 then [(3, ceilDiv (rm * (members 64 set.toNat).length) vs.length)] else [])
  | .window w claim =>
    let x := s.window w
    let lo := max x.base (n * staveBytes)
    let hi := min (x.base + x.size) ((n + 1) * staveBytes)
    let twice := if bit x.perm 1 then 2 * claim else claim
    if lo < hi && claim ≠ 0 then [(if x.pcie then 9 else 8, ceilDiv (twice * (hi - lo)) x.size)] else []
  | .contract key dl =>
    match s.contract key with
    | none => []
    | some c =>
      let k := (s.contractDims c).length
      let sent := roundBytes c * (k + b01 (c.par.receive ≠ 2))
      [(5, ceilDiv (sent * 100) (dl * 64))] ++ (if isPinned c then [] else [(4, ceilDiv (2 * imageBytes c * 100) (dl * 64))])
  | _ => []

/-- A requester that can request on stave `n` (R289). -/
def canRequest (s : State) (n r : Nat) : Bool :=
  if r ≤ 2 then s.pressEnabled n else if r = 6 then s.cel.plan.getD 3 0 ≠ 0 else r ≠ 10

/-- The charge of a requester at level 2 or 3, in 1/256 of the capacity: its quota, twice with PREEMPT, all without one. -/
def quotaShare (v : Stave) (r : Nat) : Nat :=
  let q := quota v r
  if q = 0 then 256 else if preempts v r then 2 * q else q

/-- The two tests of R289, where charges above the capacity count as demand without room, and the VAT quota on which the decant time
of an unpinned deadline contract relies (R290). -/
def staveEntries (s : State) (n : Nat) : List AEntry :=
  let v := s.stave n
  let g := 2048 * s.lowestRate [12, 13, 14, 15]
  let high := (List.range 10).filter fun r => 2 ≤ level v r && s.canRequest n r
  let claims := s.adm.records.flatMap (s.staveClaims n)
  let low := sumOf (claims.filter fun c => level v c.1 < 2) Prod.snd
  let charged := ceilDiv (g * sumOf high (quotaShare v)) 256 + ceilDiv g 100
  let relies := s.deadlineContracts.any fun e => !isPinned e.2
  (if s.adm.records.isEmpty then []
   else [{ res := 2, key := n, index := n, demand := low + (charged - g), capacity := g - charged }]) ++
  (if !relies || quota v 4 = 0 then []
   else [{ res := 2, key := 2048 + n, index := n, demand := ceilDiv (5 * g) 256, capacity := ceilDiv (quota v 4 * g) 256 }]) ++
  (high.filterMap fun r =>
    let mine := sumOf (claims.filter fun c => c.1 = r) Prod.snd
    if mine = 0 then none
    else some { res := 2, key := 64 + n * 16 + r, index := n, demand := mine,
                capacity := if quota v r = 0 then g else g * quota v r / 256 })

/-- REMOTE_CLAIMs and the pours of presses to vats, against the bisection scaled to the live vintage (R291). -/
def trellisEntries (s : State) : List AEntry :=
  let demand := sumOf s.adm.records fun g => match g.claim with
    | .launch set _ _ _ _ rm => rm * (members 64 set.toNat).length
    | .contract key dl => match s.contract key with
      | some c => ceilDiv (roundBytes c * (members 64 c.par.presses.toNat).length * 100) dl
      | none => 0
    | _ => 0
  if demand = 0 then [] else [{ res := 3, key := 0, index := 0, demand := demand, capacity := 57700000 * s.assured 2 / 1710 }]

/-! ### Links and gates (R292, R294) -/

/-- Slot capacity R of a link, Mb/s. -/
def slotRate (s : State) (l : Nat) : Nat := s.linkMbps l * 512 * 1023 * 592 / (528 * 1024 * 640)

/-- Openings of a class in a cycle of a gate list, and the open time, in ns. -/
def gateOpenings (es : List (Nat × Nat)) (k : Nat) : Nat × Nat :=
  let opens := es.zipIdx.filter fun e =>
    bit e.1.1 k && !bit ((es.getD ((e.2 + es.length - 1) % es.length) (0, 0)).1) k
  (opens.length, sumOf (es.filter fun e => bit e.1 k) fun e => e.2 * 10)

/-- S of class `k`, Mb/s, and no more than the class's shaper passes (R151, R298). -/
def classRate (s : State) (l k : Nat) : Nat :=
  let sw := sumOf (List.range 7) fun c => (s.queue (l * 8 + c)).weight
  let q := s.queue (l * 8 + k)
  let r := s.slotRate l * 63 * q.weight / (64 * sw)
  let r := if q.rate = 0 then r else min r q.rate
  let es := (s.gate l).live.entries
  if es.isEmpty then r
  else
    let o := gateOpenings es k
    let t := gateCycle (s.gate l).live
    let x := ceilDiv (29 * 5280000) (s.linkMbps l)
    r * (o.2 - o.1 * x) / t

/-- Links on which a contract sends: its dimensions' and its receivers' (R292). -/
def contractLinks (s : State) (c : Contract) : List Nat := ((s.contractDims c).flatMap s.upLinks) ++ s.resultSlots c

/-- Links that carry a contract's contributions once more, to the secondaries of its dual-homed endpoints, one entry for each such
endpoint (R125). -/
def mirrorLinks (s : State) (c : Contract) : List Nat :=
  (members 256 c.par.slots.toNat).flatMap fun l => match s.secondaryOf l with
    | none => []
    | some g => (((List.range s.fab.ndim).find? fun d => s.partner s.own d = g).map s.upLinks).getD []

/-- The claim of a guarantee on link `l` in class `k`, Mb/s: a contract's round bytes, and again what is mirrored (R125, R292). -/
def linkClaim (s : State) (l k : Nat) (g : Guarantee) : Nat :=
  match g.claim with
  | .contract key dl => match s.contract key with
    | some c =>
      if c.par.tc.toNat = k then
        (b01 ((s.contractLinks c).contains l) + (s.mirrorLinks c).count l) * ceilDiv (roundBytes c * 800) dl
      else 0
    | none => 0
  | .gates m cs => if m = l then cs.getD k 0 else 0
  | _ => 0

/-- Links on which a guarantee rests: those of its claims, and the links of a sync collective with a deadline (R292). -/
def carries (s : State) (l : Nat) (g : Guarantee) : Bool :=
  ((List.range 7).any fun k => s.linkClaim l k g ≠ 0) || match g.claim with
    | .sync i _ => (s.freeDims (s.counter i).devMask).any fun d => (s.upLinks d).contains l
    | _ => false

/-- Links that carry a guarantee. -/
def guaranteedLinks (s : State) : List Nat := s.allLinks.filter fun l => s.adm.records.any (s.carries l)

/-- Claims of each class, and on a link that carries a guarantee the shaper of TC7 at no more than 1/64 of R (R292). -/
def linkEntries (s : State) : List AEntry :=
  (s.allLinks.flatMap fun l => (List.range 7).filterMap fun k =>
    let d := sumOf s.adm.records (s.linkClaim l k)
    if d = 0 then none else some { res := 4, key := l * 8 + k, index := l, demand := d, capacity := s.classRate l k }) ++
  s.guaranteedLinks.map fun l =>
    let r := (s.queue (l * 8 + 7)).rate
    { res := 4, key := l * 8 + 7, index := l, demand := if r = 0 then s.slotRate l else r, capacity := s.slotRate l / 64 }

/-- The longest closed interval of class `k` in a gate list, through the end of a cycle into the next, in ns; one whose gate never
opens has no bound (R294). -/
def gateClosed (es : List (Nat × Nat)) (k : Nat) : Nat :=
  if es.isEmpty then 0
  else if !es.any fun e => bit e.1 k then 2 ^ 40
  else ((es ++ es).foldl (fun (a : Nat × Nat) e =>
    if bit e.1 k then (0, a.2) else (a.1 + e.2 * 10, max a.2 (a.1 + e.2 * 10))) (0, 0)).2

/-- The worst-case wait W of class `k` at an egress link, ns (R294). -/
def waitOf (s : State) (l k : Nat) : Nat :=
  let others := sumOf ((List.range 7).filter (· ≠ k)) fun c => 16384 + (s.queue (l * 8 + c)).ovh
  let q := sumOf s.deadlineContracts fun e =>
    if e.2.par.tc.toNat = k && (s.contractLinks e.2).contains l then e.2.window * 4096 else 0
  let z := gateClosed (s.gate l).live.entries k
  ceilDiv ((65536 + others) * 8000) (s.slotRate l) + ceilDiv (q * 8000) (s.classRate l k) + z
    + (if (s.port (l / 4)).idleEn then 300 else 0)

/-! ### Power (R297) -/

def powerCharge (s : State) : Nat :=
  let leak := sumOf ((List.range 80).filter s.domActive) fun d => (s.domain d).leakMw
  let dyn := sumOf ((List.range 64).filter fun p => s.adm.records.any fun g => match g.claim with
    | .launch set _ _ _ _ _ => set.getLsbD p
    | _ => false) fun p => (s.domain (16 + p)).dynMw
  let cel := sumOf s.adm.records fun g => sumOf (List.range 64) fun n => sumOf (s.staveClaims n g) Prod.snd
  leak + dyn + ceilDiv (cel * s.pwr.celFj) 1000000

def powerEntries (s : State) : List AEntry :=
  if s.pwr.cap = 0 || s.adm.capAside then []
  else [{ res := 5, key := 0, index := 0, demand := s.powerCharge, capacity := s.pwr.cap }]

/-! ### Deadlines and completion bounds (R295, R296) -/

/-- Relative rate of exact accumulation, as its reciprocal (R58). -/
def exactSlow (f : Nat) : Nat := if f = 0x13 then 64 else if f = 0x12 || f = 3 then 8 else 4

/-- An assured time of blocks in domains `ds`, given at 1.71 G beats/s, of which `clocked` does not follow the beat rate: scaled to
the lowest rate that the live vintage assures (R8, R9, R286). -/
def scaled (s : State) (ds : List Nat) (clocked core : Nat) : Nat := clocked + ceilDiv (core * 1710) (max 1 (s.lowestRate ds))

/-- The assured reduction hop, 300 ns, and forwarding through a device, 185 ns: 38 ns of receiving and 22 ns of sending are clocked
(R9, R26, R27, R185). -/
def reduceHop (s : State) : Nat := s.scaled [2, 3] 60 240

def forwardHop (s : State) : Nat := s.scaled [2] 60 125

/-- The decant or refill of `b` bytes (R187). -/
def moveTime (s : State) (b : Nat) : Nat := s.scaled [3, 12, 13, 14, 15] 0 (14 + ceilDiv b 3900)

/-- The dimensions of the hops of a path. -/
def pathDims (s : State) (p : List Nat) : List Nat :=
  (p.zip (p.drop 1)).map fun e =>
    ((List.range s.fab.ndim).find? fun d => partnerOf s.fab.twisted s.fab.ndim e.1 d = e.2).getD 0

/-- The slowest and the summed rate of the links of a dimension, Mb/s. -/
def slowest (s : State) (d : Nat) : Nat :=
  ((s.upLinks d).map s.linkMbps).foldl (fun a r => if a = 0 then r else min a r) 0

def idleOn (s : State) (ls : List Nat) : Nat := if ls.any fun l => (s.port (l / 4)).idleEn then 300 else 0

/-- The cables of a path of dimensions, and the devices it passes on the way (R185). -/
def pathTime (s : State) (via : List Nat) : Nat := sumOf via Config.cableNs + (via.length - 1) * s.forwardHop

/-- Beats that exact accumulation adds (R58, R185). -/
def exactTime (s : State) (c : Contract) : Nat :=
  let beats := (c.segs.filter exactSeg).foldl (fun a g =>
    max a (ceilDiv c.pourBytes 256 * (exactSlow g.format.toNat - 1))) 0
  ceilDiv (beats * 1000) (max 1 (s.assured 3))

/-- Flits of `pours` pours. -/
def pourFlits (c : Contract) (pours : Nat) : Nat := pours * ceilDiv (2 + ceilDiv c.pourBytes 16) 37

/-- The assured time of one step whose partial comes over the dimensions `via`, the last one a link of this device: `bundle` says
that the data are spread over the links of the dimension, as in halving (R185). -/
def collStep (s : State) (c : Contract) (via : List Nat) (pours : Nat) (bundle : Bool) : Nat :=
  let d := via.getLastD 0
  let mbps := if bundle then sumOf (s.upLinks d) s.linkMbps else s.slowest d
  let flits := if bundle then pourFlits c pours else pourFlits c pours - 1
  let ser := if mbps = 0 then 2 ^ 32 else ceilDiv (flits * 5280000) mbps
  s.reduceHop + s.pathTime via + ser + s.exactTime c + s.idleOn (s.upLinks d)

/-- Bytes that the decant of a contract which fills a vat moves: metadata and accumulators (R187). -/
def fullImage : Nat := 544 * 1024

/-- The model time of a round (R295): an unpinned contract is charged, at each step, one decant of another contract, that may fill
a vat, and its own refill (R288); and a step whose source is a relay, one further step for the relay's start (R164). -/
def modelTime (s : State) (c : Contract) : Nat :=
  let ds := s.contractDims c
  let m := c.par.devMask.toNat
  let v := c.par.devValue.toNat
  let n := roundPours c
  let k := c.par.tc.toNat
  let swap := if isPinned c then 0 else s.moveTime fullImage + s.moveTime (imageBytes c)
  let wait := fun (d : Nat) => ((s.upLinks d).map fun l => s.waitOf l k).foldl max 0
  let relays := if (localParts c).isEmpty then 2 else 1
  let one := fun (via : List Nat) (pours : Nat) (bundle : Bool) =>
    relays * (s.collStep c via pours bundle + wait (via.getLastD 0) + swap)
  let steps := if c.algo = 3 then
      sumOf ds.zipIdx fun e => 2 * one [e.1] (ceilDiv n (2 ^ (e.2 + 1))) true
    else sumOf (List.range ds.length) fun j =>
      match s.sourceOf m v ds s.own j with
      | none => 0
      | some u => one (s.pathDims (s.pathOf s.fab.ndim u s.own)) n false
  let out := ((s.resultSlots c).map fun l => s.waitOf l k).foldl max 0
  s.reduceHop + s.exactTime c + steps + out

/-- The model time of a sync collective: its hops, cables and flit intervals, an electrical idle on each step's links, and the legs
to and from the endpoints (R89, R200, R295). -/
def syncTime (s : State) (c : Counter) : Nat :=
  let ds := s.freeDims c.devMask
  let hop := s.scaled [2, 3] 0 50
  let flit := fun (d : Nat) => if s.slowest d = 0 then 2 ^ 32 else ceilDiv 5280000 (s.slowest d)
  let one := fun (d : Nat) => hop + Config.cableNs d + flit d + s.idleOn (s.upLinks d)
  let limbs := fun (d : Nat) => if c.op = 8 then 33 * flit d else 0
  let legs := hop + s.idleOn (members 256 c.slots.toNat)
  legs + (if syncDoubles c.op then
      sumOf (List.range ds.length) fun j =>
        match s.sourceOf c.devMask c.devValue ds s.own j with
        | none => 0
        | some u =>
          let via := s.pathDims (s.pathOf s.fab.ndim u s.own)
          sumOf via one + limbs (via.getLastD 0)
    else (ds.map one).foldl max 0 * c.steps)

/-- The worst press of a bounded launch: its time T and its number (R296). -/
def launchTime (s : State) (set ctx beats : Nat) : Nat × Nat :=
  let ps := members 64 set
  let b := s.lowestRate (ps.map (16 + ·))
  let one := fun (p : Nat) =>
    let q := (s.pr p).quantum * 1000 * b
    let w := 450 * b + (s.ctx p ctx).maxBeats * 1000
    let c := ((List.range 8).filter fun i => (s.ctx p i).st = .running).length
    let n := ceilDiv (beats * 1000) q
    ceilDiv (beats * 1000 + n * ((c - 1) * (q + w) + w)) b
  ps.foldl (fun (a : Nat × Nat) p => if a.1 < one p then (one p, p) else a) (0, 0)

def boundEntries (s : State) : List AEntry :=
  s.adm.records.filterMap fun g => match g.claim with
    | .contract key dl => (s.contract key).map fun c =>
        { res := 6, key := g.gid, index := 0, demand := s.modelTime c, capacity := dl * 10 }
    | .sync i dl => some { res := 6, key := g.gid, index := 0, demand := s.syncTime (s.counter i), capacity := dl * 10 }
    | .launch set c bound beats _ _ =>
      if bound = 0 then none
      else
        let t := s.launchTime set.toNat c beats
        some { res := 7, key := g.gid, index := t.2, demand := t.1, capacity := bound * 10 }
    | _ => none

/-! ### The set of checks (R287) -/

/-- Every check of the admitted set, in the order of R287. -/
def checks (s : State) : List AEntry :=
  s.vatEntries ++ (List.range 64).flatMap s.staveEntries ++ s.trellisEntries ++ s.linkEntries ++ s.powerEntries ++ s.boundEntries

/-- Entries that fail in `t` and did not fail, with no smaller a demand, before (R298). -/
def newFailures (before t : State) : List AEntry :=
  let old := before.checks.filter AEntry.fails
  t.checks.filter fun e => e.fails && !old.any fun o => o.res = e.res && o.key = e.key && e.demand ≤ o.demand

/-- The status of the first check that the change from `before` to `t` breaks (R287, R298). -/
def admissionFail (before t : State) : Option Nat := (newFailures before t).head?.map fun e => checkStatus e.res

/-- That status, as the check of a command. -/
def admitChk (before t : State) : Option Fail := (admissionFail before t).map fun x => { status := x }

/-! ### Records (R285) -/

/-- The next guarantee identifier that no record holds. -/
def freeGid (s : State) : Nat :=
  ((List.range 8193).map fun i => (s.adm.nextGid + i) % 0xFFFF).find? (fun g => !s.adm.records.any fun r => r.gid = g) |>.getD 0

/-- The TC7 shaper of a link that carries a guarantee: 1/64 of R, in whole Mb/s, with a 64 KiB burst (R292). -/
def shapeTc7 (s : State) (l : Nat) : State :=
  let q := s.queue (l * 8 + 7)
  s.setQueue (l * 8 + 7) { q with rate := s.slotRate l / 64, burst := 64 }

/-- Admit a claim: its record is written, the newest last. -/
def addRecord (s : State) (c : Claim) : Nat × State :=
  let g := s.freeGid
  let s : State := { s with adm := { s.adm with records := s.adm.records ++ [({ gid := g, claim := c } : Guarantee)], nextGid := (g + 1) % 0xFFFF } }
  let s := (s.allLinks.filter fun l => s.carries l { gid := g, claim := c }).foldl shapeTc7 s
  (g, s)

/-- The TC7 shapers follow the links' present rates (R292). -/
def reshape (s : State) : State := s.guaranteedLinks.foldl shapeTc7 s

/-- No room for a further record (R285). -/
def recordsFull (s : State) : Bool := 8192 ≤ s.adm.records.length

/-! ### The re-run (R301-R303) -/

/-- The state with only the given records. -/
def withRecords (s : State) (rs : List Guarantee) : State := { s with adm := { s.adm with records := rs } }

/-- Resources that fail when `g` joins the records that stand. -/
def failsWith (s : State) (rs : List Guarantee) (g : Guarantee) : List AEntry :=
  newFailures (s.withRecords rs) (s.withRecords (rs ++ [g]))

/-- Set a level-3 constraint aside: the power cap, or the arbiter settings of a stave (R300, R302). -/
def setAside (s : State) (e : AEntry) : State :=
  if e.res = 5 then { s with adm := { s.adm with capAside := true } }
  else if e.res = 2 then
    let v := s.stave e.index
    if v.aside.isSome then s
    else s.setStave e.index { v with aside := some { lvl := v.lvl, quota := v.quota, preempt := v.preempt }, lvl := [], quota := [], preempt := [] }
  else s

/-- Put the constraints that are aside back in place. -/
def putBack (s : State) (res n : Nat) : State :=
  if res = 5 then { s with adm := { s.adm with capAside := false } }
  else match (s.stave n).aside with
    | some a => s.setStave n { s.stave n with aside := none, lvl := a.lvl, quota := a.quota, preempt := a.preempt }
    | none => s

/-- POLICY_RESTORED (R304). -/
def policyRestored (s : State) (resource : Nat) : State := s.logEvent { code := 0x11, gid := 0xFFFF, unit := resource }

/-- One guarantee of the re-run: it stands, it stands with constraints aside, or it is at risk (R302, R303). -/
def rerunOne (a : State × List Guarantee) (g : Guarantee) : State × List Guarantee :=
  let s := a.1
  if g.st = .atRisk then a
  else
    let bad := s.failsWith a.2 g
    if bad.isEmpty then (s, a.2 ++ [g])
    else
      let t := bad.foldl setAside s
      if (t.failsWith a.2 g).isEmpty then ((bad.map fun e => (e.res, e.index)).dedup.foldl (fun t e => t.policyOverridden g.gid e.1) t, a.2 ++ [g])
      else
        let res := (bad.head?.map AEntry.res).getD 0
        let mark := fun (r : Guarantee) => if r.gid = g.gid then { r with st := GState.atRisk } else r
        let s : State := { s with adm := { s.adm with records := s.adm.records.map mark } }
        ((s.logEvent { code := 0x12, severity := s.severity 0x690, source := 0x690, gid := g.gid, unit := res }).assertSrc 0x690, a.2)

/-- Constraints that are aside, as (resource, stave). -/
def asideList (s : State) : List (Nat × Nat) :=
  (if s.adm.capAside then [(5, 0)] else []) ++
  ((List.range 64).filter fun n => (s.stave n).aside.isSome).map fun n => (2, n)

/-- Restore each constraint with which the set passes (R302). -/
def restoreAside (s : State) : State :=
  s.asideList.foldl (fun s c =>
    let t := s.putBack c.1 c.2
    if (newFailures s t).isEmpty then t.policyRestored c.1 else s) s

/-- The re-run over the whole admitted set, oldest first (R301). -/
def rerun (s : State) : State :=
  let s : State := State.reshape { s with adm := { s.adm with rerun := false } }
  let s := s.restoreAside
  (s.adm.records.foldl rerunOne (s, [])).1

end State

end Sys2Proof.Machine
end

