-- ==== Sys2Proof/Machine/Staged.lean ====
section
/-!
DEFINITION. The commands that may be staged (R320): the effect of each on the state, used when the command applies at
once, when its TIME comes, and when admission asks what the staged entries will leave (R298).
-/

namespace Sys2Proof.Machine

/-- SELECT bits that are not reserved (R418). -/
def selectMask : BitVec 256 := BitVec.ofNat 256 (0xFF + 2 ^ 248 + 2 ^ 249)

/-- The staves a CEL_ARB names (R317). -/
def arbStaves (stave : Nat) : List Nat := if stave = 0xFF then List.range 64 else [stave]

namespace State

/-! ### The packet buffer's division (R132) -/

/-- Flits announced on a link: 64 on each of the 16 channels of a link of two devices, and on each of the eight A channels of an
endpoint's (R80, R132, log 60). -/
def linkFlits (s : State) (l : Nat) : Nat := if s.deviceLink l then 1024 else 512

/-- The landing area in bytes. -/
def landingBytes (s : State) : Nat := sumOf s.allLinks fun l => s.linkFlits l * 640

/-- The division that the configuration and PROPORTION give. -/
def division (s : State) : List Nat :=
  let rest := 192 * 2 ^ 20 - s.landingBytes
  let p := if s.sw.proportion.all (· = 0) then [1, 3, 5, 10] else s.sw.proportion
  (List.range 4).map fun k => rest * p.getD k 0 / p.sum / caskSize k

/-- A configuration that cannot be: 0x0501 (R132, R139). -/
def exhausted (s : State) : Bool :=
  192 * 2 ^ 20 ≤ s.landingBytes || s.sw.pools.any (· = 0) || decide (s.caskBytes < s.guaranteedBytes)

/-- Casks outside their new pool are free (R138). -/
def divisionFree (s : State) : Bool :=
  s.sw.newPools.isEmpty || s.sw.casks.all fun e =>
    !e.2.alloc || decide (e.1 % 2 ^ 20 < min (s.sw.pools.getD (caskPool e.1) 0) (s.sw.newPools.getD (caskPool e.1) 0))

/-! ### Effects -/

/-- LINK_IDLE (R89). -/
def effLinkIdle (s : State) (port : Nat) (en : Bool) (delay : Nat) : State :=
  s.setPort port { s.port port with idleEn := en, idleDelay := delay }

/-- The settings of every queue, policer and gate at their defaults: what the basic command leaves of the expert ones (R31, R32).
Entries, tags, tokens' times and counters stay. -/
def qosDefaults (s : State) : State :=
  let s := s.sw.queues.foldl (fun s e => s.setQueue e.1 { s.queue e.1 with
    weight := 64, ovh := 0, markDepth := 64, rate := 0, burst := 0, tokens := 0 }) s
  let s := s.sw.policers.foldl (fun s e => s.setPolicer e.1 { s.policer e.1 with enable := false, rate := 0, burst := 0, tokens := 0 }) s
  s.setSw { s.sw with gates := [] }

/-- QOS_PROFILE: the profile for all queues, and the division that its proportion gives (R31, R32, R132, R139). The codes of
PROFILE are not named: each stands for the defaults (log 132). -/
def effQosProfile (s : State) (p : QosProfileP) : State :=
  let prop := p.proportion.map BitVec.toNat
  let s := s.qosDefaults
  let s := s.setSw { s.sw with
    profile := p.profile.toNat
    ageing := p.ageing.toNat
    lees := p.lees.toNat
    proportion := if prop.all (· = 0) then [1, 3, 5, 10] else prop
    limits := p.account.map fun (e : BitVec 16 × BitVec 16) => (e.1.toNat, e.2.toNat)
    aiShift := if p.aiShift = 0 then 8 else p.aiShift.toNat }
  let new := s.division
  State.reshape (if new = s.sw.pools && s.sw.newPools ≠ new then s else s.setSw { s.sw with pools := new, newPools := [] })

/-- A staged QOS_PROFILE whose TIME has come: one that would by then change the division leaves division and proportion as they
are, since that change cannot be staged (R138, log 132). -/
def effQosStaged (s : State) (p : QosProfileP) : State :=
  let t := s.effQosProfile p
  if t.sw.pools = s.sw.pools then t
  else t.setSw { t.sw with proportion := s.sw.proportion, pools := s.sw.pools, newPools := s.sw.newPools }

/-- QOS_QUEUE: the tag stays, and the new weight applies from the next packet on (R150). -/
def effQosQueue (s : State) (p : QosQueueP) : State :=
  let k := p.link.toNat * 8 + p.cls.toNat
  s.setQueue k { s.queue k with weight := p.weight.toNat, ovh := p.ovh.toNat, markDepth := p.markDepth.toNat }

/-- Tokens after a change: BURST, or none with RESET_TO = 1 (R152). -/
def resetTokens (p : BucketP) : Int := if p.resetTo then 0 else ((p.burst.toNat * 1024 * 8000 : Nat) : Int)

/-- QOS_SHAPER (R151, R152). -/
def effQosShaper (s : State) (p : BucketP) : State :=
  let k := p.link.toNat * 8 + p.cls.toNat
  s.setQueue k { s.queue k with rate := p.rate.toNat, burst := p.burst.toNat, tokens := resetTokens p, tokenAt := s.ns }

/-- QOS_POLICER (R153). -/
def effQosPolicer (s : State) (p : BucketP) : State :=
  let k := p.link.toNat * 8 + p.cls.toNat
  s.setPolicer k { s.policer k with
    enable := p.enable, rate := p.rate.toNat, burst := p.burst.toNat, tokens := resetTokens p, tokenAt := s.ns }

/-- CEL_ARB: level, quota and PREEMPT of a requester, on one stave or on all (R277). -/
def effCelArb (s : State) (stave req lvl quota : Nat) (preempt : Bool) : State :=
  (arbStaves stave).foldl (fun s n =>
    let v := s.stave n
    let lvl' := put none v.lvl req (some lvl)
    let quota' := put none v.quota req (some quota)
    let pre' := put none v.preempt req (some preempt)
    s.setStave n { v with lvl := lvl', quota := quota', preempt := pre', aside := none }) s

/-- PWR_CAP: the new cap's record replaces the old one's (R285, R383). -/
def effPwrCap (s : State) (cap gid : Nat) : State :=
  let s := if s.pwr.capGid = 0xFFFF then s else s.closeGid s.pwr.capGid
  let s := s.setPwr { s.pwr with cap := cap, capGid := gid, capPace := none }
  { s with adm := { s.adm with capAside := false } }

/-- HARVEST_CFG (R418). -/
def effHarvest (s : State) (interval : Nat) (select : BitVec 256) (vector : Nat) : State :=
  { s with tele := { s.tele with interval := interval, select := select, vector := vector } }

/-- FAULT_CFG: severities from FIRST on (R348). -/
def effFaultCfg (s : State) (first : Nat) (sev : List (BitVec 8)) : State :=
  sev.zipIdx.foldl (fun s e => s.setSev (first + e.2) e.1.toNat) s

/-- The effect of a staged command when its TIME comes; `gid` is the guarantee it was given. -/
def stagedEffect (s : State) (i : Instr) (gid : Nat) : State :=
  match i with
  | .linkIdle _ port en delay => s.effLinkIdle port.toNat en delay.toNat
  | .qosProfile _ p => s.effQosStaged p
  | .qosQueue _ p => s.effQosQueue p
  | .qosShaper _ p => s.effQosShaper p
  | .qosPolicer _ p => s.effQosPolicer p
  | .celArb _ stave req lvl quota pre => s.effCelArb stave.toNat req.toNat lvl.toNat quota.toNat pre
  | .pwrCap _ cap => s.effPwrCap cap.toNat gid
  | .harvestCfg _ interval => s.effHarvest interval.toNat 0x85 8
  | .harvestCfgExpert _ interval select vector => s.effHarvest interval.toNat select vector.toNat
  | .faultCfg _ first _ sev => s.effFaultCfg first.toNat sev
  | _ => s

/-- The state that the staged entries will leave (R320). -/
def afterStaged (s : State) (es : List Staged) : State := es.foldl (fun s e => s.stagedEffect e.instr e.gid) s

/-- Admission of a stageable command with effect `f`: when it is staged, against the entries already staged too (R320). -/
def stageAdmit (s : State) (h : SpHdr) (f : State → State) : Option Fail :=
  let s := if h.stage then s.afterStaged s.svc.staged else s
  admitChk s (f s)

/-- Check the staged entries again after a change of the model: one that fails is discarded with an event (R320). -/
def restage (s : State) : List Staged → List Staged → State
  | _, [] => s
  | kept, e :: es =>
    let t := s.afterStaged kept
    match admissionFail t (t.stagedEffect e.instr e.gid) with
    | none => s.restage (kept ++ [e]) es
    | some st =>
      let s := { s with svc := { s.svc with staged := s.svc.staged.erase e } }
      ((s.closeGid e.gid).sendEvent e.hdr (s.message e.hdr true st)).restage kept es

end State

/-- ADMISSION_RERUN (R301): when the model has changed; staged entries are checked again (R320). -/
def execAdmissionRerun (s : State) : Host.Outcome State Fault Refusal :=
  .next (if s.adm.rerun then s.rerun.restage [] s.svc.staged else s)

/-- STAGED_APPLY (R320): the entries whose TIME has come take effect, in their order. -/
def execStagedApply (s : State) : Host.Outcome State Fault Refusal :=
  let due := s.svc.staged.takeWhile fun e => decide (e.time ≤ s.ns)
  .next (({ s with svc := { s.svc with staged := s.svc.staged.drop due.length } } : State).afterStaged due)

end Sys2Proof.Machine
end

