-- ==== Sys2Proof/Machine/Qos.lean ====
section
/-!
DEFINITION. The QOS commands (R317): QOS_PROFILE, QOS_QUEUE, QOS_SHAPER, QOS_POLICER and QOS_GATES, by the rules of the
switch core and of admission.
-/

namespace Sys2Proof.Machine

namespace State

/-- No link of the present split is numbered so: 0x0304. -/
def noLink (s : State) (l : Nat) : Option Fail := chk (!s.allLinks.contains l) 0x0304

end State

def cmdQosProfile (h : SpHdr) (p : QosProfileP) (s : State) : Cmd :=
  let ws := [8, 16, 32] ++ List.replicate 4 8 ++ List.replicate 6 16 ++ [8]
  let prop := p.proportion.map BitVec.toNat
  let acct := p.account.map fun (e : BitVec 16 × BitVec 16) => (e.1.toNat, e.2.toNat)
  let after := fun (s : State) => s.effQosProfile p
  let t := after s
  let pools := t.sw.pools ≠ s.sw.pools
  { hdr := h
    spec := { op := 0x0401, need := 3, widths := ws, stage := true, drain := true }
    checks :=
      { form := [
          badField ws 1 (p.ageing.toNat < 1 || 1000 < p.ageing.toNat),
          badField ws 2 (p.lees.toNat < 10 || p.ageing.toNat * 100 < p.lees.toNat),
          badField ws 3 (prop.any (· = 0) && prop.any (· ≠ 0)),
          badField ws 7 (acct.any fun e => 4096 < e.1 || e.2 < 16 || 16384 < e.2),
          badField ws 13 (p.aiShift ≠ 0 && (p.aiShift.toNat < 4 || 12 < p.aiShift.toNat))]
        admission := [s.stageAdmit h after]
        resources := [chk ((acct.any fun e => e.2 < e.1) || t.exhausted) 0x0501]
        load := pools
        phases := if pools then [s.openBound 0, s.sw.ageing * 100 + s.longestRto, s.openBound 2] else [] }
    eff := fun s => { st := after s }
    same := fun _ => true
    start := fun k s => if k ≠ 0 then s else s.setSw { s.sw with newPools := t.sw.pools }
    undo := fun s => s.setSw { s.sw with newPools := [] }
    ready := fun k s => k ≠ 1 || s.divisionFree }

/-- QOS_PROFILE 0x0401 (R132, R138, R139, R144, R146, R123). -/
def execQosProfile (h : SpHdr) (p : QosProfileP) (s : State) : Host.Outcome State Fault Refusal :=
  .next (s.run (.qosProfile h p) (cmdQosProfile h p s))

def cmdQosQueue (h : SpHdr) (p : QosQueueP) (s : State) : Cmd :=
  let ws := [8, 8, 16, 8, 16]
  { hdr := h
    spec := { op := 0x0482, need := 3, widths := ws, stage := true }
    checks :=
      { form := [
          badField ws 1 (7 < p.cls.toNat),
          badField ws 2 (p.weight.toNat < 1 || 1023 < p.weight.toNat),
          badField ws 4 (4096 < p.markDepth.toNat)]
        state := [s.noLink p.link.toNat]
        admission := [s.stageAdmit h fun s => s.effQosQueue p] }
    eff := fun s => { st := s.effQosQueue p }
    same := fun i => match i with
      | .qosQueue _ q => q.link = p.link && q.cls = p.cls
      | _ => false }

/-- QOS_QUEUE 0x0482 (R142, R148-R150). -/
def execQosQueue (h : SpHdr) (p : QosQueueP) (s : State) : Host.Outcome State Fault Refusal :=
  .next (s.run (.qosQueue h p) (cmdQosQueue h p s))

def cmdQosShaper (h : SpHdr) (p : BucketP) (s : State) : Cmd :=
  let ws := [8, 8, 21, 13, 1]
  { hdr := h
    spec := { op := 0x0483, need := 3, widths := ws, stage := true }
    checks :=
      { form := [
          badField ws 1 (7 < p.cls.toNat),
          badField ws 2 (1792000 < p.rate.toNat),
          badField ws 3 (p.rate ≠ 0 && (p.burst = 0 || 4096 < p.burst.toNat))]
        state := [s.noLink p.link.toNat]
        admission := [s.stageAdmit h fun s => s.effQosShaper p] }
    eff := fun s => { st := s.effQosShaper p }
    same := fun i => match i with
      | .qosShaper _ q => q.link = p.link && q.cls = p.cls
      | _ => false }

/-- QOS_SHAPER 0x0483 (R151, R152). -/
def execQosShaper (h : SpHdr) (p : BucketP) (s : State) : Host.Outcome State Fault Refusal :=
  .next (s.run (.qosShaper h p) (cmdQosShaper h p s))

/-- A change that lets more of a guarded class pass than its admitted claims (R293). -/
def State.loosens (s : State) (p : BucketP) : Bool :=
  s.guardedClass p.cls.toNat && (s.linkDim p.link.toNat).isNone &&
    (!p.enable || decide (sumOf s.adm.records (s.linkClaim p.link.toNat p.cls.toNat) < p.rate.toNat))

def cmdQosPolicer (h : SpHdr) (p : BucketP) (s : State) : Cmd :=
  let ws := [8, 8, 1, 21, 13, 1]
  { hdr := h
    spec := { op := 0x0484, need := 3, widths := ws, stage := true }
    checks :=
      { form := [
          badField ws 1 (7 < p.cls.toNat),
          badField ws 3 (p.enable && (p.rate = 0 || 1792000 < p.rate.toNat)),
          badField ws 4 (p.enable && (p.burst = 0 || 4096 < p.burst.toNat))]
        state := [s.noLink p.link.toNat, chk (s.linkDim p.link.toNat).isSome 0x0302]
        admission := [chk (s.loosens p) 0x0205] }
    eff := fun s => { st := s.effQosPolicer p }
    same := fun i => match i with
      | .qosPolicer _ q => q.link = p.link && q.cls = p.cls
      | _ => false }

/-- QOS_POLICER 0x0484 (R153, R293). -/
def execQosPolicer (h : SpHdr) (p : BucketP) (s : State) : Host.Outcome State Fault Refusal :=
  .next (s.run (.qosPolicer h p) (cmdQosPolicer h p s))

/-! ### Gate lists (R154-R156) -/

/-- The list a QOS_GATES gives. -/
def gateListOf (p : GatesP) : GateList :=
  { entries := p.entries.map fun (e : BitVec 8 × BitVec 24) => (e.1.toNat, e.2.toNat), guardBand := p.guardBand }

/-- When a new list takes over: at TIME, or in guard-band mode at the next cycle boundary of the old list (R155, R156). -/
def State.takeOverAt (s : State) (l : Nat) (guardBand : Bool) (time : Nat) : Nat :=
  if guardBand then
    let g := (s.gate l).live
    if g.entries.isEmpty then s.ns
    else if s.ns < g.start then g.start
    else g.start + ((s.ns - g.start) / State.gateCycle g + 1) * State.gateCycle g
  else time

/-- The claims of a link's gate guarantee are replaced by `claims`, when there are any (R284, R285). -/
def State.gateClaims (s : State) (l : Nat) (claims : Option (List Nat)) : Nat × State :=
  let mine := fun (g : Guarantee) => match g.claim with
    | .gates m _ => m = l
    | _ => false
  let s : State := { s with adm := { s.adm with records := s.adm.records.filter fun g => !mine g } }
  match claims with
  | none => (0xFFFF, s)
  | some cs => s.addRecord (.gates l cs)

def cmdQosGates (h : SpHdr) (p : GatesP) (s : State) : Cmd :=
  let ws := [8, 1, 1] ++ List.replicate 8 32 ++ [16]
  let l := p.link.toNat
  let n := p.entries.length
  let g := gateListOf p
  let guard := p.guardBand || (s.link l).zp5208
  let claims := if p.guarantee then some (p.claim.map BitVec.toNat) else none
  let opens := (List.range 8).all fun k => match State.gateLongest g k with
    | none => true
    | some ns => s.flitsFit l 29 ns
  let whole := p.entries.all fun (e : BitVec 8 × BitVec 24) => e.2 ≠ 0
  let model := fun (s : State) =>
    let r := s.gateClaims l claims
    r.2.setGate l { r.2.gate l with live := g }
  { hdr := h
    spec := { op := 0x0485, need := 3, widths := ws, plen := some (40 + 8 * n),
              feats := (if guard then [] else [9]) ++ (if p.guarantee then [10] else []) }
    checks :=
      { form := [
          badField ws 11 (n < 1 || 256 < n),
          chk (!whole || !opens || 167770000 < State.gateCycle g) 0x0108 40,
          chk (!guard && h.time.toNat < s.ns + 10000) 0x0105 hdrDetail]
        state := [s.noLink l]
        admission := [s.admitChk (model s)]
        resources := [chk (p.guarantee && s.recordsFull) 0x0501] }
    eff := fun s =>
      let r := s.gateClaims l claims
      let s := r.2
      { st := s.setGate l { s.gate l with next := some (g, s.takeOverAt l guard h.time.toNat) }, gid := r.1 } }

/-- QOS_GATES 0x0485 (R154-R156): a second list before the take-over time replaces the pending one. -/
def execQosGates (h : SpHdr) (p : GatesP) (s : State) : Host.Outcome State Fault Refusal :=
  .next (s.run (.qosGates h p) (cmdQosGates h p s))

end Sys2Proof.Machine
end

