-- ==== Sys2Proof/Machine/CelCmd.lean ====
section
/-!
DEFINITION. The CEL commands (R317): the cellar plan (R270-R272), access windows (R273-R276) and the stave arbiters
(R277, R290).
-/

namespace Sys2Proof.Machine

namespace State

/-! ### The cellar plan -/

/-- Extension casks of a plan: half of its bytes in 4 KiB casks, half in 16 KiB casks (R270). -/
def extCasks (plan : List Nat) : List Nat :=
  let b := plan.getD 3 0 * 2 ^ 22 / 2
  [b / 4096, b / 16384]

/-- The extension holds no cask (R272). -/
def extFree (s : State) : Bool :=
  s.sw.casks.all fun e => !e.2.alloc || decide (e.1 % 2 ^ 20 < s.sw.pools.getD (caskPool e.1) 0)

/-- What the retention partition holds besides unacknowledged packets is not preserved: contract retention and mirrored packets
(R272). -/
def dropRetention (s : State) : State :=
  let s := s.vats.contracts.foldl (fun s e => match e.2 with
    | some c => s.setContract e.1 (some { c with rounds := c.rounds.map fun r => { r with kept := [] } })
    | none => s) s
  if s.cel.retained = 0 then s else (s.setFab { s.fab with mirrors := [] }).setRetained 0

/-- The arbiters' settings at their defaults: what the basic command leaves of the expert ones (R31, R32, R277). -/
def arbDefaults (s : State) : State :=
  s.cel.staves.foldl (fun s e => s.setStave e.1 { s.stave e.1 with lvl := [], quota := [], preempt := [], aside := none }) s

/-- Make a plan live: data in offsets that stay press data is kept, the rest is left open (R270, R272). -/
def effPlan (s : State) (plan : List Nat) : State :=
  let s := s.dropRetention
  let was := pressDataStart s.cel.plan
  let lo := max was (pressDataStart plan)
  let keep := fun (a : Nat) => decide (lo ≤ a % staveBytes)
  let grown := pressDataStart plan < was
  let s := s.setCel { s.cel with
    plan := plan
    mem := s.cel.mem.filter fun e => keep e.1
    poison := s.cel.poison.filter fun e => keep (e.1 * 128)
    err := s.cel.err.filter fun e => keep (e.1 * 128)
    known := s.cel.known.filter fun e => keep (e.1 * 128)
    stale := if grown then (pressDataStart plan, was, s.free) :: s.cel.stale else s.cel.stale }
  let s : State := { s with free := s.free + b01 grown }
  (s.setSw { s.sw with ext := extCasks plan }).tableMark

/-- A loaded context's ranges and every window lie in the press data of a plan (R271). -/
def planFits (s : State) (plan : List Nat) : Bool :=
  let ok := fun (b n : Nat) => n = 0 || inPressData plan b n
  (s.press.press.all fun e => e.2.ctxs.all fun x =>
    x.2.st = .empty || (ok x.2.celBase x.2.celSize && ok x.2.spareBase x.2.spareSize)) &&
  s.cel.windows.all fun e => !e.2.exists_ || ok e.2.base e.2.size

/-- Hold reliable traffic back, or let it go on (R272, R376). -/
def holdBack (s : State) (on : Bool) : State := s.setCel { s.cel with changing := on }

/-- Every retained packet is acknowledged, or its channel has failed: those of the channels, of the endpoint holds, and those a
takeover still resends (R272, R376). -/
def nothingKept (s : State) : Bool :=
  (s.fab.inCh.all fun c => c.2.kept.isEmpty) && (s.fab.holds.all fun h => h.2.packets.isEmpty) &&
    s.fab.takeover.all fun t => t.2.isEmpty

/-- Retention, decant and extension hold nothing (R272). -/
def planIdle (s : State) : Bool :=
  s.cel.retained = 0 && s.cel.decanted = 0 && (s.vats.contracts.all fun e => e.2.isNone) && s.extFree

end State

/-- The default plan (R270). -/
def defaultPlan : List Nat := [16, 96, 128, 0]

def cmdPlan (h : SpHdr) (op : Nat) (ws plan : List Nat) (s : State) : Cmd :=
  let model := fun (s : State) => if ws.isEmpty then (s.effPlan plan).arbDefaults else s.effPlan plan
  { hdr := h
    spec := { op := op, need := 3, widths := ws, drain := true }
    checks :=
      { form := if ws.isEmpty then [] else [
          badField ws 0 (plan.getD 0 0 < 8 || 64 < plan.getD 0 0),
          badField ws 1 (plan.getD 1 0 < 32 || 256 < plan.getD 1 0),
          badField ws 2 (plan.getD 2 0 < 16 || 256 < plan.getD 2 0),
          badField ws 3 (128 < plan.getD 3 0)]
        state := [chk (!s.planFits plan) 0x0302]
        admission := [s.admitChk (model s)]
        resources := [chk (plan.getD 2 0 * 2 ^ 22 < s.cel.decanted) 0x0501]
        load := !s.planIdle
        phases := [100, 8100, s.openBound 2] }
    eff := fun s => { st := model s }
    start := fun k s => if k = 0 then s.holdBack true else s
    undo := fun s => s.holdBack false
    ready := fun k s => k ≠ 1 || (s.nothingKept && s.extFree) }

def cmdCelPlan (h : SpHdr) (s : State) : Cmd := cmdPlan h 0x0701 [] defaultPlan s

/-- CEL_PLAN 0x0701: the default plan, and the arbiters' defaults (R31, R271, R272). -/
def execCelPlan (h : SpHdr) (s : State) : Host.Outcome State Fault Refusal := .next (s.run (.celPlan h) (cmdCelPlan h s))

def cmdCelPlanExpert (h : SpHdr) (t r d e : BitVec 16) (s : State) : Cmd :=
  cmdPlan h 0x0781 [16, 16, 16, 16] [t.toNat, r.toNat, d.toNat, e.toNat] s

/-- CEL_PLAN 0x0781: a size for each system partition (R271, R272). -/
def execCelPlanExpert (h : SpHdr) (tables retention decant extension : BitVec 16) (s : State) : Host.Outcome State Fault Refusal :=
  .next (s.run (.celPlanExpert h tables retention decant extension) (cmdCelPlanExpert h tables retention decant extension s))

/-! ### Access windows -/

/-- Widths of the CEL_ACCESS fields (R273, R317). -/
def accessWidths : List Nat := [16, 2, 32, 32, 2, 26, 26, 1, 1, 32]

namespace State

/-- Form checks of the window fields; `k` fields stand before them. Only create and change use the range (R273). -/
def windowForm (ws : List Nat) (k : Nat) (action : Nat) (p : WindowP) (plan : List Nat) : List (Option Fail) :=
  let b := p.base.toNat
  let n := p.size.toNat
  let range := action < 2
  [ badField ws k (p.window.toNat < 1 || 1023 < p.window.toNat),
    badField ws (k + 2) (range && b % 4096 ≠ 0),
    badField ws (k + 3) (range && (n % 4096 ≠ 0 || n = 0)),
    badField ws (k + 2) (range && !inPressData plan b n)]

/-- The window's record: the old one closes, and a claim gives a new one (R284, R285). -/
def windowClaim (s : State) (w claim : Nat) : State :=
  let x := s.window w
  let s := if x.gid = 0xFFFF then s else s.closeGid x.gid
  if claim = 0 then s.setWindow w { x with gid := 0xFFFF }
  else
    let r := s.addRecord (.window w claim)
    r.2.setWindow w { x with gid := r.1 }

/-- A window is made, changed or revoked: its table entry, and the press data in use (R159, R270). -/
def windowMarks (s : State) : State := s.tableChange.dataMark

/-- The new contents of a window (R273): EPOCH 0 at creation, one more with each change or revocation. -/
def effWindow (s : State) (action : Nat) (p : WindowP) : State :=
  let w := p.window.toNat
  let x := s.window w
  match action with
  | 0 | 1 =>
    let y : Window :=
      { base := p.base.toNat, size := p.size.toNat, perm := p.perm.toNat, srcValue := p.srcValue.toNat, srcMask := p.srcMask.toNat,
        pcie := p.pcie, exists_ := true, epoch := if action = 0 then 0 else (x.epoch + 1) % 65536, gen := x.gen + 1, gid := x.gid }
    ((s.setWindow w y).windowClaim w p.claim.toNat).windowMarks
  | 2 =>
    let s := s.windowClaim w 0
    (s.setWindow w { s.window w with exists_ := false, epoch := (x.epoch + 1) % 65536, gen := x.gen + 1 }).windowMarks
  | _ => s

/-- State checks: create needs a free number, change and revoke an existing window, and a fence one that exists or has
been revoked (R273, R275). -/
def windowState (s : State) (action : Nat) (w : Nat) : Option Fail :=
  if action = 0 then chk (s.window w).exists_ 0x0303
  else chk (!(s.window w).exists_ && (action ≠ 3 || (s.window w).gen = 0)) 0x0304

/-- Apply an action, and wait for the drain where FENCE or ACTION 3 asks for it (R275). -/
def windowDone (s : State) (h : SpHdr) (action : Nat) (p : WindowP) : Done :=
  let w := p.window.toNat
  let s := s.effWindow action p
  let x := s.window w
  if (p.fence || action = 3) && s.windowBusy w x.gen then
    { st := s.setCel { s.cel with fences := s.cel.fences ++ [{ window := w, gen := x.gen, epoch := x.epoch, hdr := h }] }, wait := true }
  else { st := s, params := [(16, x.epoch)], gid := x.gid }

end State

def cmdWindow (h : SpHdr) (action : Nat) (p : WindowP) (s : State) : Cmd :=
  let w := p.window.toNat
  { hdr := h
    spec := { op := 0x0702, need := 2, widths := accessWidths, feats := if action < 2 && p.claim ≠ 0 then [10] else [] }
    checks :=
      { form := State.windowForm accessWidths 0 action p s.cel.plan
        state := [s.windowState action w]
        admission := [s.admitChk (s.effWindow action p)]
        resources := [chk (action < 2 && p.claim ≠ 0 && (s.window w).gid = 0xFFFF && s.recordsFull) 0x0501] }
    eff := fun s => s.windowDone h action p }

def cmdCelAccessCreate (h : SpHdr) (p : WindowP) (s : State) : Cmd := cmdWindow h 0 p s

/-- CEL_ACCESS 0x0702, ACTION 0 (R273). -/
def execCelAccessCreate (h : SpHdr) (p : WindowP) (s : State) : Host.Outcome State Fault Refusal :=
  .next (s.run (.celAccessCreate h p) (cmdCelAccessCreate h p s))

def cmdCelAccessChange (h : SpHdr) (p : WindowP) (s : State) : Cmd := cmdWindow h 1 p s

/-- CEL_ACCESS 0x0702, ACTION 1 (R273, R275). -/
def execCelAccessChange (h : SpHdr) (p : WindowP) (s : State) : Host.Outcome State Fault Refusal :=
  .next (s.run (.celAccessChange h p) (cmdCelAccessChange h p s))

def cmdCelAccessRevoke (h : SpHdr) (p : WindowP) (s : State) : Cmd := cmdWindow h 2 p s

/-- CEL_ACCESS 0x0702, ACTION 2 (R273, R275, R285). -/
def execCelAccessRevoke (h : SpHdr) (p : WindowP) (s : State) : Host.Outcome State Fault Refusal :=
  .next (s.run (.celAccessRevoke h p) (cmdCelAccessRevoke h p s))

def cmdCelAccessFence (h : SpHdr) (p : WindowP) (s : State) : Cmd := cmdWindow h 3 p s

/-- CEL_ACCESS 0x0702, ACTION 3: fence only (R275). -/
def execCelAccessFence (h : SpHdr) (p : WindowP) (s : State) : Host.Outcome State Fault Refusal :=
  .next (s.run (.celAccessFence h p) (cmdCelAccessFence h p s))

/-! ### The stave arbiters -/

def cmdCelArb (h : SpHdr) (stave req lvl quota : Nat) (pre : Bool) (s : State) : Cmd :=
  let ws := [8, 8, 8, 8, 1]
  { hdr := h
    spec := { op := 0x0783, need := 3, widths := ws, stage := true }
    checks :=
      { form := [
          badField ws 0 (63 < stave && stave ≠ 0xFF),
          badField ws 1 (9 < req),
          badField ws 2 (3 < lvl)]
        admission := [
          s.stageAdmit h fun s => s.effCelArb stave req lvl quota pre] }
    eff := fun s => { st := s.effCelArb stave req lvl quota pre }
    same := fun i => match i with
      | .celArb _ a b _ _ _ => a.toNat = stave && b.toNat = req
      | _ => false }

/-- CEL_ARB 0x0783 (R277, R290): SCRUB's settings cannot be changed. -/
def execCelArb (h : SpHdr) (stave requester level quota : BitVec 8) (preempt : Bool) (s : State) : Host.Outcome State Fault Refusal :=
  .next (s.run (.celArb h stave requester level quota preempt)
    (cmdCelArb h stave.toNat requester.toNat level.toNat quota.toNat preempt s))

end Sys2Proof.Machine
end

