-- ==== Sys2Proof/Machine/PwrCmd.lean ====
section
/-!
DEFINITION. The PWR and TIME commands (R317): domain states and profiles (R372-R377), the power cap (R383), fabric time
and the alarm (R393, R394).
-/

namespace Sys2Proof.Machine

/-- Two commands as one: the checks and phases of `a`, then those of `b` (R317, DEV_PROFILE). -/
def Cmd.andThen (a b : Cmd) : Cmd :=
  let pa := if a.checks.load then a.checks.phases else []
  let pb := if b.checks.load then b.checks.phases else []
  { a with
    checks :=
      { form := a.checks.form ++ b.checks.form
        auth := a.checks.auth ++ b.checks.auth
        state := a.checks.state ++ b.checks.state
        admission := a.checks.admission ++ b.checks.admission
        resources := a.checks.resources ++ b.checks.resources
        busy := a.checks.busy ++ b.checks.busy
        load := a.checks.load || b.checks.load
        phases := pa ++ pb }
    eff := fun s => b.eff (a.eff s).st
    start := fun k s => if k < pa.length then a.start k s else b.start (k - pa.length) s
    undo := fun s => b.undo (a.undo s)
    ready := fun k s => if k < pa.length then a.ready k s else b.ready (k - pa.length) s }

namespace State

/-! ### Draining endpoints (R127) -/

/-- Every packet from the endpoint of link `l` is acknowledged, those in endpoint holds included, and every packet to it is
delivered, out of casks, reorder windows and the link. Its address is that of its primary attachment (R102, R125). -/
def drainedLink (s : State) (l : Nat) : Bool :=
  let a := (s.slotAddress l).getD (s.own * 256 + l)
  let mine := fun (p : Packet) => p.src.toNat = a
  let here := fun (p : Packet) => mine p || (!p.devt && p.dst.toNat = a)
  (List.range 8).all (fun k => (s.queue (l * 8 + k)).aLane.isEmpty && (s.queue (l * 8 + k)).eLane.isEmpty) &&
  (s.link l).txSlots.isEmpty && (s.link l).replay.isEmpty &&
  (s.fab.inCh.all fun c => c.2.kept.all fun r => !mine r.pkt) &&
  (s.fab.holds.all fun h => (h.2.packets ++ h.2.probePkt.toList).all fun p => !mine p) &&
  (s.sw.originWait.all fun w => !here w.2) &&
  s.sw.casks.all fun c => !c.2.alloc || c.2.retired || c.2.pkt.all fun p => !here p

def drainedPort (s : State) (p : Nat) : Bool := (s.linksOf p).all s.drainedLink

def endpointPorts (s : State) : List Nat := (List.range 64).filter fun p => (look none s.fab.map p).isNone

def setDraining (s : State) (ps : List Nat) (on : Bool) : State :=
  ps.foldl (fun s p => s.setPort p { s.port p with draining := on }) s

/-! ### One domain (R373) -/

/-- Contexts of a press that are RUNNING. -/
def runningCtxs (s : State) (p : Nat) : List Nat := (List.range 8).filter fun c => (s.ctx p c).st = .running

/-- Begin to stop gracefully every launch that includes a press (R230, R373). -/
def stopLaunches (s : State) (p : Nat) (h : SpHdr) : State := (s.runningCtxs p).foldl (fun s c => s.gracefulStop p c h) s

/-- Links of a SerDes group (R24). -/
def groupPorts (d : Nat) : List Nat := (List.range 8).map fun i => 8 * (d - 4) + i

/-- Take the dimension bundle members of a SerDes group out of service (R373). -/
def groupOut (s : State) (d : Nat) : State :=
  ((groupPorts d).filter fun p => (look none s.fab.map p).isSome).foldl (fun s p =>
    (s.linksOf p).foldl (fun s l => (s.dropLink l .down).linkMoved l) s) s

/-- A guarantee that a domain's loss would break (R298): bounded launches of a press, claims on the links of a SerDes
group, claims on the staves. -/
def domainGuarantee (s : State) (d : Nat) : Option Fail :=
  if 16 ≤ d then
    chk (s.adm.records.any fun g => match g.claim with
      | .launch set _ bound _ _ _ => set.getLsbD (d - 16) && bound ≠ 0
      | _ => false) 0x0201
  else if 12 ≤ d then chk (s.adm.records.any fun g => (List.range 64).any fun n => !(s.staveClaims n g).isEmpty) 0x0203
  else if 4 ≤ d then
    chk (((groupPorts d).flatMap s.linksOf).any fun l => (List.range 7).any fun k => sumOf s.adm.records (s.linkClaim l k) ≠ 0) 0x0205
  else none

/-- The state as admission sees it once domain `d` has changed (R297). -/
def domainModel (s : State) (d : Nat) (t : DomState) (floor : Nat) : State :=
  let ds := if 12 ≤ d && d < 16 then [12, 13, 14, 15] else [d]
  let s := ds.foldl (fun s d => s.setDomain d { s.domain d with st := t }) s
  s.setDomain d { s.domain d with floor := floor, floorAside := false }

end State

def domStateOf (n : Nat) : DomState := if n = 0 then .off else if n = 1 then .retention else .active

def cmdPwrProfileExpert (h : SpHdr) (domain dstate : BitVec 8) (floor : BitVec 16) (s : State) : Cmd :=
  let ws := [8, 8, 16]
  let d := domain.toNat
  let t := domStateOf dstate.toNat
  let x := s.domain d
  let tier := decide (12 ≤ d) && decide (d < 16)
  let leaves := x.st = .active && t ≠ .active
  let sds := decide (4 ≤ d) && decide (d < 12)
  let busyPress := decide (16 ≤ d) && leaves && !(s.runningCtxs (d - 16)).isEmpty
  let busyLinks := sds && leaves && ((State.groupPorts d).flatMap s.linksOf).any fun l => (s.link l).st = .active
  { hdr := h
    spec := { op := 0x0881, need := 3, widths := ws, drain := true }
    checks :=
      { form := [
          badField ws 0 (d < 3 || 79 < d),
          badField ws 1 (2 < dstate.toNat || (dstate = 1 && !tier)),
          badField ws 2 (floor ≠ 0 && (!beatRated d || x.ceilMv < floor.toNat))]
        state := [
          chk (decide (16 ≤ d) && !s.pressEnabled (d - 16)) 0x0305,
          chk (if t = .active then (requires d).any fun e =>
                 e ≠ 0 && (!s.domActive e || (s.domain e).going.any fun g => decide (g ≠ .active))
               else (State.dependents d).any fun e => s.domActive e || (s.domain e).going = some .active) 0x0302,
          chk (d = 3 && t = .off && ((s.vats.contracts.any fun e => e.2.isSome) || s.sync.any fun e => e.2.op ≠ 0)) 0x0302]
        admission := [
          if leaves then s.domainGuarantee d else none,
          s.admitChk (s.domainModel d t floor.toNat)]
        load := busyPress || busyLinks || (tier && leaves)
        phases := if busyPress then [s.openBound 0, s.openBound 1]
                  else if busyLinks then [s.openBound 0, s.openBound 1, s.openBound 2]
                  else if tier && leaves then [s.openBound 0] else [] }
    eff := fun s =>
      let s := s.setDomain d { s.domain d with floor := floor.toNat, floorAside := false }
      { st := if (s.domain d).st = t then s.setDomain d { s.domain d with going := none } else s.domGo d t }
    start := fun k s =>
      if busyPress then (if k = 0 then s.stopLaunches (d - 16) h else s)
      else if busyLinks then
        (if k = 0 then s.setDraining ((State.groupPorts d).filter s.endpointPorts.contains) true
         else if k = 1 then s.groupOut d else s)
      else s
    undo := fun s => if busyLinks then s.setDraining (State.groupPorts d) false else s
    ready := fun k s =>
      if k ≠ 0 then true
      else if busyPress then (s.runningCtxs (d - 16)).isEmpty
      else if busyLinks then ((State.groupPorts d).filter s.endpointPorts.contains).all s.drainedPort
      else true }

/-- PWR_PROFILE 0x0881 (R24, R373, R374): one domain's state and its software floor; FLOOR 0 removes it (log 62). -/
def execPwrProfileExpert (h : SpHdr) (domain dstate : BitVec 8) (floor : BitVec 16) (s : State) : Host.Outcome State Fault Refusal :=
  .next (s.run (.pwrProfileExpert h domain dstate floor) (cmdPwrProfileExpert h domain dstate floor s))

/-! ### Profiles (R375, R376) -/

namespace State

/-- The state a profile gives domain `d` (R375): on in profile 0 only the presses that are enabled. -/
def profileState (s : State) (p d : Nat) : DomState :=
  if d < 16 then .active else if p = 0 && s.pressEnabled (d - 16) then .active else .off

/-- OPERATION to VDD_PRS on entering and on leaving profile 0 (R379). -/
def railOperation (s : State) (was p : Nat) : State :=
  let x := s.rail 0
  if (was = 0) = (p = 0) || !x.commanded || x.dead then s
  else (s.setRail 0 { x with on := decide (p = 0) }).emit (.pmbus 0 0x01 (if p = 0 then 0x80 else 0))

/-- A basic command sets every parameter of its function: no software floor remains (R31, R374). -/
def dropFloors (s : State) : State :=
  (List.range 80).foldl (fun s d => s.setDomain d { s.domain d with floor := 0, floorAside := false }) s

/-- Go to profile 0 or 1: each domain moves to its state, the floors of 0x0881 end, and VDD_PRS is switched with profile 0
(R31, R375, R379). -/
def goProfile (s : State) (p : Nat) : State :=
  let was := s.ctl.profile
  let s := (List.range 80).foldl (fun s d =>
    let t := s.profileState p d
    if d = 0 then s
    else if (s.domain d).st = t then s.setDomain d { s.domain d with going := none }
    else s.domGo d t) s.dropFloors
  let s := s.setCtl { s.ctl with profile := p }
  s.railOperation was p

/-- The last act of a move to profile 2 or 3: the plan is kept in D0, and the domains go off 1 ms later (R376). -/
def leaveProfile (s : State) (p : Nat) : State :=
  let s := s.setPwr { s.pwr with profileOff := some p }
  let s := s.setAon { s.aon with savedPlan := s.cel.plan }
  s.railOperation s.ctl.profile p

/-- The model with the domains in the states of a profile (R297). -/
def profileModel (s : State) (p : Nat) : State :=
  (List.range 80).foldl (fun s d => if d = 0 then s else s.setDomain d { s.domain d with st := s.profileState p d }) s.dropFloors

/-- Presses with a context RUNNING. -/
def runningPresses (s : State) : List Nat := (List.range 64).filter fun p => !(s.runningCtxs p).isEmpty

/-- HOLE naming this device, on every dimension port (R352, R376). -/
def ownHole (s : State) : State := s.floodDisc 64 (s.holeMsg s.own false)

end State

def cmdProfile (h : SpHdr) (op p : Nat) (s : State) : Cmd :=
  let stops := p = 1 && !s.runningPresses.isEmpty
  let leave := decide (2 ≤ p)
  let inUse := (s.vats.contracts.any fun e => e.2.isSome) || (s.sync.any fun e => e.2.op ≠ 0) || !s.runningPresses.isEmpty
  { hdr := h
    spec := { op := op, need := 3, widths := [8], drain := true }
    checks :=
      { form := [badField [8] 0 (3 < p)]
        state := [chk (leave && inUse) 0x0302]
        admission := if leave then [] else [
          firstFail (if p = 1 then s.runningPresses.map fun n => s.domainGuarantee (16 + n) else []),
          s.admitChk (s.profileModel p)]
        load := stops || leave
        phases := if leave then [s.openBound 0, 8000, s.openBound 2]
                  else if stops then [s.openBound 0, s.openBound 1] else [] }
    eff := fun s => { st := if leave then s.leaveProfile p else s.goProfile p }
    start := fun k s =>
      if leave then
        (if k = 0 then (s.setDraining s.endpointPorts true).holdBack true else if k = 2 then s.ownHole else s)
      else if k = 0 then s.runningPresses.foldl (fun s n => s.stopLaunches n h) s
      else s
    undo := fun s => if leave then (s.setDraining s.endpointPorts false).holdBack false else s
    ready := fun k s =>
      if leave then (if k = 0 then s.endpointPorts.all s.drainedPort else if k = 1 then s.nothingKept else true)
      else if k = 0 then s.runningPresses.isEmpty
      else true }

def cmdPwrProfile (h : SpHdr) (profile : BitVec 8) (s : State) : Cmd := cmdProfile h 0x0801 profile.toNat s

/-- PWR_PROFILE 0x0801 (R375, R376). -/
def execPwrProfile (h : SpHdr) (profile : BitVec 8) (s : State) : Host.Outcome State Fault Refusal :=
  .next (s.run (.pwrProfile h profile) (cmdPwrProfile h profile s))

/-- The QOS_PROFILE of a profile at basic level: the defaults of the switch core (R132, R139, R144, R146, R123). -/
def defaultQos (profile : BitVec 8) : QosProfileP :=
  { profile := profile, ageing := 10, lees := 200, proportion := [0, 0, 0, 0],
    account := [(16, 2048), (1024, 8192), (1024, 4096)], aiShift := 0 }

def cmdDevProfile (h : SpHdr) (profile : BitVec 8) (s : State) : Cmd :=
  let q := cmdQosProfile h (defaultQos profile) s
  let c := cmdPlan h 0x0701 [] defaultPlan s
  let p := cmdProfile h 0x0104 profile.toNat s
  let all := (q.andThen c).andThen p
  { all with spec := p.spec }

/-- DEV_PROFILE (R317, R375): QOS_PROFILE, CEL_PLAN and PWR_PROFILE at basic level, each under its own rules. -/
def execDevProfile (h : SpHdr) (profile : BitVec 8) (s : State) : Host.Outcome State Fault Refusal :=
  .next (s.run (.devProfile h profile) (cmdDevProfile h profile s))

/-! ### The power cap -/

def cmdPwrCap (h : SpHdr) (cap : BitVec 32) (s : State) : Cmd :=
  let claim := fun (s : State) => if cap = 0 then (0xFFFF, s) else s.addRecord (.power cap.toNat)
  { hdr := h
    spec := { op := 0x0802, need := 3, widths := [32], stage := true, feats := if cap = 0 then [] else [10] }
    checks :=
      { admission := [chk (cap ≠ 0 && cap.toNat < s.powerCharge) 0x0204]
        resources := [chk (cap ≠ 0 && s.recordsFull) 0x0501] }
    eff := fun s =>
      let r := claim s
      { st := r.2.effPwrCap cap.toNat r.1, gid := r.1 }
    same := fun _ => true
    claim := fun s =>
      let r := claim s
      { st := r.2, gid := r.1 } }

/-- PWR_CAP 0x0802 (R284, R297, R383): the new cap's record replaces the old one's. -/
def execPwrCap (h : SpHdr) (cap : BitVec 32) (s : State) : Host.Outcome State Fault Refusal :=
  .next (s.run (.pwrCap h cap) (cmdPwrCap h cap s))

/-! ### Fabric time -/

/-- TIME: whole nanoseconds in the low 64 bits, the 16-bit fraction above them; in 2^-40 ns (R307, R388). -/
def timeOf (t : BitVec 80) : Nat := t.toNat % 2 ^ 64 * 2 ^ 40 + t.toNat / 2 ^ 64 * 2 ^ 24

namespace State

/-- Move fabric time to `t` at once, and tell the children and endpoints (R393). -/
def stepTo (s : State) (t : Nat) : State :=
  let delta := (t : Int) - s.time.now
  let s := (s.setTime { s.time with timeSet := true, stepDue := none, slewLeft := 0 }).stepTime delta
  (s.sendStep (delta / 2 ^ 40)).setQuality 2

/-- Begin to slew toward `t` (R393). -/
def slewTo (s : State) (t : Nat) : State :=
  (s.setTime { s.time with timeSet := true, stepDue := none, slewLeft := (t : Int) - s.time.now }).setQuality 2

end State

def cmdTimeSet (h : SpHdr) (mode : Nat) (time : BitVec 80) (s : State) : Cmd :=
  let ws := [8, 80]
  let t := timeOf time
  let far := mode = 1 && (10 ^ 9 * 2 ^ 40 : Int) < ((t : Int) - s.time.now).natAbs
  { hdr := h
    spec := { op := 0x0803, need := 3, widths := ws }
    checks :=
      { form := [badField ws 0 (1 < mode), badField ws 1 (s.isRoot && far)]
        state := [chk (!s.isRoot) 0x0302] }
    eff := fun s =>
      { st := if mode = 1 then s.slewTo t
              else if s.time.ppsValid then s.setTime { s.time with stepDue := some t }
              else s.stepTo t } }

def cmdTimeSetStep (h : SpHdr) (mode : BitVec 8) (time : BitVec 80) (s : State) : Cmd := cmdTimeSet h mode.toNat time s

/-- TIME_SET 0x0803, MODE 0 (R393): at the next accepted RACK_PPS edge, or at once when RACK_PPS is not valid. -/
def execTimeSetStep (h : SpHdr) (mode : BitVec 8) (time : BitVec 80) (s : State) : Host.Outcome State Fault Refusal :=
  .next (s.run (.timeSetStep h mode time) (cmdTimeSetStep h mode time s))

def cmdTimeSetSlew (h : SpHdr) (time : BitVec 80) (s : State) : Cmd := cmdTimeSet h 1 time s

/-- TIME_SET 0x0803, MODE 1 (R393). -/
def execTimeSetSlew (h : SpHdr) (time : BitVec 80) (s : State) : Host.Outcome State Fault Refusal :=
  .next (s.run (.timeSetSlew h time) (cmdTimeSetSlew h time s))

def cmdTimeAlarm (h : SpHdr) (alarm : BitVec 64) (action : Nat) : Cmd :=
  let ws := [64, 8]
  { hdr := h
    spec := { op := 0x0804, need := 2, widths := ws }
    checks := { form := [badField ws 1 (2 < action)] }
    eff := fun s => { st := s.setTime { s.time with alarm := if action = 0 then 0 else alarm.toNat, alarmAction := action } } }

def cmdTimeAlarmSet (h : SpHdr) (alarm : BitVec 64) (action : BitVec 8) (_s : State) : Cmd := cmdTimeAlarm h alarm action.toNat

/-- TIME_ALARM 0x0804, ACTION 1 or 2 (R394). -/
def execTimeAlarmSet (h : SpHdr) (alarm : BitVec 64) (action : BitVec 8) (s : State) : Host.Outcome State Fault Refusal :=
  .next (s.run (.timeAlarmSet h alarm action) (cmdTimeAlarmSet h alarm action s))

def cmdTimeAlarmCancel (h : SpHdr) (alarm : BitVec 64) (_s : State) : Cmd := cmdTimeAlarm h alarm 0

/-- TIME_ALARM 0x0804, ACTION 0 (R394). -/
def execTimeAlarmCancel (h : SpHdr) (alarm : BitVec 64) (s : State) : Host.Outcome State Fault Refusal :=
  .next (s.run (.timeAlarmCancel h alarm) (cmdTimeAlarmCancel h alarm s))

end Sys2Proof.Machine
end

