-- ==== Sys2Proof/Machine/FabCmd.lean ====
section
/-!
DEFINITION. The FAB commands (R317): discovery (R98, R99, R105), epoch sessions and their edits (R101, R108, R112,
R321), endpoints (R124-R127) and the access windows of a sub-cube (R273).
-/

namespace Sys2Proof.Machine

/-! ### FAB_DISCOVER -/

/-- The port map of the basic level: dimension `d` uses ports d·b to d·b + b − 1 (R98). -/
def bundleMap (n b : Nat) : Tab (Option (Nat × Nat)) := (List.range (n * b)).map fun p => (p, some (p / b, p % b))

namespace State

/-- Packets, contracts or sync uses are in flight (R322). -/
def trafficLoad (s : State) : Bool :=
  !s.nothingKept || s.sw.casks.any (fun c => c.2.alloc) || s.vats.contracts.any (fun c => c.2.isSome)

/-- Start the discovery sequence at INIT (R105, R106). A link that the map makes a link of two devices, or no longer one, trains
again for its announced credits, and the pools are divided anew (R80, R132, R138). -/
def effDiscover (s : State) (n : Nat) (twisted marked : Bool) (rootFna : Nat) (map : Tab (Option (Nat × Nat)))
    (waits : Option SpHdr) : State :=
  let serial := s.ident.serial
  let before := s
  let s := (List.range 64).foldl (fun s p => s.setPort p { s.port p with hello := false, excluded := false }) s
  let dims := s.fab.dims.map fun (e : Nat × Dim) => (e.1, ({ held := e.2.held } : Dim))
  let s := s.setFab { s.fab with
    ndim := n, twisted := twisted, marked := marked, rootFna := rootFna, map := map, disc := .init, discFor := waits,
    root := (serial, marked, 0), seenMarked := if marked then [serial] else [], coords := [], dims := dims, holes := [] }
  let moved := s.allLinks.filter fun l => s.deviceLink l ≠ before.deviceLink l && (s.link l).st ≠ .down
  let s := moved.foldl (fun s l => (s.dropLink l .lock).linkMoved l) s
  let s := s.setSw { s.sw with pools := s.division, newPools := [] }
  s.initCheck

/-- What the basic level leaves of the expert routing: no route pins and no explicit tables, in either bank (R31, R32). -/
def routeDefaults (s : State) : State :=
  [true, false].foldl (fun s b => s.setBank b { s.bank b with pins := [], explicit := false, table := [] }) s

end State

/-- FAB_DISCOVER of either level; `bad` are its form checks (R105, R322). -/
def cmdDiscover (h : SpHdr) (op : Nat) (spec : CmdSpec) (bad : List (Option Fail)) (n : Nat) (twisted marked : Bool) (rootFna : Nat)
    (map : Tab (Option (Nat × Nat))) (s : State) : Cmd :=
  let t := s.effDiscover n twisted marked rootFna map none
  { hdr := h
    spec := { spec with op := op, need := 3, drain := true, feats := if twisted then [7] else [] }
    checks :=
      { form := bad
        state := [chk (map.any fun e => e.2.isSome && (s.port e.1).split ≠ 0) 0x0302]
        resources := [chk t.exhausted 0x0501]
        busy := [chk s.fab.discFor.isSome 0x0701]
        load := s.trafficLoad
        phases := if s.trafficLoad then [s.openBound 0] else [] }
    eff := fun s =>
      let phased := s.svc.phased.any fun p => p.hdr = h
      { st := s.effDiscover n twisted marked rootFna map (if phased then none else some h), wait := true }
    start := fun _ s =>
      let s := s.setDraining s.endpointPorts true
      if t.sw.pools = s.sw.pools then s else s.setSw { s.sw with newPools := t.sw.pools }
    undo := fun s => (s.setDraining s.endpointPorts false).setSw { (s.setDraining s.endpointPorts false).sw with newPools := [] }
    ready := fun _ s => s.endpointPorts.all s.drainedPort && s.divisionFree }

/-- Basic level: the bundle width alone, so that the number of dimensions is a free value (R98, log 65); routing is minimal and
adaptive again (R31, R32). -/
def cmdFabDiscover (h : SpHdr) (bundle : BitVec 8) (s : State) : Cmd :=
  let b := bundle.toNat
  let n := Config.freeNat s.free % (min 18 (64 / b) + 1)
  let c := cmdDiscover h 0x0301 { op := 0x0301, need := 3, widths := [8] } [badField [8] 0 (b < 1 || 8 < b)] n false false 0
    (bundleMap n b) s
  { c with eff := fun s => c.eff (State.routeDefaults { s with free := s.free + 1 }) }

/-- FAB_DISCOVER 0x0301 (R98, R105). -/
def execFabDiscover (h : SpHdr) (bundle : BitVec 8) (s : State) : Host.Outcome State Fault Refusal :=
  .next (s.run (.fabDiscover h bundle) (cmdFabDiscover h bundle s))

/-- Widths of the expert form (R317). -/
def discoverWidths : List Nat := [8, 1, 1, 32] ++ List.replicate 128 8

/-- Map entries as (port, dimension and member). -/
def discoverMap (m : List (BitVec 8 × BitVec 8)) : Tab (Option (Nat × Nat)) :=
  m.zipIdx.filterMap fun e => if e.1.1 = 0xFF then none else some (e.2, some (e.1.1.toNat, e.1.2.toNat))

def cmdFabDiscoverExpert (h : SpHdr) (p : DiscoverX) (s : State) : Cmd :=
  let ws := discoverWidths
  let n := p.ndim.toNat
  let root := p.rootFna.toNat
  let map := discoverMap p.map
  let entries := map.filterMap Prod.snd
  cmdDiscover h 0x0381 { op := 0x0381, need := 3, widths := ws }
    [ badField ws 0 (18 < n),
      badField ws 3 (2 ^ 31 ≤ root && 2 ^ n ≤ root % 2 ^ 18),
      firstFail (p.map.zipIdx.map fun e => badField ws (4 + 2 * e.2) (e.1.1 ≠ 0xFF && n ≤ e.1.1.toNat)),
      firstFail (p.map.zipIdx.map fun e => badField ws (5 + 2 * e.2) (e.1.1 ≠ 0xFF && 7 < e.1.2.toNat)),
      chk (entries.dedup.length < entries.length) 0x0108,
      chk ((List.range n).any fun d => (entries.filter fun e => e.1 = d).isEmpty) 0x0108]
    n p.twisted p.marked (if 2 ^ 31 ≤ root then root % 2 ^ 18 else 0) map s

/-- FAB_DISCOVER 0x0381 (R98, R99, R105, R106). -/
def execFabDiscoverExpert (h : SpHdr) (p : DiscoverX) (s : State) : Host.Outcome State Fault Refusal :=
  .next (s.run (.fabDiscoverExpert h p) (cmdFabDiscoverExpert h p s))

/-! ### FAB_ROUTE -/

/-- The bank that an epoch session edits (R321). -/
def State.spareBank (s : State) : Bank := s.bank !s.fab.live

def State.editSpare (s : State) (f : Bank → Bank) : State := s.setBank (!s.fab.live) (f s.spareBank)

/-- What every FAB_ROUTE checks (R321): STAGE = 1, TIME = 0, an open session. -/
def cmdRoute (h : SpHdr) (spec : CmdSpec) (form state : List (Option Fail)) (f : Bank → Bank) (s : State) : Cmd :=
  { hdr := h
    spec := { spec with need := 3, stage := true, epoch := true }
    checks :=
      { form := form ++ [chk (h.stage && h.time ≠ 0) 0x0105 hdrDetail]
        state := [chk (!h.stage || !s.fab.session) 0x0302] ++ state }
    eff := fun s => { st := s.editSpare f } }

def cmdFabRoute (h : SpHdr) (clear : BitVec 8) (s : State) : Cmd :=
  cmdRoute h { op := 0x0302, need := 3, widths := [8] } [badField [8] 0 (7 < clear.toNat)] []
    (fun b =>
      { b with
        pins := if clear.getLsbD 0 then [] else b.pins
        partitions := if clear.getLsbD 1 then [] else b.partitions
        redirects := if clear.getLsbD 2 then [] else b.redirects }) s

/-- FAB_ROUTE 0x0302: clear pins, partitions or redirects (R317, R321). -/
def execFabRoute (h : SpHdr) (clear : BitVec 8) (s : State) : Host.Outcome State Fault Refusal :=
  .next (s.run (.fabRoute h clear) (cmdFabRoute h clear s))

/-- Two partitions share a link: they meet in more than one position (R101). -/
def sharesLink (n : Nat) (a b : Nat × Nat) : Bool :=
  (a.2 ^^^ b.2) &&& (a.1 &&& b.1) = 0 && (a.1 ||| b.1) % 2 ^ n ≠ 2 ^ n - 1

/-- Widths of each KIND (R317). -/
def routeWidths (p : RouteX) : List Nat :=
  if p.kind = 1 then [8, 18, 18]
  else if p.kind = 2 then [8, 18, 8, 8] ++ List.replicate 18 8
  else if p.kind = 3 then [8, 26, 18]
  else [8, 32, 16] ++ List.replicate p.entries.length 32

/-- Form checks of each KIND (R101, R108, R317). -/
def routeForm (s : State) (p : RouteX) (ws : List Nat) : List (Option Fail) :=
  let n := s.fab.ndim
  let m := p.mask.toNat
  if p.kind = 1 then [
    badField ws 1 (s.fab.twisted && (m + 1) &&& m ≠ 0),
    badField ws 2 (p.value.toNat &&& m ≠ p.value.toNat)]
  else if p.kind = 2 then [
    badField ws 1 (2 ^ n ≤ p.dstFna.toNat),
    badField ws 2 (7 < p.cls.toNat),
    badField ws 3 (18 < p.hops.toNat),
    firstFail ((p.seq.take p.hops.toNat).zipIdx.map fun e => badField ws (4 + e.2) (n ≤ e.1.toNat))]
  else if p.kind = 3 then [
    badField ws 1 (2 ^ n ≤ p.dst.toNat / 256),
    badField ws 2 (2 ^ n ≤ p.toFna.toNat)]
  else if p.kind = 4 then [badField ws 1 (2 ^ n < p.first.toNat + p.entries.length)]
  else [badField [8] 0 true]

/-- State checks: a partition that exists, or that would share a link with another (R101). -/
def routeState (s : State) (p : RouteX) : List (Option Fail) :=
  let e := (p.mask.toNat, p.value.toNat)
  if p.kind = 1 then [
    chk (s.spareBank.partitions.contains e) 0x0303,
    chk (s.spareBank.partitions.any fun x => sharesLink s.fab.ndim x e) 0x0302]
  else []

/-- One edit of a bank (R101, R107, R108). -/
def routeEdit (p : RouteX) (b : Bank) : Bank :=
  if p.kind = 1 then { b with partitions := b.partitions ++ [(p.mask.toNat, p.value.toNat)] }
  else if p.kind = 2 then
    { b with pins := put [] b.pins (p.dstFna.toNat * 8 + p.cls.toNat) ((p.seq.take p.hops.toNat).map BitVec.toNat) }
  else if p.kind = 3 then { b with redirects := put none b.redirects p.dst.toNat (some p.toFna.toNat) }
  else
    { b with explicit := true
             table := p.entries.zipIdx.foldl (fun t e => put none t (p.first.toNat + e.2) (some e.1)) b.table }

def cmdFabRouteExpert (h : SpHdr) (p : RouteX) (s : State) : Cmd :=
  let ws := routeWidths p
  let known := 1 ≤ p.kind.toNat && p.kind.toNat ≤ 4
  cmdRoute h { op := 0x0382, need := 3, widths := ws, plen := if known then none else some h.plen.toNat }
    (routeForm s p ws) (routeState s p) (routeEdit p) s

/-- FAB_ROUTE 0x0382: a partition, a route pin, a redirect or a block of the table (R101, R107, R108, R321). -/
def execFabRouteExpert (h : SpHdr) (p : RouteX) (s : State) : Host.Outcome State Fault Refusal :=
  .next (s.run (.fabRouteExpert h p) (cmdFabRouteExpert h p s))

/-! ### Epoch sessions -/

/-- A sub-cube's mask and value: a value bit outside the mask names nothing. -/
def cubeForm (ws : List Nat) (k mask value : Nat) : Option Fail := badField ws (k + 1) (value &&& mask ≠ value)

/-- Copy the live bank into the spare bank and open the session (R321). -/
def State.effEpochStage (s : State) : State :=
  let s := s.setBank (!s.fab.live) (s.bank s.fab.live)
  s.setFab { s.fab with session := true, staged0 := s.fab.staged0 || s.fab.live, staged1 := s.fab.staged1 || !s.fab.live }

/-- Microseconds until the old bank is freed (R113). -/
def State.bankRetry (s : State) : Nat := ceilDiv (s.fab.commitAt + 50000 - s.mono) 1000

def cmdFabEpochStage (h : SpHdr) (mask value : BitVec 18) (s : State) : Cmd :=
  let here := s.named mask.toNat value.toNat
  { hdr := h
    spec := { op := 0x0303, need := 3, widths := [18, 18] }
    checks :=
      { form := [cubeForm [18, 18] 0 mask.toNat value.toNat]
        busy := [chk (here && s.fab.oldHeld) 0x0701 0 s.bankRetry] }
    eff := fun s =>
      let d : Done := { st := if here then s.effEpochStage else s }
      State.forwardTo d h (s.others mask.toNat value.toNat) }

/-- FAB_EPOCH_STAGE 0x0303 (R112, R113, R321). -/
def execFabEpochStage (h : SpHdr) (devMask devValue : BitVec 18) (s : State) : Host.Outcome State Fault Refusal :=
  .next (s.run (.fabEpochStage h devMask devValue) (cmdFabEpochStage h devMask devValue s))

def cmdFabEpochCommit (h : SpHdr) (mask value : BitVec 18) (fence : Bool) (s : State) : Cmd :=
  let here := s.named mask.toNat value.toNat
  let t := h.time.toNat
  { hdr := h
    spec := { op := 0x0304, need := 3, widths := [18, 18, 1] }
    checks :=
      { form := [
          cubeForm [18, 18, 1] 0 mask.toNat value.toNat,
          chk (!State.forwarded h && t < s.ns + 50000) 0x0105 hdrDetail]
        state := [chk (here && !s.fab.session) 0x0302] }
    eff := fun s =>
      let late := here && t < s.ns
      let s := if here then s.setFab { s.fab with
        commit := some (t, fence)
        commitFor := if fence then s.fab.commitFor ++ [h] else s.fab.commitFor } else s
      let s := if late then s.commitBank else s
      State.forwardTo { st := s, detail := if late then 1 else 0 } h (s.others mask.toNat value.toNat) (fence && here) }

/-- FAB_EPOCH_COMMIT 0x0304 (R112, R113, R321). -/
def execFabEpochCommit (h : SpHdr) (devMask devValue : BitVec 18) (fence : Bool) (s : State) : Host.Outcome State Fault Refusal :=
  .next (s.run (.fabEpochCommit h devMask devValue fence) (cmdFabEpochCommit h devMask devValue fence s))

/-! ### FAB_ENDPOINT -/

def endpointWidths : List Nat := [64, 8, 8, 32, 8, 8]

namespace State

/-- The second attachment's device, when FAB_ENDPOINT names one. -/
def fna2Of (p : EndpointP) : Option Nat := if p.fna2.toNat < 2 ^ 31 then none else some (p.fna2.toNat % 2 ^ 18)

/-- FAB_ENDPOINT configures a failover pair (R124, R125). -/
def isDual (p : EndpointP) : Bool := p.port2 ≠ 0xFF || (fna2Of p).isSome

/-- The ports of the endpoint that are on this device: on the secondary, the second alone (R125). -/
def ownPorts (s : State) (p : EndpointP) : List Nat :=
  let two := if p.port2 = 0xFF then [] else [p.port2.toNat]
  match fna2Of p with
  | none => p.port.toNat :: two
  | some f => if f = s.own then two else [p.port.toNat]

/-- Links of a port with the endpoint that announced `id`; before it has, all of them. -/
def linksOfEndpoint (s : State) (p id : Nat) : List Nat :=
  let ls := s.linksOf p
  let mine := ls.filter fun l => (s.slot l).identity.any fun i => i.toNat = id
  if mine.isEmpty then ls else mine

/-- The links of the endpoint a FAB_ENDPOINT names, on this device. -/
def linksNamed (s : State) (p : EndpointP) : List Nat := (s.ownPorts p).flatMap fun q => s.linksOfEndpoint q p.identity.toNat

/-- Stop or start admission from the endpoints of links (R127). -/
def drainLinks (s : State) (ls : List Nat) (on : Bool) : State := ls.foldl (fun s l => s.setSlot l { s.slot l with draining := on }) s

/-- Dual-homing, congestion echo, port authority; admission stops under DRAIN, and starts again without (R124-R127). -/
def effEndpoint (s : State) (p : EndpointP) (drain : Bool) : State :=
  let id := p.identity.toNat
  let ports := s.ownPorts p
  let links := s.linksNamed p
  let d : Dual := { port := p.port.toNat, port2 := p.port2.toNat, fna2 := fna2Of p }
  let s := if id = 0 then s else s.setFab { s.fab with dual := put none s.fab.dual id (if isDual p then some d else none) }
  let s := if p.echo = 0xFF then s else
    links.foldl (fun s l => s.setSlot l { s.slot l with echo := decide (p.echo = 1) }) s
  let s := if p.portAuth = 0xFF then s else
    ports.foldl (fun s q => s.setPort q { s.port q with auth := some p.portAuth.toNat }) s
  let s := s.drainLinks links drain
  if !drain then s
  else links.foldl (fun s l =>
    if (s.link l).st = .active && !(s.link l).txIdle then (s.setLink l { s.link l with txIdle := true }).emit (.electricalIdle l) else s) s

end State

def cmdFabEndpoint (h : SpHdr) (p : EndpointP) (s : State) : Cmd :=
  let ws := endpointWidths
  let ports := s.ownPorts p
  let links := s.linksNamed p
  { hdr := h
    spec := { op := 0x0305, need := 3, widths := ws, drain := true, feats := if State.isDual p then [8] else [] }
    checks :=
      { form := [
          badField ws 0 (p.identity = 0 && State.isDual p),
          badField ws 1 (63 < p.port.toNat),
          badField ws 2 (63 < p.port2.toNat && p.port2 ≠ 0xFF),
          badField ws 3 ((State.fna2Of p).any fun f => f ≠ s.own && !((List.range s.fab.ndim).any fun d => s.partner s.own d = f)),
          badField ws 4 (1 < p.echo.toNat && p.echo ≠ 0xFF),
          badField ws 5 (4 < p.portAuth.toNat && p.portAuth ≠ 0xFF)]
        auth := [chk (p.portAuth ≠ 0xFF && h.auth.toNat < 4) 0x0402]
        state := [chk ((State.isDual p || h.drain) && ports.any fun q => (look none s.fab.map q).isSome) 0x0302]
        phases := if h.drain then [s.openBound 0] else [] }
    eff := fun s => { st := s.effEndpoint p h.drain }
    start := fun _ s => s.drainLinks links true
    undo := fun s => s.drainLinks links false
    ready := fun _ s => links.all s.drainedLink }

/-- FAB_ENDPOINT 0x0305 (R124-R127, R309). -/
def execFabEndpoint (h : SpHdr) (p : EndpointP) (s : State) : Host.Outcome State Fault Refusal :=
  .next (s.run (.fabEndpoint h p) (cmdFabEndpoint h p s))

/-! ### FAB_WINDOW -/

def cmdFabWindow (h : SpHdr) (mask value : BitVec 18) (action : BitVec 2) (p : WindowP) (s : State) : Cmd :=
  let ws := [18, 18] ++ accessWidths
  let a := action.toNat
  let w := p.window.toNat
  let here := s.named mask.toNat value.toNat
  let claims := a < 2 && p.claim ≠ 0
  { hdr := h
    spec := { op := 0x0306, need := 2, widths := ws, feats := if claims then [10] else [] }
    checks :=
      { form := cubeForm ws 0 mask.toNat value.toNat :: State.windowForm ws 2 a p s.cel.plan
        state := if here then [s.windowState a w] else []
        admission := if here then [s.admitChk (s.effWindow a p)] else []
        resources := [chk (here && claims && (s.window w).gid = 0xFFFF && s.recordsFull) 0x0501] }
    eff := fun s =>
      let d : Done := if here then s.windowDone h a p else { st := s }
      let d := { d with params := [], gid := 0xFFFF, detail := if here then 1 else 0 }
      let own := d.wait
      State.forwardTo { d with wait := false } h (s.others mask.toNat value.toNat) own }

/-- FAB_WINDOW 0x0306: a window on every device of a sub-cube (R273, R317). -/
def execFabWindow (h : SpHdr) (devMask devValue : BitVec 18) (action : BitVec 2) (p : WindowP) (s : State) : Host.Outcome State Fault Refusal :=
  .next (s.run (.fabWindow h devMask devValue action p) (cmdFabWindow h devMask devValue action p s))

end Sys2Proof.Machine
end

