-- ==== Sys2Proof/Machine/CollCmd.lean ====
section
/-!
DEFINITION. The COLL commands and SYNC_OPEN (R317): contracts are opened, closed and queried (R162-R168, R173, R174,
R181, R182, R187-R191, R318), and sync identifiers bound and unbound (R196).
-/

namespace Sys2Proof.Machine

/-! ### The parameters of a contract -/

/-- The FORMAT codes (R174). -/
def formatOk (f : Nat) : Bool := fmtLg f || fmtIeee f || fmtInt f || fmtAcc f

/-- The formats of an operator (R173). -/
def opFormats (op f : Nat) : Bool :=
  if op = 1 then formatOk f
  else if op = 2 || op = 3 || op = 4 then fmtLg f || fmtIeee f || fmtInt f
  else if op = 5 || op = 6 then (f = 3 || fmtIeee f || fmtInt f) && 16 ≤ fmtBits f
  else if op = 7 || op = 8 || op = 9 then fmtInt f
  else f = 0x12 || f = 0x11 || f = 0x10 || f = 3

/-- Under the basic opcode the expert parameters take their defaults (R163, R318). -/
def basicPar (p : CollP) : CollP :=
  { p with pourBytes := 0, acc := 0, algo := 0, window := 0, deadline := 0, pin := 0xFF, quantum := 64, segments := 0,
           anchor := 0, tapMode := 0, seg := [] }

/-- The segments in force: the array, or the one of bytes 64-75 (R189, R318). -/
def segsOf (p : CollP) : List SegP :=
  if p.segments = 0 then [{ op := p.op, format := p.format, acc := decide (p.acc = 1), count := p.count }] else p.seg

/-- Form checks of one segment; `o` are the offsets of OP, FORMAT, ACC and COUNT (R173, R174). -/
def segForm (o : Nat × Nat × Nat × Nat) (g : SegP) : Option Fail :=
  firstFail [
    chk (g.op.toNat < 1 || 0xB < g.op.toNat) 0x0105 o.1,
    chk (!formatOk g.format.toNat || !opFormats g.op.toNat g.format.toNat) 0x0105 o.2.1,
    chk (g.acc && (g.op = 2 || g.op = 0xA)) 0x0105 o.2.2.1,
    chk (g.count = 0) 0x0105 o.2.2.2]

/-- Elements of a segment that a vat's accumulators hold (R58, R181). -/
def vatElems (g : SegP) (group : Nat) : Nat :=
  if exactSeg g then 524288 * 8 / exactBits g.format.toNat / 64 * 64
  else 524288 * 8 / elemBits g.op.toNat g.format.toNat group

/-- The most pours a vat can hold in flight (R181). -/
def windowLimit (pourBytes group : Nat) (gs : List SegP) : Nat :=
  (gs.map fun g => vatElems g group / pourElems pourBytes g.op.toNat g.format.toNat group).foldl min 128

/-- A pour size suits every segment: a multiple of 32 to 4,064 bytes, with room for an element (R163, R165, R179). -/
def pourFits (group : Nat) (gs : List SegP) (b : Nat) : Bool :=
  32 ≤ b && b ≤ 4064 && b % 32 = 0 && gs.all fun g => 0 < pourElems b g.op.toNat g.format.toNat group

/-- The group length in force; other operators do not use it (R163, R318). -/
def groupOf (p : CollP) : Nat := if (segsOf p).any fun g => g.op = 0xA then p.group.toNat else 1

/-- The algorithm in force over `k` dimensions (R182): 1 direct, 2 doubling, 3 halving, which is used only without a hole. -/
def algoOf (p : CollP) (k pours pourBytes : Nat) (hole : Bool) : Nat :=
  if k = 0 then 1
  else if p.algo = 2 || hole then 2
  else if p.algo = 3 then 3
  else if pourBytes * pours ≤ 4064 then 2 else 3

/-- The pour size: the one given, or firmware's choice, a free one of those that suit, before those with which halving would
be malformed (R163, R184, log 7). -/
def pourBytesOf (p : CollP) (k : Nat) (hole : Bool) (free : Nat) : Nat :=
  if p.pourBytes ≠ 0 then p.pourBytes.toNat
  else
    let gs := segsOf p
    let pours := fun (b : Nat) => (gs.map (segPours b (groupOf p))).sum
    let fits := ((List.range 128).map (· * 32)).filter fun b => pourFits (groupOf p) gs b && pours b ≤ 65536
    let good := fits.filter fun b => !(algoOf p k (pours b) b hole = 3 && pours b < 2 ^ k)
    let all := if good.isEmpty then fits else good
    all.getD (Config.freeNat free % all.length) 4064

namespace State

/-- The settlement identifier that the lead picks: a free choice of those that no collective holds here (R163, log 7). -/
def pickSync (s : State) : Option Nat :=
  let ids := (List.range 4096).filter fun i => (s.counter i).op = 0 && !(s.counter i).relay
  ids[Config.freeNat (s.free + 1) % ids.length]?

/-- The contract that an open describes (R163, R181-R189). -/
def contractOf (s : State) (h : SpHdr) (p : CollP) : Contract :=
  let gs := segsOf p
  let grp := groupOf p
  let m := p.devMask.toNat
  let holes := s.cubeHoles m p.devValue.toNat
  let b := pourBytesOf p (s.freeDims m).length (!holes.isEmpty) s.free
  let p := { p with group := BitVec.ofNat 16 grp }
  let pours := (gs.map (segPours b grp)).sum
  { par := p, pourBytes := b,
    window := if p.window = 0 then windowLimit b grp gs else p.window.toNat,
    algo := algoOf p (s.freeDims m).length pours b !holes.isEmpty,
    segs := gs,
    settleId := if !(p.replay = 1 || p.deadline ≠ 0) then none
      else if forwarded h then p.settle.map BitVec.toNat else s.pickSync,
    layerId := if h.layerId = 0 then s.svc.layerId else h.layerId,
    operatorId := if h.operatorId = 0 then s.svc.operatorId else h.operatorId,
    holes := holes }

/-- Open a contract here: its settlement identifier, its decant image, its record, and its vat when it is pinned (R163,
R187, R188, R192, R285). -/
def effOpen (s : State) (c : Contract) : Nat × State :=
  let key := c.par.ckey.toNat
  let m := c.par.devMask.toNat
  let v := c.par.devValue.toNat
  let s := { s with free := s.free + 2 }
  let s := match c.settleId with
    | some i => s.setCounter i { op := 7, devMask := m, devValue := v, steps := s.diameter m v, settle := true, holesAt := s.cubeHoles m v }
    | none => s
  let s := ((s.setContract key (some c)).setDecanted (s.cel.decanted + imageBytes c)).tableChange
  let r := if c.par.deadline = 0 then (0xFFFF, s) else s.addRecord (.contract key c.par.deadline.toNat)
  let s := if c.par.deadline = 0 then s else r.2.setContract key (some { c with gid := r.1 })
  let n := c.par.pin.toNat
  let s :=
    if n = 0xFF then s
    else
      let x := s.vat n
      let s := s.setVat n { x with pinned := true }
      if x.key.isNone then s.placeContract key n else s.startDecant n
  (r.1, s)

/-- Every position of a sub-cube lies in this device's partition (R163). -/
def cubeInPartition (s : State) (mask value : Nat) : Bool := (s.membersOf mask value).all fun f => s.samePartition s.own f

/-- A press of a set that no program can run on (R3, R191). -/
def badPress (s : State) (set : Nat) : Bool := (members 64 set).any fun n => !s.pressEnabled n

/-- Vats 0-59 that are pinned. -/
def pinnedVats (s : State) : Nat := ((List.range 60).filter fun v => (s.vat v).pinned).length

end State

/-! ### COLL_OPEN -/

/-- Form checks in the order of the parameter block (R163, R173, R174, R181, R184, R188-R190, R318). -/
def collForm (s : State) (h : SpHdr) (p : CollP) (c : Contract) : List (Option Fail) :=
  let m := p.devMask.toNat
  let v := p.devValue.toNat
  let k := (s.freeDims m).length
  let pours := roundPours c
  let offs := fun (i : Nat) => if p.segments = 0 then (64, 65, 75, 68) else (144 + 8 * i, 145 + 8 * i, 146 + 8 * i, 148 + 8 * i)
  let tap := p.tapMode ≠ 0
  [ chk (p.ckey = 0) 0x0105 0,
    chk (!s.cubeInPartition m v) 0x0105 4,
    chk (v &&& m ≠ v || (!State.forwarded h && !s.named m v)) 0x0105 8,
    chk (2 < p.receive.toNat) 0x0105 56,
    chk (p.receive = 1 && 2 ^ 26 ≤ p.root.toNat) 0x0105 60,
    firstFail (c.segs.zipIdx.map fun e => segForm (offs e.2) e.1),
    chk (65536 < pours) 0x0105 (offs 0).2.2.2,
    chk (p.pourBytes ≠ 0 && !pourFits (groupOf p) c.segs p.pourBytes.toNat) 0x0105 72,
    chk (7 < p.tc.toNat) 0x0105 74,
    chk (1 < p.acc.toNat) 0x0105 75,
    chk (3 < p.algo.toNat || (p.algo = 1 && 0 < k) || ((p.algo = 3 || c.algo = 3) && pours < 2 ^ k)) 0x0105 76,
    chk (windowLimit c.pourBytes (groupOf p) c.segs < p.window.toNat) 0x0105 77,
    chk (59 < p.pin.toNat && p.pin ≠ 0xFF) 0x0105 84,
    chk (p.quantum = 0) 0x0105 86,
    chk (1 < p.replay.toNat) 0x0105 88,
    chk (15 < p.segments.toNat || c.segs.length ≠ p.segments.toNat + 1) 0x0105 89,
    chk (c.segs.any (fun g => g.op = 0xA) && (p.group = 0 || 1024 < p.group.toNat || !pourFits (groupOf p) c.segs c.pourBytes)) 0x0105 124,
    chk (tap && (p.tapBase.toNat % 4096 ≠ 0 || 2 ^ 21 < p.tapBase.toNat + 4096 * p.tapSlots.toNat)) 0x0105 136,
    chk (tap && (p.tapSlots = 0 || 64 < p.tapSlots.toNat)) 0x0105 140,
    chk (tap && 63 < p.fill.toNat) 0x0105 141,
    chk (tap && 63 < p.free.toNat) 0x0105 142,
    chk (2 < p.tapMode.toNat) 0x0105 143]

def cmdColl (h : SpHdr) (op : Nat) (p : CollP) (s : State) : Cmd :=
  let c := s.contractOf h p
  let key := p.ckey.toNat
  let m := p.devMask.toNat
  let v := p.devValue.toNat
  let pin := p.pin.toNat
  let settles := p.replay = 1 || p.deadline ≠ 0
  let special := c.segs.any fun g => g.op = 0xA || g.op = 0xB
  { hdr := h
    spec :=
      { op := op, need := 2, plen := some (144 + if p.segments = 0 then 0 else 8 * (p.segments.toNat + 1)),
        feats := (if c.segs.any exactSeg then [5] else []) ++ (if special then [6] else []) ++ (if p.deadline ≠ 0 then [10] else []) }
    checks :=
      { form := collForm s h p c
        state := [
          chk (s.badPress p.presses.toNat || (p.tapMode ≠ 0 && (s.gradePinned = 0 || s.badPress p.tapPresses.toNat))) 0x0305,
          chk ((s.contract key).isSome) 0x0303,
          chk ((s.domain 3).st ≠ .active) 0x0302]
        admission := [
          chk (pin ≠ 0xFF && ((s.vat pin).pinned || 56 ≤ s.pinnedVats)) 0x0202,
          s.admitChk (s.effOpen c).2]
        resources := [
          chk (4096 ≤ (s.vats.contracts.filter fun e => e.2.isSome).length) 0x0501,
          chk (s.cel.plan.getD 2 0 * 2 ^ 22 < s.cel.decanted + imageBytes c) 0x0501,
          chk (settles && c.settleId.all fun i => (s.counter i).op ≠ 0 || (s.counter i).relay) 0x0501,
          chk (p.deadline ≠ 0 && s.recordsFull) 0x0501] }
    eff := fun s =>
      let r := s.effOpen c
      let id := if settles then c.settleId.getD 0 else Config.freeNat s.free % 65536
      State.forwardTo { st := r.2, params := [(16, id)], gid := r.1 } h (s.others m v) false key [(16, id)] }

def cmdCollOpen (h : SpHdr) (p : CollP) (s : State) : Cmd := cmdColl h 0x0501 (basicPar p) s

/-- COLL_OPEN 0x0501 (R162, R163, R166, R318). -/
def execCollOpen (h : SpHdr) (p : CollP) (s : State) : Host.Outcome State Fault Refusal :=
  .next (s.run (.collOpen h p) (cmdCollOpen h p s))

def cmdCollOpenExpert (h : SpHdr) (p : CollP) (s : State) : Cmd := cmdColl h 0x0581 p s

/-- COLL_OPEN 0x0581 (R162, R163, R166, R188-R191, R318). -/
def execCollOpenExpert (h : SpHdr) (p : CollP) (s : State) : Host.Outcome State Fault Refusal :=
  .next (s.run (.collOpenExpert h p) (cmdCollOpenExpert h p s))

/-! ### COLL_CLOSE and COLL_QUERY -/

namespace State

/-- Close a contract here: its record closes, and its settlement identifier is free again (R167, R192, R285). -/
def closeContract (s : State) (key : Nat) : State :=
  match s.contract key with
  | none => s
  | some c =>
    let s := (s.closeGid c.gid).dropContract key
    match c.settleId with
    | some i => (s.setCounter i {}).setCounter (syncPastOf i) {}
    | none => s

/-- Stop or resume taking contributions to new rounds (R167). -/
def setClosing (s : State) (key : Nat) (on : Bool) : State :=
  match s.contract key with
  | none => s
  | some c =>
    let s := s.setContract key (some { c with closing := on })
    if on then s else s.retryPending key

/-- No round of a contract is unsettled (R167). -/
def settled (s : State) (key : Nat) : Bool := (s.contract key).all fun c => c.rounds.isEmpty

/-- Devices of a contract other than this one. -/
def contractOthers (s : State) (key : Nat) : List Nat :=
  match s.contract key with
  | none => []
  | some c => s.others c.par.devMask.toNat c.par.devValue.toNat

/-- The lead still waits for the phases of other devices. -/
def awaits (s : State) (h : SpHdr) : Bool := s.svc.waiting.any fun w => w.hdr = h && !w.relay

/-- The unsettled rounds, oldest first (R165, R167). -/
def openRounds (c : Contract) : List Round :=
  [c.nextRound, (c.nextRound + 1) % 65536].filterMap (roundOf c)

/-- Local participants whose contribution some pour of the oldest unsettled round lacks (R167). -/
def missingCount (c : Contract) : Nat :=
  match (openRounds c).head? with
  | none => 0
  | some o => ((localParts c).filter fun p => (List.range (roundPours c)).any fun n =>
      let x := look {} o.pours n
      !x.done && !x.bitmap.getLsbD p).length

/-- One record of COLL_QUERY's reply (R167, R317). -/
def queryRecord (s : State) (c : Contract) : List (Nat × Nat) :=
  let r := fun (k : Nat) => (((openRounds c)[k]?).map Round.no).getD 0xFFFF
  [(32, s.own), (8, c.vat.getD 0xFF), (16, r 0), (16, r 1), (8, c.gen), (16, missingCount c)]

end State

/-- COLL_CLOSE: at once when every round is settled, the lead's own part once every other device has closed its own;
otherwise in two phases, which every device runs (R167). -/
def cmdCollClose (h : SpHdr) (ckey : BitVec 32) (s : State) : Cmd :=
  let key := ckey.toNat
  let load := !s.settled key
  { hdr := h
    spec := { op := 0x0502, need := 2, widths := [32], drain := true }
    checks :=
      { state := [chk (s.contract key).isNone 0x0304]
        load := load
        phases := if load then [s.openBound 0, s.openBound 1] else [] }
    eff := fun s =>
      let phased := s.svc.phased.any fun p => p.hdr = h
      let fs := s.contractOthers key
      if phased || State.forwarded h || fs.isEmpty then { st := s.closeContract key }
      else State.forwardTo { st := s.setClosing key true } h fs false key
    start := fun k s =>
      if k ≠ 0 then s else (State.forwardTo { st := s.setClosing key true } h (s.contractOthers key)).st
    undo := fun s => s.setClosing key false
    ready := fun k s => k = 0 || (s.settled key && !s.awaits h) }

/-- COLL_CLOSE 0x0502 (R167). -/
def execCollClose (h : SpHdr) (ckey : BitVec 32) (s : State) : Host.Outcome State Fault Refusal :=
  .next (s.run (.collClose h ckey) (cmdCollClose h ckey s))

/-- COLL_QUERY: the lead forwards it to the devices from FIRST on, in the order of their FNAs, and joins their records (R167,
R317). -/
def cmdCollQuery (h : SpHdr) (ckey first : BitVec 32) (count : BitVec 16) (s : State) : Cmd :=
  { hdr := h
    spec := { op := 0x0503, need := 1, widths := [32, 32, 16] }
    checks := { state := [chk (s.contract ckey.toNat).isNone 0x0304] }
    eff := fun s =>
      match s.contract ckey.toNat with
      | none => { st := s }
      | some c =>
        let all := s.membersOf c.par.devMask.toNat c.par.devValue.toNat
        let fs := if State.forwarded h then [s.own] else (all.drop first.toNat).take count.toNat
        State.forwardTo { st := s, params := if fs.contains s.own then s.queryRecord c else [] } h (fs.filter (· ≠ s.own)) }

/-- COLL_QUERY 0x0503 (R167). -/
def execCollQuery (h : SpHdr) (ckey first : BitVec 32) (count : BitVec 16) (s : State) : Host.Outcome State Fault Refusal :=
  .next (s.run (.collQuery h ckey first count) (cmdCollQuery h ckey first count s))

/-! ### SYNC_OPEN -/

namespace State

/-- Devices outside the sub-cube on the paths of the step plan, which hold a relay counter (R196). -/
def relayDevices (s : State) (op mask value : Nat) : List Nat :=
  if !syncDoubles op then []
  else
    let ds := s.freeDims mask
    let ms := s.membersOf mask value
    ((ms.flatMap fun v => (List.range ds.length).flatMap fun j => match s.sourceOf mask value ds v j with
      | some u => s.pathOf s.fab.ndim u v
      | none => []).filter fun f => !ms.contains f && f ≠ s.own).dedup

/-- Bind an identifier here, as a relay counter outside the sub-cube (R196, R285). -/
def effSync (s : State) (p : SyncOpenP) : Nat × State :=
  let i := p.syncId.toNat
  let m := p.devMask.toNat
  let v := p.devValue.toNat
  let here := s.named m v
  let r := if p.deadline = 0 || !here then (0xFFFF, s) else s.addRecord (.sync i p.deadline.toNat)
  (r.1, r.2.setCounter i
    { op := p.syncOp.toNat, devMask := m, devValue := v, steps := s.diameter m v, gid := r.1, relay := !here,
      holesAt := s.cubeHoles m v,
      slots := if here then p.slots else 0, presses := if here then p.presses else 0 })

/-- Unbind an identifier here (R196, R285). -/
def unbindSync (s : State) (i : Nat) : State :=
  ((s.closeGid (s.counter i).gid).setCounter i {}).setCounter (syncPastOf i) {}

end State

/-- SYNC_OPEN of either kind: SYNC_OP 0 unbinds (R196). -/
def cmdSync (h : SpHdr) (p : SyncOpenP) (s : State) : Cmd :=
  let ws := [16, 8, 18, 18, 256, 64, 32]
  let i := p.syncId.toNat
  let m := p.devMask.toNat
  let v := p.devValue.toNat
  let c := s.counter i
  let unbinds := p.syncOp = 0
  let bound := c.op ≠ 0 || c.relay
  let form := [
    badField ws 0 (4095 < i),
    badField ws 1 (0xC < p.syncOp.toNat),
    badField ws 2 (!unbinds && !s.cubeInPartition m v && !State.forwarded h),
    badField ws 3 (v &&& m ≠ v || (!State.forwarded h && !s.named m v))]
  let fs := s.others m v ++ s.relayDevices (if unbinds then c.op else p.syncOp.toNat) m v
  { hdr := h
    spec := { op := 0x0504, need := 2, widths := ws, feats := if !unbinds && p.deadline ≠ 0 then [10] else [] }
    checks :=
      if unbinds then { form := form, state := [chk (!bound) 0x0304, chk c.settle 0x0302] }
      else
        { form := form
          state := [
            chk (s.named m v && s.badPress p.presses.toNat) 0x0305,
            chk bound 0x0303,
            chk ((s.domain 3).st ≠ .active) 0x0302]
          admission := [s.admitChk (s.effSync p).2]
          resources := [chk (p.deadline ≠ 0 && s.recordsFull) 0x0501] }
    eff := fun s =>
      if unbinds then State.forwardTo { st := s.unbindSync i, params := [(8, 0)] } h fs
      else
        let r := s.effSync p
        State.forwardTo { st := r.2, params := [(8, s.diameter m v)], gid := r.1 } h fs }

def cmdSyncOpen (h : SpHdr) (p : SyncOpenP) (s : State) : Cmd := cmdSync h p s

/-- SYNC_OPEN 0x0504 (R196). -/
def execSyncOpen (h : SpHdr) (p : SyncOpenP) (s : State) : Host.Outcome State Fault Refusal :=
  .next (s.run (.syncOpen h p) (cmdSyncOpen h p s))

def cmdSyncUnbind (h : SpHdr) (p : SyncOpenP) (s : State) : Cmd := cmdSync h { p with syncOp := 0 } s

/-- SYNC_OPEN 0x0504 with SYNC_OP 0 (R196). -/
def execSyncUnbind (h : SpHdr) (p : SyncOpenP) (s : State) : Host.Outcome State Fault Refusal :=
  .next (s.run (.syncUnbind h p) (cmdSyncUnbind h p s))

end Sys2Proof.Machine
end

