-- ==== Sys2Proof/Machine/Crypto.lean ====
section
/-!
DEFINITION. The hash functions and the signature check that the spec names: SHA-256 and SHA-384 of FIPS 180-4 (R400,
R415) and ECDSA over P-384 (R400). The spec cites the standards; their constants are the standards' (log 63).
-/

namespace Sys2Proof.Machine

/-! ### SHA-2 -/

/-- Round constants of SHA-384: the fractional parts of the cube roots of the first 80 primes; SHA-256 uses the upper
halves of the first 64. -/
def shaK0 : List Nat :=
  [0x428A2F98D728AE22, 0x7137449123EF65CD, 0xB5C0FBCFEC4D3B2F, 0xE9B5DBA58189DBBC,
   0x3956C25BF348B538, 0x59F111F1B605D019, 0x923F82A4AF194F9B, 0xAB1C5ED5DA6D8118,
   0xD807AA98A3030242, 0x12835B0145706FBE, 0x243185BE4EE4B28C, 0x550C7DC3D5FFB4E2,
   0x72BE5D74F27B896F, 0x80DEB1FE3B1696B1, 0x9BDC06A725C71235, 0xC19BF174CF692694,
   0xE49B69C19EF14AD2, 0xEFBE4786384F25E3, 0x0FC19DC68B8CD5B5, 0x240CA1CC77AC9C65]

def shaK1 : List Nat :=
  [0x2DE92C6F592B0275, 0x4A7484AA6EA6E483, 0x5CB0A9DCBD41FBD4, 0x76F988DA831153B5,
   0x983E5152EE66DFAB, 0xA831C66D2DB43210, 0xB00327C898FB213F, 0xBF597FC7BEEF0EE4,
   0xC6E00BF33DA88FC2, 0xD5A79147930AA725, 0x06CA6351E003826F, 0x142929670A0E6E70,
   0x27B70A8546D22FFC, 0x2E1B21385C26C926, 0x4D2C6DFC5AC42AED, 0x53380D139D95B3DF,
   0x650A73548BAF63DE, 0x766A0ABB3C77B2A8, 0x81C2C92E47EDAEE6, 0x92722C851482353B]

def shaK2 : List Nat :=
  [0xA2BFE8A14CF10364, 0xA81A664BBC423001, 0xC24B8B70D0F89791, 0xC76C51A30654BE30,
   0xD192E819D6EF5218, 0xD69906245565A910, 0xF40E35855771202A, 0x106AA07032BBD1B8,
   0x19A4C116B8D2D0C8, 0x1E376C085141AB53, 0x2748774CDF8EEB99, 0x34B0BCB5E19B48A8,
   0x391C0CB3C5C95A63, 0x4ED8AA4AE3418ACB, 0x5B9CCA4F7763E373, 0x682E6FF3D6B2B8A3,
   0x748F82EE5DEFB2FC, 0x78A5636F43172F60, 0x84C87814A1F0AB72, 0x8CC702081A6439EC]

def shaK3 : List Nat :=
  [0x90BEFFFA23631E28, 0xA4506CEBDE82BDE9, 0xBEF9A3F7B2C67915, 0xC67178F2E372532B,
   0xCA273ECEEA26619C, 0xD186B8C721C0C207, 0xEADA7DD6CDE0EB1E, 0xF57D4F7FEE6ED178,
   0x06F067AA72176FBA, 0x0A637DC5A2C898A6, 0x113F9804BEF90DAE, 0x1B710B35131C471B,
   0x28DB77F523047D84, 0x32CAAB7B40C72493, 0x3C9EBE0A15C9BEBC, 0x431D67C49C100D4C,
   0x4CC5D4BECB3E42B6, 0x597F299CFC657E2A, 0x5FCB6FAB3AD6FAEC, 0x6C44198C4A475817]

def shaK : List Nat := shaK0 ++ shaK1 ++ shaK2 ++ shaK3

/-- Rotations and shifts of the four sigma functions. -/
structure ShaRots where
  big0 : Nat × Nat × Nat
  big1 : Nat × Nat × Nat
  small0 : Nat × Nat × Nat
  small1 : Nat × Nat × Nat

def rots256 : ShaRots := { big0 := (2, 13, 22), big1 := (6, 11, 25), small0 := (7, 18, 3), small1 := (17, 19, 10) }

def rots384 : ShaRots := { big0 := (28, 34, 39), big1 := (14, 18, 41), small0 := (1, 8, 7), small1 := (19, 61, 6) }

def shaBig {w : Nat} (r : Nat × Nat × Nat) (x : BitVec w) : BitVec w :=
  x.rotateRight r.1 ^^^ x.rotateRight r.2.1 ^^^ x.rotateRight r.2.2

def shaSmall {w : Nat} (r : Nat × Nat × Nat) (x : BitVec w) : BitVec w :=
  x.rotateRight r.1 ^^^ x.rotateRight r.2.1 ^^^ x >>> r.2.2

/-- The message schedule, newest word first. -/
def shaSchedule {w : Nat} (r : ShaRots) : Nat → List (BitVec w) → List (BitVec w)
  | 0, ws => ws
  | n + 1, ws =>
    shaSchedule r n ((shaSmall r.small1 (ws.getD 1 0) + ws.getD 6 0 + shaSmall r.small0 (ws.getD 14 0) + ws.getD 15 0) :: ws)

/-- One round over the eight working words. -/
def shaRound {w : Nat} (r : ShaRots) (v : List (BitVec w)) (k x : BitVec w) : List (BitVec w) :=
  match v with
  | [a, b, c, d, e, f, g, h] =>
    let t1 := h + shaBig r.big1 e + ((e &&& f) ^^^ (~~~e &&& g)) + k + x
    let t2 := shaBig r.big0 a + ((a &&& b) ^^^ (a &&& c) ^^^ (b &&& c))
    [t1 + t2, a, b, c, d + t1, e, f, g]
  | _ => v

/-- A big-endian word. -/
def beWord (w : Nat) (bs : List Byte) : BitVec w := BitVec.ofNat w (leNat bs.reverse)

/-- The first 16 words of a block, newest first. -/
def blockWords (w : Nat) (b : List Byte) : List (BitVec w) :=
  ((List.range 16).map fun i => beWord w ((b.drop (i * (w / 8))).take (w / 8))).reverse

/-- Fold one block into the hash value. -/
def shaBlock {w : Nat} (r : ShaRots) (ks : List (BitVec w)) (hs : List (BitVec w)) (b : List Byte) : List (BitVec w) :=
  let ws := (shaSchedule r (ks.length - 16) (blockWords w b)).reverse
  let v := (ks.zip ws).foldl (fun v e => shaRound r v e.1 e.2) hs
  List.zipWith (· + ·) hs v

/-- The blocks of a padded message; `n` bounds their number. -/
def blocksOf (size : Nat) : Nat → List Byte → List (List Byte)
  | 0, _ => []
  | n + 1, bs => if bs.isEmpty then [] else bs.take size :: blocksOf size n (bs.drop size)

/-- A message padded to whole blocks of `size` bytes: 0x80, zeros, and its length in bits. -/
def shaPad (size : Nat) (m : List Byte) : List Byte :=
  let n := m.length
  let z := (size - (n + 1 + size / 8) % size) % size
  m ++ [0x80#8] ++ List.replicate z 0 ++ (leBytes (size / 8) (n * 8)).reverse

def shaHash (w : Nat) (r : ShaRots) (ks h0 : List Nat) (outWords : Nat) (m : List Byte) : List Byte :=
  let p := shaPad (2 * w) m
  let hs := (blocksOf (2 * w) (p.length / (2 * w)) p).foldl (shaBlock r (ks.map (BitVec.ofNat w))) (h0.map (BitVec.ofNat w))
  (hs.take outWords).flatMap fun x => (leBytes (w / 8) x.toNat).reverse

def sha256 (m : List Byte) : List Byte :=
  shaHash 32 rots256 ((shaK.take 64).map (· / 2 ^ 32))
    [0x6A09E667, 0xBB67AE85, 0x3C6EF372, 0xA54FF53A,
   0x510E527F, 0x9B05688C, 0x1F83D9AB, 0x5BE0CD19] 8 m

def sha384 (m : List Byte) : List Byte :=
  shaHash 64 rots384 shaK
    [0xCBBB9D5DC1059ED8, 0x629A292A367CD507, 0x9159015A3070DD17, 0x152FECD8F70E5939,
   0x67332667FFC00B31, 0x8EB44A8768581511, 0xDB0C2E0D64F98FA7, 0x47B5481DBEFA4FA4] 6 m

/-! ### ECDSA over P-384 -/

/-- The field prime of P-384. -/
def p384P : Nat := 2 ^ 384 - 2 ^ 128 - 2 ^ 96 + 2 ^ 32 - 1

/-- The order of the base point. -/
def p384N : Nat := 0xFFFFFFFFFFFFFFFFFFFFFFFFFFFFFFFFFFFFFFFFFFFFFFFFC7634D81F4372DDF581A0DB248B0A77AECEC196ACCC52973

def p384B : Nat := 0xB3312FA7E23EE7E4988E056BE3F82D19181D9C6EFE8141120314088F5013875AC656398D8A2ED19D2A85C8EDD3EC2AEF

/-- The base point. -/
def p384G : Nat × Nat :=
  (0xAA87CA22BE8B05378EB1C71EF320AD746E1D3B628BA79B9859F741E082542A385502F25DBF55296C3A545E3872760AB7,
   0x3617DE4A96262C6F5D9E98BF9292DC29F8F41DBD289A147CE9DA3113B5F0B8C00A60B1CE1D7E819D7A431D7C90EA0E5F)

/-- `b ^ e` modulo `m`, over the low `k` bits of `e`. -/
def powMod (m : Nat) : Nat → Nat → Nat → Nat
  | 0, _, _ => 1 % m
  | k + 1, b, e =>
    let r := powMod m k (b * b % m) (e / 2)
    if e % 2 = 1 then b * r % m else r

/-- The inverse modulo a 384-bit prime. -/
def invMod (m a : Nat) : Nat := powMod m 384 (a % m) (m - 2)

def subMod (m a b : Nat) : Nat := (a % m + (m - b % m)) % m

/-- Addition of points of the curve; none is the point at infinity. -/
def ecAdd : Option (Nat × Nat) → Option (Nat × Nat) → Option (Nat × Nat)
  | none, q => q
  | p, none => p
  | some (x1, y1), some (x2, y2) =>
    if x1 = x2 && (y1 + y2) % p384P = 0 then none
    else
      let l := if x1 = x2 then (3 * x1 * x1 + (p384P - 3)) * invMod p384P (2 * y1) % p384P
        else subMod p384P y2 y1 * invMod p384P (subMod p384P x2 x1) % p384P
      let x3 := subMod p384P (l * l) (x1 + x2)
      some (x3, subMod p384P (l * subMod p384P x1 x3) y1)

/-- `k` times a point, over the low `n` bits of `k`. -/
def ecMul : Nat → Nat → Option (Nat × Nat) → Option (Nat × Nat)
  | 0, _, _ => none
  | n + 1, k, p =>
    let r := ecMul n (k / 2) (ecAdd p p)
    if k % 2 = 1 then ecAdd p r else r

/-- The point lies on the curve. -/
def onCurve (x y : Nat) : Bool :=
  x < p384P && y < p384P && y * y % p384P = (x * x * x + (p384P - 3) * x + p384B) % p384P

/-- An uncompressed point, 97 bytes (R400). -/
def pointOf (k : List Byte) : Option (Nat × Nat) :=
  let x := leNat (((k.drop 1).take 48).reverse)
  let y := leNat (((k.drop 49).take 48).reverse)
  if k.head? = some 4 && onCurve x y then some (x, y) else none

/-- The ECDSA check of a signature *r*, *s* over a hash of 48 bytes. -/
def ecdsaOk (key sig hash : List Byte) : Bool :=
  let r := leNat ((sig.take 48).reverse)
  let t := leNat (((sig.drop 48).take 48).reverse)
  match pointOf key with
  | none => false
  | some q =>
    if r = 0 || p384N ≤ r || t = 0 || p384N ≤ t then false
    else
      let z := leNat hash.reverse
      let w := invMod p384N t
      match ecAdd (ecMul 384 (z * w % p384N) (some p384G)) (ecMul 384 (r * w % p384N) (some q)) with
      | some (x, _) => x % p384N = r
      | none => false

end Sys2Proof.Machine
end

