-- ==== Sys2Proof/Machine/TeleCmd.lean ====
section
/-!
DEFINITION. The HARVEST and FAULT commands (R317): HARVEST_CFG (R418), FAULT_CFG, FAULT_INJECT and FAULT_QUERY (R348,
R355, R356).
-/

namespace Sys2Proof.Machine

def cmdHarvest (h : SpHdr) (op : Nat) (ws : List Nat) (interval : BitVec 32) (select : BitVec 256) (vector : Nat) : Cmd :=
  let expert := ws.length = 3
  { hdr := h
    spec := { op := op, need := 3, widths := ws, stage := true,
              feats := if select.getLsbD 248 || select.getLsbD 249 then [11] else [] }
    checks :=
      { form := [
          badField ws 0 (interval.toNat < 10 || 10000000 < interval.toNat),
          chk (expert && select &&& ~~~selectMask ≠ 0) 0x0104 (offsetOf ws 1),
          badField ws 2 (expert && (vector < 8 || 63 < vector))] }
    eff := fun s => { st := s.effHarvest interval.toNat select vector }
    same := fun _ => true }

def cmdHarvestCfg (h : SpHdr) (interval : BitVec 32) (_s : State) : Cmd := cmdHarvest h 0x0901 [32] interval 0x85 8

/-- HARVEST_CFG 0x0901: bits 0, 2 and 7, vector 8 (R418). -/
def execHarvestCfg (h : SpHdr) (interval : BitVec 32) (s : State) : Host.Outcome State Fault Refusal :=
  .next (s.run (.harvestCfg h interval) (cmdHarvestCfg h interval s))

def cmdHarvestCfgExpert (h : SpHdr) (interval : BitVec 32) (select : BitVec 256) (vector : BitVec 8) (_s : State) : Cmd :=
  cmdHarvest h 0x0981 [32, 256, 8] interval select vector.toNat

/-- HARVEST_CFG 0x0981 (R418). -/
def execHarvestCfgExpert (h : SpHdr) (interval : BitVec 32) (select : BitVec 256) (vector : BitVec 8) (s : State) :
    Host.Outcome State Fault Refusal :=
  .next (s.run (.harvestCfgExpert h interval select vector) (cmdHarvestCfgExpert h interval select vector s))

def cmdFaultCfg (h : SpHdr) (first count : BitVec 16) (sev : List (BitVec 8)) (_s : State) : Cmd :=
  let ws := [16, 16] ++ List.replicate count.toNat 8
  { hdr := h
    spec := { op := 0x0982, need := 3, widths := ws, stage := true }
    checks :=
      { form := [
          badField ws 0 (2047 < first.toNat),
          badField ws 1 (2048 < first.toNat + count.toNat),
          badField ws 2 (sev.any fun v => decide (5 < v.toNat))] }
    eff := fun s => { st := s.effFaultCfg first.toNat sev }
    same := fun i => match i with
      | .faultCfg _ f n _ => f = first && n = count
      | _ => false }

/-- FAULT_CFG 0x0982 (R348). -/
def execFaultCfg (h : SpHdr) (first count : BitVec 16) (severity : List (BitVec 8)) (s : State) : Host.Outcome State Fault Refusal :=
  .next (s.run (.faultCfg h first count severity) (cmdFaultCfg h first count severity s))

/-- LEVEL 0: the force bit of a source for COUNT microseconds; COUNT 0 clears it (R355). -/
def State.forceFor (s : State) (source count : Nat) : State :=
  if count = 0 then s.setForce source false
  else
    let s := s.setForce source true
    { s with faults := { s.faults with forceTime := put 0 s.faults.forceTime source (s.mono + count * 1000) } }

def cmdFaultInject (h : SpHdr) (level source count : Nat) (s : State) : Cmd :=
  let ws := [8, 16, 16]
  let group := source % 128
  { hdr := h
    spec := { op := 0x0983, need := 4, widths := ws }
    checks :=
      { form := [
          badField ws 0 (1 < level),
          badField ws 1 (level = 0 && (2047 < source || (faultDefault source).isNone)),
          badField ws 1 (level = 1 && (255 < source || 0x46 < group))]
        busy := [chk (level = 1 && s.injRunning group) 0x0701] }
    eff := fun s => { st := if level = 0 then s.forceFor source count else s.injStart source count } }

def cmdFaultInjectLevel0 (h : SpHdr) (level : BitVec 8) (source count : BitVec 16) (s : State) : Cmd :=
  cmdFaultInject h level.toNat source.toNat count.toNat s

/-- FAULT_INJECT 0x0983, LEVEL 0 (R355). -/
def execFaultInjectLevel0 (h : SpHdr) (level : BitVec 8) (source count : BitVec 16) (s : State) : Host.Outcome State Fault Refusal :=
  .next (s.run (.faultInjectLevel0 h level source count) (cmdFaultInjectLevel0 h level source count s))

def cmdFaultInjectLevel1 (h : SpHdr) (group count : BitVec 16) (s : State) : Cmd := cmdFaultInject h 1 group.toNat count.toNat s

/-- FAULT_INJECT 0x0983, LEVEL 1 (R356). -/
def execFaultInjectLevel1 (h : SpHdr) (group count : BitVec 16) (s : State) : Host.Outcome State Fault Refusal :=
  .next (s.run (.faultInjectLevel1 h group count) (cmdFaultInjectLevel1 h group count s))

/-- STICKY and SEVERITY of `n` sources from `first` on (R317). -/
def State.faultReply (s : State) (first n : Nat) : List (Nat × Nat) :=
  ((List.range (ceilDiv n 64)).map fun k => (64, ((List.range (min 64 (n - 64 * k))).map fun i =>
    b01 (look false s.faults.sticky (first + 64 * k + i)) * 2 ^ i).sum)) ++
  (List.range n).map fun i => (8, s.severity (first + i))

def cmdFaultQuery (h : SpHdr) (first count : BitVec 16) (_s : State) : Cmd :=
  let ws := [16, 16]
  { hdr := h
    spec := { op := 0x0904, need := 1, widths := ws }
    checks := { form := [
      badField ws 0 (2047 < first.toNat),
      badField ws 1 (2048 < first.toNat + count.toNat)] }
    eff := fun s => { st := s, params := s.faultReply first.toNat count.toNat } }

/-- FAULT_QUERY 0x0904 (R317, R338). -/
def execFaultQuery (h : SpHdr) (first count : BitVec 16) (s : State) : Host.Outcome State Fault Refusal :=
  .next (s.run (.faultQuery h first count) (cmdFaultQuery h first count s))

end Sys2Proof.Machine
end

