-- ==== Sys2Proof/Machine/FwCmd.lean ====
section
/-!
DEFINITION. Firmware images and update (R399-R408), the life cycle (R409-R412), grade pinning (R413, R414) and the
cellar book (R416).
-/

namespace Sys2Proof.Machine

namespace State

/-! ### The control record (R399) -/

/-- SEQ `a` is higher than `b` (R399). -/
def seqHigher (a b : BitVec 32) : Bool := 1 ≤ (a - b).toNat && (a - b).toNat ≤ 2 ^ 31 - 1

/-- The slot in force: 0, 1 or none. -/
def ctlSlot (s : State) : Option Nat :=
  match s.ident.ctlRec0, s.ident.ctlRec1 with
  | some a, some b => some (if seqHigher b.seq a.seq then 1 else 0)
  | some _, none => some 0
  | none, some _ => some 1
  | none, none => none

/-- The record in force. -/
def ctlNow (s : State) : Option CtlRec :=
  match s.ctlSlot with
  | some 0 => s.ident.ctlRec0
  | some _ => s.ident.ctlRec1
  | none => none

/-- Change the record: the other slot is written whole with the next SEQ (R399). -/
def ctlSet (s : State) (f : CtlRec → CtlRec) : State :=
  let now := s.ctlNow.getD {}
  let r := { f now with seq := now.seq + 1 }
  { s with ident := if s.ctlSlot = some 0 then { s.ident with ctlRec1 := some r } else { s.ident with ctlRec0 := some r } }

/-! ### Images (R400) -/

def stagingBytes (s : State) (o n : Nat) : List Byte := readMem s.fw.staging o n

def imageLength (s : State) : Nat := leNat (s.stagingBytes 12 4)

def imageVersion (s : State) : BitVec 32 := BitVec.ofNat 32 (leNat (s.stagingBytes 8 4))

def imageHandover (s : State) : Nat := leNat (s.stagingBytes 6 2)

/-- MAGIC, HDR_VERSION, FW_VERSION and LENGTH of the staging image. -/
def headerOk (s : State) : Bool :=
  leNat (s.stagingBytes 0 4) = 0x5746505A && leNat (s.stagingBytes 4 2) = 1 && s.imageVersion ≠ 0 &&
    512 ≤ s.imageLength && s.imageLength % 512 = 0 && s.imageLength ≤ 2 ^ 22

/-- The image hash: bytes 0-135 and 232 onward (R400). -/
def imageHash (s : State) : List Byte := sha384 (s.stagingBytes 0 136 ++ s.stagingBytes 232 (s.imageLength - 232))

/-- PUBKEY hashes to the fused key hash; BLANK skips the comparison (R400, R409). -/
def keyOk (s : State) : Bool := s.lcState = 0 || s.ident.keyHash = some (sha384 (s.stagingBytes 32 97))

/-- The first failing check of FW_VERIFY: 1 header, 2 key hash, 3 signature, 4 handover version (R407). -/
def verifyFail (s : State) : Option Nat :=
  if !s.headerOk then some 1
  else if !s.keyOk then some 2
  else if !ecdsaOk (s.stagingBytes 32 97) (s.stagingBytes 136 96) s.imageHash then some 3
  else if !s.ctl.recovery && s.imageHandover ≠ s.fw.handover then some 4
  else none

end State

/-! ### FW_BLOCK, FW_VERIFY, FW_ACTIVATE -/

/-- Store a block; one at OFFSET 0 erases the slot first and takes its ownership (R406). -/
def State.effBlock (s : State) (src offset : Nat) (data : List Byte) : State :=
  let f := s.fw
  let f := if offset = 0 then { f with staging := [], written := [], owner := some src } else f
  { s with fw := { f with
      staging := writeMem f.staging offset data
      written := (offset, data.length) :: f.written
      verified := false } }

/-- A block overlaps bytes written since the erase (R406). -/
def State.overlaps (s : State) (o n : Nat) : Bool := s.fw.written.any fun e => o < e.1 + e.2 && e.1 < o + n

def cmdFwBlock (h : SpHdr) (offset length : BitVec 32) (data : List Byte) (s : State) : Cmd :=
  let o := offset.toNat
  let n := length.toNat
  { hdr := h
    spec := { op := 0x0A01, need := 4, plen := some (8 + ceilDiv n 8 * 8) }
    checks :=
      { form := [
          chk (o % 16 ≠ 0) 0x0105 0,
          chk (n < 1 || 65536 < n || 2 ^ 22 < o + n) 0x0105 4]
        state := [
          chk (s.fw.owner.any fun w => w ≠ h.src) 0x0302,
          chk (o ≠ 0 && s.overlaps o n) 0x0302] }
    eff := fun s => { st := s.effBlock h.src o (data.take n) } }

/-- FW_BLOCK 0x0A01 (R406). -/
def execFwBlock (h : SpHdr) (offset length : BitVec 32) (data : List Byte) (s : State) : Host.Outcome State Fault Refusal :=
  .next (s.run (.fwBlock h offset length data) (cmdFwBlock h offset length data s))

/-- The owner's command has completed: the slot is free again (R406). -/
def State.disown (s : State) (src : Nat) : State :=
  { s with fw := { s.fw with owner := if s.fw.owner = some src then none else s.fw.owner } }

def cmdFwVerify (h : SpHdr) (_s : State) : Cmd :=
  { hdr := h
    spec := { op := 0x0A02, need := 4 }
    eff := fun s =>
      let t := s.disown h.src
      match s.verifyFail with
      | some k => { st := { t with fw := { t.fw with verified := false } }, status := 0x0603, detail := k }
      | none => { st := { t with fw := { t.fw with verified := true } }, params := [(32, s.imageVersion.toNat)] } }

/-- FW_VERIFY 0x0A02 (R400, R407). -/
def execFwVerify (h : SpHdr) (s : State) : Host.Outcome State Fault Refusal :=
  .next (s.run (.fwVerify h) (cmdFwVerify h s))

/-- The restart that FW_ACTIVATE asks of CC4; in ROM recovery the image boots instead (R403, R408). -/
def State.activate (s : State) (h : SpHdr) : State :=
  let s := s.ctlSet fun r => { r with marker := true }
  let s : State := { s with fw := { s.fw with activating := some h } }
  if s.ctl.recovery then s.setCtl { s.ctl with recovery := false }
  else
    let s := s.pauseControl
    { s with faults := { s.faults with resetDue := s.faults.resetDue ++ [(0xFFFF, .core 0)] } }

def cmdFwActivate (h : SpHdr) (s : State) : Cmd :=
  { hdr := h
    spec := { op := 0x0A03, need := 4 }
    checks :=
      { state := [chk (!s.fw.verified) 0x0302]
        busy := [chk s.svc.phased.isSome 0x0701 0 s.phasedRetry] }
    eff := fun s => { st := s.activate h, wait := true } }

/-- FW_ACTIVATE 0x0A03 (R327, R408): the new firmware sends the reply, at the end of the restart. -/
def execFwActivate (h : SpHdr) (s : State) : Host.Outcome State Fault Refusal :=
  .next (s.run (.fwActivate h) (cmdFwActivate h s))

namespace State

/-- Each source's agreed set under the firmware's features (R327). -/
def reagree (s : State) : State :=
  { s with svc := { s.svc with sources := s.svc.sources.map fun (e : Nat × Source) =>
      (e.1, { e.2 with agreed := e.2.hostFeatures &&& s.fw.features }) } }

/-- The staging image runs: its version and handover format; its features are open (R327, log 7). -/
def adoptImage (s : State) : State :=
  let f := s.fresh
  let s := f.2
  { s with fw := { s.fw with
      version := s.imageVersion
      handover := s.imageHandover
      features := (BitVec.ofNat 256 (Config.freeNat f.1) &&& 0x1FFF) ||| 1
      verified := false
      copying := true } }

/-- The reply of FW_ACTIVATE (R408). -/
def answerActivate (s : State) : State :=
  match s.fw.activating with
  | none => s
  | some h => complete h { st := ({ s with fw := { s.fw with activating := none } } : State).disown h.src }

/-- The restarted control complex: with a good handover command service resumes, otherwise the device quiesces (R366,
R408). -/
def restartDone (s : State) (handoverOk : Bool) : State :=
  let s := if s.fw.activating.isSome then s.adoptImage.reagree else s
  let s := s.setCtl { s.ctl with cmdPaused := false, fwReady := true }
  if handoverOk then s.answerActivate else (s.assertSrc 0x684).quiesce.answerActivate

end State

/-- IMAGE_COPY_DONE (R401): the marker clears and event 0x40 gives the old and new versions. -/
def execImageCopyDone (s : State) : Host.Outcome State Fault Refusal :=
  if !s.fw.copying then .next s
  else
    let old := s.fw.activeVersion
    let s := if (s.ctlNow.map CtlRec.marker).getD false then s.ctlSet fun r => { r with marker := false } else s
    let s : State := { s with fw := { s.fw with copying := false, activeVersion := s.fw.version } }
    .next (s.logEvent { code := 0x40, detail := [old.toNat, s.fw.version.toNat] })

/-! ### The life cycle (R409-R412) -/

namespace State

/-- Targets allowed from a state (R409). -/
def lcAllowed (now : Nat) : List Nat :=
  match now with
  | 0 => [1]
  | 1 => [2, 4]
  | 2 => [3, 4]
  | 3 => [4]
  | _ => []

/-- Comparators 0 and 1 read LEVEL 1 and BAND 0, unchanged for 100 ms (R411). -/
def supplySteady (s : State) : Bool :=
  [0, 1].all fun c => (s.cmp c).lvl && !(s.cmp c).band && decide ((s.cmp c).since + 100000000 ≤ s.mono)

/-- Burn both groups of a target (R410). -/
def burnTarget (s : State) (t : Nat) : State :=
  { s with ident := { s.ident with lcIntent := put 0 s.ident.lcIntent t 16, lcCommit := put 0 s.ident.lcCommit t 16 } }

/-- A transition, with event 0x41 (R410). -/
def transition (s : State) (t : Nat) : State :=
  let old := s.lcState
  (s.burnTarget t).logEvent { code := 0x41, detail := [old, t] }

end State

def cmdLcTransition (h : SpHdr) (target : BitVec 8) (s : State) : Cmd :=
  let t := target.toNat
  { hdr := h
    spec := { op := 0x0A04, need := 4, widths := [8] }
    checks :=
      { form := [badField [8] 0 (4 < t)]
        auth := [chk (!(State.lcAllowed s.lcState).contains t) 0x0403]
        state := [chk (t = 1 && s.ident.keyHash.isNone) 0x0302]
        busy := [chk (!s.supplySteady) 0x0701 0 100000] }
    eff := fun s => { st := s.transition t } }

/-- LC_TRANSITION 0x0A04 (R409-R411). -/
def execLcTransition (h : SpHdr) (target : BitVec 8) (s : State) : Host.Outcome State Fault Refusal :=
  .next (s.run (.lcTransition h target) (cmdLcTransition h target s))

/-- JTAG_KEY_HASH_WRITE (R409): only in BLANK, and only once. -/
def execJtagKeyHashWrite (hash : List Byte) (s : State) : Host.Outcome State Fault Refusal :=
  .next (if s.lcState = 0 && s.ident.keyHash.isNone then { s with ident := { s.ident with keyHash := some hash } } else s)

/-! ### Grade pinning (R413, R414) -/

namespace State

/-- Apply a pin: presses it masks are turned off and their contexts become EMPTY (R414). -/
def applyPin (s : State) (grade : Option Nat) : State :=
  let was := (List.range 64).filter s.pressEnabled
  let s : State := { s with ident := { s.ident with pinApplied := grade } }
  (was.filter fun n => !s.pressEnabled n).foldl (fun s n =>
    let s := s.clearPress n
    if (s.domain (16 + n)).st = .off then s.setDomain (16 + n) { s.domain (16 + n) with going := none }
    else s.domGo (16 + n) .off) s

/-- Presses whose service a pin changes: (masked, returned). -/
def pinChange (s : State) (grade : Nat) : List Nat × List Nat :=
  let t : State := { s with ident := { s.ident with pinApplied := some grade } }
  let all := List.range 64
  (all.filter fun n => s.pressEnabled n && !t.pressEnabled n, all.filter fun n => !s.pressEnabled n && t.pressEnabled n)

end State

def cmdGradePin (h : SpHdr) (grade : BitVec 8) (s : State) : Cmd :=
  let g := grade.toNat
  let ch := s.pinChange g
  let named := s.vats.contracts.any fun e => e.2.any fun c =>
    ch.1.any fun n => c.par.presses.getLsbD n || (c.par.tapMode ≠ 0 && c.par.tapPresses.getLsbD n)
  let spare := s.press.press.any fun e => e.2.ctxs.any fun x =>
    decide (x.2.st ≠ .empty) && decide (x.2.spareSize ≠ 0) && ch.2.contains (x.2.spareBase / staveBytes)
  { hdr := h
    spec := { op := 0x0A05, need := 4, widths := [8], feats := [12] }
    checks :=
      { form := [badField [8] 0 (!([64, 56, 48, 0].contains g) || s.ident.gradeFused < g)]
        auth := [chk (s.lcState ≠ 1 && s.lcState ≠ 2) 0x0403]
        state := [chk (!s.runningPresses.isEmpty || named) 0x0302, chk spare 0x0302]
        admission := [
          firstFail (ch.1.map fun n => s.domainGuarantee (16 + n)),
          s.admitChk (s.applyPin (some g))] }
    eff := fun s =>
      let s := (s.ctlSet fun r => { r with pin := some g }).applyPin (some g)
      { st := s.logEvent { code := 0x42, detail := [g] } } }

/-- GRADE_PIN 0x0A05 (R413, R414): written to the control record before the reply. -/
def execGradePin (h : SpHdr) (grade : BitVec 8) (s : State) : Host.Outcome State Fault Refusal :=
  .next (s.run (.gradePin h grade) (cmdGradePin h grade s))

/-! ### The cellar book (R416) -/

/-- A book record as its 128 bytes. -/
def BookRec.bytes (r : BookRec) : List Byte :=
  leBytes 8 r.seq ++ leBytes 8 r.timeStart ++ leBytes 8 r.timeDone ++ leBytes 8 r.presses.toNat ++
  leBytes 4 r.fwVersion.toNat ++ leBytes 4 r.bundleCrc.toNat ++ leBytes 8 r.vintage ++
  leBytes 2 r.layerId.toNat ++ leBytes 2 r.operatorId.toNat ++
  leBytes 1 1 ++ leBytes 1 (b01 r.full) ++ leBytes 1 r.context ++ leBytes 1 r.status ++
  leBytes 1 r.gradeFused ++ leBytes 1 r.gradePinned ++ leBytes 6 0 ++
  r.inDigest.take 16 ++ r.outDigest.take 16 ++ leBytes 32 0

/-- The record of position `seq`; zeros where none stands. -/
def State.bookAt (s : State) (seq : Nat) : Nat :=
  match s.tele.book.find? fun r => r.seq = seq with
  | some r => leNat r.bytes
  | none => 0

def cmdBookRead (h : SpHdr) (first : BitVec 64) (count : BitVec 16) (_s : State) : Cmd :=
  { hdr := h
    spec := { op := 0x0A06, need := 1, widths := [64, 16], feats := [11] }
    eff := fun s =>
      { st := s, params := (List.range count.toNat).map fun i => (1024, s.bookAt (first.toNat + i)) } }

/-- BOOK_READ 0x0A06 (R416). -/
def execBookRead (h : SpHdr) (first : BitVec 64) (count : BitVec 16) (s : State) : Host.Outcome State Fault Refusal :=
  .next (s.run (.bookRead h first count) (cmdBookRead h first count s))

end Sys2Proof.Machine
end

