-- ==== Sys2Proof/Machine/Reset.lean ====
section
/-!
DEFINITION. Resets: the full reset (R332, R431), the rings' reset of PERST_N and the function-level reset (R345), and
the reset of one unit over the maintenance ring (R22, R349, R350).
-/

namespace Sys2Proof.Machine

/-- The number by which UNIT_RESET names a unit (log 64). -/
def FUnit.code : FUnit → Nat
  | .none => 0
  | .port p => 2 ^ 24 + p
  | .pool k => 2 * 2 ^ 24 + k
  | .cask c => 3 * 2 ^ 24 + c
  | .dim d => 4 * 2 ^ 24 + d
  | .epPort p => 5 * 2 ^ 24 + p
  | .requester n id => 6 * 2 ^ 24 + n * 16 + id
  | .press n => 7 * 2 ^ 24 + n
  | .vat v => 8 * 2 ^ 24 + v
  | .core c => 9 * 2 ^ 24 + c
  | .stave n => 10 * 2 ^ 24 + n
  | .syncEngine => 11 * 2 ^ 24
  | .tier k => 12 * 2 ^ 24 + k

/-- The units behind a station of the maintenance ring, the stations numbered in the order of their list (log 64). -/
def stationUnits (n : Nat) : List FUnit :=
  if n < 8 then (List.range 8).map fun i => .port (8 * n + i)
  else if n = 8 then (List.range 4).map .pool
  else if n = 9 then []
  else if n = 10 then (List.range 64).map .vat
  else if n = 11 then [.syncEngine]
  else if n < 76 then [.press (n - 12)]
  else if n < 140 then [.stave (n - 76)]
  else if n < 144 then [.tier (n - 140)]
  else [.core 0]

/-- The power domains that supply a unit (R17, R24). -/
def FUnit.domains : FUnit → List Nat
  | .none => []
  | .port p | .epPort p => [4 + p / 8]
  | .pool _ | .cask _ | .dim _ => [2]
  | .requester _ _ | .stave _ | .tier _ => [12, 13, 14, 15]
  | .press n => [16 + n]
  | .vat _ | .syncEngine => [3]
  | .core _ => [1]

namespace State

/-- The block of a unit is powered; the station of one that is not bypasses it (R22). -/
def unitPowered (s : State) (u : FUnit) : Bool := u.domains.all s.domActive

/-- Every link of a port trains from DETECT (R85, R349). -/
def portTrains (s : State) (p : Nat) : State :=
  (s.linksOf p).foldl (fun s l => (s.dropLink l .detect).linkMoved l) s

/-- Every packet of a pool is discarded, and the pool is open again (R349). -/
def poolReset (s : State) (k : Nat) : State :=
  let cs := (s.sw.casks.filter fun e => caskPool e.1 = k && e.2.alloc && !e.2.retired).map Prod.fst
  let s := cs.foldl (fun s c =>
    let s := s.forgetCask c
    if (s.cask c).alloc then s.freeCask c else s) s
  (s.setSw { s.sw with closed := put false s.sw.closed k false }).poolMark k

/-- The reset of a unit's state and memories (R349, R350). -/
def clearUnit (s : State) (u : FUnit) : State :=
  match u with
  | .none => s
  | .port p => (s.setPort p { s.port p with held := false }).portTrains p
  | .pool k => s.poolReset k
  | .cask c =>
    if (s.cask c).retired then
      let s := s.setCask c {}
      (s.setSw { s.sw with retiredBytes := s.sw.retiredBytes - caskSize (caskPool c) }).poolMark (caskPool c)
    else s
  | .dim d =>
    let s := s.setDim d { s.dim d with held := s.ctl.quiesced, helloAt := none, down := false }
    (s.upLinks d).foldl (fun s l => s.retrainLink l) s
  | .epPort p =>
    let s := (s.linksOf p).foldl (fun s l => s.setSlot l {}) s
    (s.setPort p { s.port p with quarantined := false }).portTrains p
  | .requester n id =>
    let s := if id ≤ 2 then (s.clearPress n).setPr n { (s.clearPress n).pr n with fenced := false } else s
    s.setStave n { s.stave n with fenced := put false (s.stave n).fenced id false }
  | .press n => (s.clearPress n).setPr n { (s.clearPress n).pr n with fenced := false }
  | .vat v => s.setVat v {}
  | .core _ => s.restartDone true
  | .stave n =>
    let v := s.stave n
    s.setStave n { lvl := v.lvl, quota := v.quota, preempt := v.preempt, aside := v.aside }
  | .syncEngine => { s with sync := [], faults := { s.faults with syncFenced := false } }
  | .tier k => State.cellarInit { s with faults := { s.faults with tierFenced := put false s.faults.tierFenced k false } }

/-- The reset of a unit and its return to service; the station of an unpowered block bypasses it (R22, R349, R350). -/
def resetUnit (s : State) (u : FUnit) : State := if s.unitPowered u then s.clearUnit u else s

/-- Fence a unit and ask CC4 for its reset, unless its block is unpowered (R22, R350, R317). -/
def askReset (s : State) (u : FUnit) : State :=
  if !s.unitPowered u then s
  else
    let s := match u with
      | .core _ => s.pauseControl
      | u => s.containUnit u
    { s with faults := { s.faults with resetDue := s.faults.resetDue ++ [(0xFFFF, u)] } }

/-- The full reset: everything but D0, the flash, the fuses and the fabric time goes to its reset value; a thermal trip
ends once every sensor reads below 100 °C (R332, R384, R431). -/
def fullReset (s : State) : State :=
  let t := s.powerOff false
  let t : State := { t with faults := {} }
  (t.setAon { t.aon with tripped := t.aon.tripped && decide (1000 ≤ t.hottest), waking := false }).coolUpdate

/-- PERST_N and the function-level reset reset the rings: their registers return to reset values, and the replies and events
held for them are discarded; commands already taken complete (R332, R345). -/
def ringsReset (s : State) : State :=
  { s with svc := { s.svc with
      rings := (s.svc.rings.map fun (e : Nat × Ring) =>
        (e.1, ({ outstanding := e.2.outstanding } : Ring))).filter fun e => decide (e.2 ≠ ({} : Ring)) } }

end State

/-- SYS_RESET (R332, R431): boot starts again at the next BOOT. -/
def execSysReset (s : State) : Host.Outcome State Fault Refusal := .next s.fullReset

/-- PERST (R345). -/
def execPerst (s : State) : Host.Outcome State Fault Refusal := .next s.ringsReset

/-- FUNCTION_LEVEL_RESET (R345): all four rings stop. -/
def execFunctionLevelReset (s : State) : Host.Outcome State Fault Refusal := .next s.ringsReset

/-- UNIT_RESET (R350): a unit that is due is reset and returns, or fails its test and stays fenced; a source of 0x7FF
stands for a reset that a command asked for. While the control complex restarts, only its own reset runs (R366). The source of a unit that fails its test asserts again. -/
def execUnitReset (source : BitVec 11) (unit : Nat) (testOk : Bool) (s : State) : Host.Outcome State Fault Refusal :=
  let i := if source = 0x7FF then 0xFFFF else source.toNat
  match s.faults.resetDue.find? fun e => e.1 = i && e.2.code = unit with
  | none => .next s
  | some e =>
    let core := match e.2 with
      | .core _ => true
      | _ => false
    let s0 := s
    let s : State := { s with faults := { s.faults with resetDue := s.faults.resetDue.erase e }, adm := { s.adm with rerun := true } }
    if !core && s0.ctl.cmdPaused then .next s0
    else if core then
      .next ((s.restartDone testOk).logEvent { code := 0x23, source := i, detail := [i] })
    else if !testOk then
      let s := if i = 0xFFFF then s else s.assertIn i e.2
      .next (if s.faults.contained.contains e || s.faults.resetDue.contains e then s
        else ({ s with faults := { s.faults with contained := s.faults.contained ++ [e] } } : State))
    else
      let s := s.resetUnit e.2
      let s := if s.faults.contained.any fun o => o.2 = e.2 then s.containUnit e.2 else s
      .next (s.logEvent { code := 0x23, source := i, detail := [i] })

end Sys2Proof.Machine
end

