-- ==== Sys2Proof/Machine/DevCmd.lean ====
section
/-!
DEFINITION. The DEV and LINK commands (R317): identity, negotiation, resets, and the configuration and status of
links (R62, R89, R92-R94, R132, R138).
-/

namespace Sys2Proof.Machine

/-! ### DEV_IDENTIFY and DEV_NEGOTIATE -/

/-- An FNA with its valid bit 31 (R317). -/
def State.fnaField (s : State) : Nat := match s.fab.fna with
  | some f => f + 2 ^ 31
  | none => 0

def cmdDevIdentify (h : SpHdr) (_s : State) : Cmd :=
  { hdr := h
    spec := { op := 0x0101, need := 1 }
    eff := fun s => { st := s, params := [
      (64, s.ident.serial.toNat), (32, s.fw.version.toNat), (16, s.ident.stepping.toNat), (8, s.ident.gradeFused),
      (8, s.gradePinned), (8, s.lcState), (32, s.fnaField), (64, s.pwr.vintage), (256, s.fw.features.toNat)] } }

/-- DEV_IDENTIFY 0x0101 (R317, R5). -/
def execDevIdentify (h : SpHdr) (s : State) : Host.Outcome State Fault Refusal :=
  .next (s.run (.devIdentify h) (cmdDevIdentify h s))

def cmdDevNegotiate (h : SpHdr) (version : BitVec 8) (features : BitVec 256) (s : State) : Cmd :=
  let agreed := features &&& s.fw.features
  { hdr := h
    spec := { op := 0x0102, need := 1, widths := [8, 256] }
    checks := { form := [chk (version ≠ 1) 0x0101 0] }
    eff := fun s =>
      { st := s.setSource h.src { s.source h.src with agreed := agreed, hostFeatures := features }
        params := [(256, s.fw.features.toNat), (256, agreed.toNat)] } }

/-- DEV_NEGOTIATE 0x0102 (R326). -/
def execDevNegotiate (h : SpHdr) (hostVersion : BitVec 8) (hostFeatures : BitVec 256) (s : State) : Host.Outcome State Fault Refusal :=
  .next (s.run (.devNegotiate h hostVersion hostFeatures) (cmdDevNegotiate h hostVersion hostFeatures s))

/-! ### DEV_RESET -/

/-- DEV_RESET: scope 0 replies and then resets the device, after a drain where DRAIN asks for one; scope 1 restarts the control
complex; scope 2 resets one station's units, and a station that answers "block off" refuses with 0x0302 (R22, R317, R332, R350,
R366, log 124). -/
def cmdReset (h : SpHdr) (scope unit : Nat) (s : State) : Cmd :=
  { hdr := h
    spec := { op := 0x0103, need := 4, widths := [8, 8], drain := true }
    checks :=
      { form := [
          badField [8, 8] 0 (2 < scope),
          badField [8, 8] 1 (scope = 2 && 144 < unit)]
        state := [chk (scope = 2 && !(stationUnits unit).all s.unitPowered) 0x0302]
        phases := if scope = 0 then [s.openBound 0] else [] }
    eff := fun s =>
      if scope = 0 then
        { st := (if h.drain then s else State.complete h { st := s }).fullReset, wait := true }
      else if scope = 1 then { st := s.askReset (.core 0) }
      else { st := (stationUnits unit).foldl State.askReset s }
    start := fun _ s => s.setDraining s.endpointPorts true
    undo := fun s => s.setDraining s.endpointPorts false
    ready := fun _ s => s.endpointPorts.all s.drainedPort }

def cmdDevReset (h : SpHdr) (scope unit : BitVec 8) (s : State) : Cmd := cmdReset h scope.toNat unit.toNat s

/-- DEV_RESET 0x0103, SCOPE 0 (R317, R332, R352). -/
def execDevReset (h : SpHdr) (scope unit : BitVec 8) (s : State) : Host.Outcome State Fault Refusal :=
  .next (s.run (.devReset h scope unit) (cmdDevReset h scope unit s))

def cmdDevResetControlComplex (h : SpHdr) (unit : BitVec 8) (s : State) : Cmd := cmdReset h 1 unit.toNat s

/-- DEV_RESET 0x0103, SCOPE 1 (R317, R366). -/
def execDevResetControlComplex (h : SpHdr) (unit : BitVec 8) (s : State) : Host.Outcome State Fault Refusal :=
  .next (s.run (.devResetControlComplex h unit) (cmdDevResetControlComplex h unit s))

def cmdDevResetUnit (h : SpHdr) (unit : BitVec 8) (s : State) : Cmd := cmdReset h 2 unit.toNat s

/-- DEV_RESET 0x0103, SCOPE 2 (R22, R350). -/
def execDevResetUnit (h : SpHdr) (unit : BitVec 8) (s : State) : Host.Outcome State Fault Refusal :=
  .next (s.run (.devResetUnit h unit) (cmdDevResetUnit h unit s))

/-! ### LINK_CONFIG -/

namespace State

/-- A port's split and rate; its links train again from DETECT, and the pools are divided anew (R62, R132). Its lanes equalise
automatically again, with the default FOM_MIN (R31, R32). -/
def effLinkConfig (s : State) (port split rate : Nat) : State :=
  let x := s.port port
  let s := (List.range 4).foldl (fun s i =>
    s.setLane (4 * port + i) { s.lane (4 * port + i) with eqFixed := false, taps := 0, fomMin := 3072 }) s
  if x.split = split && x.rate = rate then s
  else
    let s := (s.linksOf port).foldl (fun s l => s.dropLink l .detect) s
    let s := s.setPort port { x with split := split, rate := rate }
    let w := s.splitWidth port
    let s := (s.linksOf port).foldl (fun s l =>
      (s.setLink l { s.link l with st := .detect, width := w, laneOff := 0, tryRate := rate }).linkMoved l) s
    s.setSw { s.sw with pools := s.division, newPools := [] }

/-- The links as admission sees them after LINK_CONFIG (R286). -/
def linkModel (s : State) (port split rate : Nat) : State :=
  let s := s.setPort port { s.port port with split := split, rate := rate }
  ((s.linksOf port).foldl (fun s l => s.setLink l { s.link l with width := s.splitWidth port, rate := rate }) s).reshape

end State

def cmdLinkConfig (h : SpHdr) (port split rate : BitVec 8) (s : State) : Cmd :=
  let ws := [8, 8, 8]
  let p := port.toNat
  let r := if rate = 0xFF then 3 else rate.toNat
  let t := s.effLinkConfig p split.toNat r
  let x := s.port p
  let changes := x.split ≠ split.toNat || x.rate ≠ r
  let load := x.split ≠ split.toNat || (changes && (s.linksOf p).any fun l => (s.link l).st = .active)
  { hdr := h
    spec := { op := 0x0201, need := 3, widths := ws, drain := true }
    checks :=
      { form := [
          badField ws 0 (63 < p),
          badField ws 1 (2 < split.toNat),
          badField ws 2 (3 < r)]
        admission := [if changes then s.admitChk (s.linkModel p split.toNat r) else none]
        resources := [chk (changes && t.exhausted) 0x0501]
        load := load
        phases := if load then [s.openBound 0, s.sw.ageing * 100 + s.longestRto, s.openBound 2] else [] }
    eff := fun s => { st := s.effLinkConfig p split.toNat r }
    start := fun k s => if k ≠ 0 || t.sw.pools = s.sw.pools then s else s.setSw { s.sw with newPools := t.sw.pools }
    undo := fun s => s.setSw { s.sw with newPools := [] }
    ready := fun k s => k ≠ 1 || s.divisionFree }

/-- LINK_CONFIG 0x0201 (R62, R132, R138). -/
def execLinkConfig (h : SpHdr) (port split rate : BitVec 8) (s : State) : Host.Outcome State Fault Refusal :=
  .next (s.run (.linkConfig h port split rate) (cmdLinkConfig h port split rate s))

/-- Equalisation, FOM_MIN, and the return of a failed lane, which widens its link where it can (R92-R94). -/
def State.effLane (s : State) (p : LinkCfgX) : State :=
  let n := p.lane.toNat
  let x := s.lane n
  let x := if p.eqMode = 0xFF then x else { x with eqFixed := decide (p.eqMode = 1), taps := if p.eqMode = 1 then p.taps else x.taps }
  let x := if p.fomMin = 0 then x else { x with fomMin := p.fomMin.toNat }
  let back := p.ret && x.failed
  let s := s.setLane n (if back then { x with failed := false, lowSince := none } else x)
  if !back then s
  else
    let s := if (List.range 4).any fun i => (s.lane (n / 4 * 4 + i)).failed then s else s.setLevel (4 * (n / 4)) false
    let l := s.linkOfLane n
    let k := s.link l
    match pickLanes (s.splitWidth (n / 4)) (s.healthy l) with
    | some (w, o) =>
      if w ≤ k.width && k.st ≠ .down then s
      else if k.st = .active then s.relockStart l w o (some n)
      else if k.st = .down then s.setLink l { k with st := .detect, width := w, laneOff := o }
      else s.setLink l { k with width := w, laneOff := o }
    | none => s

def cmdLinkConfigExpert (h : SpHdr) (p : LinkCfgX) (_s : State) : Cmd :=
  let ws := [8, 8, 64, 16, 1]
  { hdr := h
    spec := { op := 0x0281, need := 3, widths := ws, drain := true }
    checks := { form := [badField ws 1 (1 < p.eqMode.toNat && p.eqMode ≠ 0xFF)] }
    eff := fun s => { st := s.effLane p } }

/-- LINK_CONFIG 0x0281 (R92-R94). -/
def execLinkConfigExpert (h : SpHdr) (p : LinkCfgX) (s : State) : Host.Outcome State Fault Refusal :=
  .next (s.run (.linkConfigExpert h p) (cmdLinkConfigExpert h p s))

/-! ### LINK_STATUS, LINK_EYESCAN, LINK_IDLE -/

/-- One record of LINK_STATUS: the state of the lane's link and the lane's counters, padded to 48 bytes (R91, R92, R307). -/
def State.laneStatus (s : State) (n : Nat) : List (Nat × Nat) :=
  let k := s.link (s.linkOfLane n)
  let x := s.lane n
  [(8, linkStatusCode k.st), (8, k.width), (8, k.rate), (16, x.fom), (64, x.corrected.toNat), (64, x.bad.toNat),
   (32, x.retryTx.toNat), (32, x.retryRx.toNat), (64, x.replayed.toNat), (32, x.rmDeleted.toNat), (32, 0)]
where
  linkStatusCode (t : LinkState) : Nat := State.linkCode t

def cmdLinkStatus (h : SpHdr) (port : BitVec 8) (_s : State) : Cmd :=
  { hdr := h
    spec := { op := 0x0202, need := 1, widths := [8] }
    checks := { form := [badField [8] 0 (63 < port.toNat)] }
    eff := fun s => { st := s, params := (List.range 4).flatMap fun i => s.laneStatus (4 * port.toNat + i) } }

/-- LINK_STATUS 0x0202 (R91, R92, R317). -/
def execLinkStatus (h : SpHdr) (port : BitVec 8) (s : State) : Host.Outcome State Fault Refusal :=
  .next (s.run (.linkStatus h port) (cmdLinkStatus h port s))

/-- Widths of LINK_EYESCAN. -/
def eyescanWidths : List Nat := [8, 8, 8, 16, 16]

def cmdLinkEyescanStart (h : SpHdr) (lane d : BitVec 8) (s : State) : Cmd :=
  { hdr := h
    spec := { op := 0x0283, need := 3, widths := eyescanWidths }
    checks :=
      { form := [badField eyescanWidths 2 (d.toNat < 16 || 40 < d.toNat)]
        state := [chk (s.lane lane.toNat).scan 0x0302] }
    eff := fun s =>
      { st := s.setLane lane.toNat { s.lane lane.toNat with scan := true, scanD := d.toNat, scanFor := some h } } }

/-- LINK_EYESCAN 0x0283, MODE 0 (R92): the lane's SCAN mode; an event follows when the scan ends. -/
def execLinkEyescanStart (h : SpHdr) (lane d : BitVec 8) (s : State) : Host.Outcome State Fault Refusal :=
  .next (s.run (.linkEyescanStart h lane d) (cmdLinkEyescanStart h lane d s))

def cmdLinkEyescanRead (h : SpHdr) (lane mode : BitVec 8) (first count : BitVec 16) (_s : State) : Cmd :=
  { hdr := h
    spec := { op := 0x0283, need := 3, widths := eyescanWidths }
    checks := { form := [
      badField eyescanWidths 1 (mode ≠ 1),
      badField eyescanWidths 3 (8191 < first.toNat),
      badField eyescanWidths 4 (8192 < first.toNat + count.toNat)] }
    eff := fun s => { st := s, params := (List.range count.toNat).map fun i => (32, look 0 (s.lane lane.toNat).counts (first.toNat + i)) } }

/-- LINK_EYESCAN 0x0283, MODE 1 (R92, R317). -/
def execLinkEyescanRead (h : SpHdr) (lane mode : BitVec 8) (first count : BitVec 16) (s : State) : Host.Outcome State Fault Refusal :=
  .next (s.run (.linkEyescanRead h lane mode first count) (cmdLinkEyescanRead h lane mode first count s))

def cmdLinkIdle (h : SpHdr) (port : BitVec 8) (enable : Bool) (delay : BitVec 16) (s : State) : Cmd :=
  let ws := [8, 1, 16]
  { hdr := h
    spec := { op := 0x0204, need := 3, widths := ws, stage := true }
    checks :=
      { form := [
          badField ws 0 (63 < port.toNat),
          badField ws 2 (delay.toNat < 1 || 1000 < delay.toNat)]
        admission := [s.stageAdmit h fun s => s.effLinkIdle port.toNat enable delay.toNat] }
    eff := fun s => { st := s.effLinkIdle port.toNat enable delay.toNat }
    same := fun i => match i with
      | .linkIdle _ p _ _ => p = port
      | _ => false }

/-- LINK_IDLE 0x0204 (R89). -/
def execLinkIdle (h : SpHdr) (port : BitVec 8) (enable : Bool) (delay : BitVec 16) (s : State) : Host.Outcome State Fault Refusal :=
  .next (s.run (.linkIdle h port enable delay) (cmdLinkIdle h port enable delay s))

end Sys2Proof.Machine
end

