-- ==== Sys2Proof/Machine/PressCmd.lean ====
section
/-!
DEFINITION. The PRESS commands (R317): bundles and loads (R223-R226), layouts (R220, R319), launches (R227, R228, R284, R296),
stops (R230), queries (R231, R260), and the digests of the cellar book (R415).
-/

namespace Sys2Proof.Machine

/-! ### The bundle (R223-R225) -/

def imgField (b : List Byte) (i n : Nat) : Nat := leNat ((b.drop i).take n)

/-- A section entry (R224). -/
structure Sect where
  ty : Nat
  zero : Bool
  off : Nat
  size : Nat
  load : Nat

def bNsect (b : List Byte) : Nat := imgField b 6 1
def bTotal (b : List Byte) : Nat := imgField b 8 4
def bEntry (b : List Byte) : Nat := imgField b 12 4
def bBeats (b : List Byte) : Nat := imgField b 16 4
def bPad (b : List Byte) : Nat := imgField b 20 4
def bImem (b : List Byte) : Nat := imgField b 24 4
def bDmem (b : List Byte) : Nat := imgField b 28 4
def bCellar (b : List Byte) : Nat := imgField b 32 8
def bLs (b : List Byte) : Nat := imgField b 40 1
def bGs (b : List Byte) : Nat := imgField b 42 2
def bCrc (b : List Byte) : Nat := imgField b 48 4

def bSect (b : List Byte) (i : Nat) : Sect :=
  let o := 64 + 16 * i
  { ty := imgField b o 1, zero := bit (imgField b (o + 1) 1) 0,
    off := imgField b (o + 4) 4, size := imgField b (o + 8) 4, load := imgField b (o + 12) 4 }

def bSects (b : List Byte) : List Sect := (List.range (bNsect b)).map (bSect b)

/-- The header's own rules (R223). -/
def headerFits (b : List Byte) : Bool :=
  imgField b 0 4 = 0x4C42505A && imgField b 4 2 = 1 && 1 ≤ bNsect b && bNsect b ≤ 32 &&
  64 + 16 * bNsect b ≤ bTotal b && bTotal b ≤ 2 ^ 22

/-- The header's fields and its CRC, which covers all TOTAL bytes: a bundle that would not end in the cellar has none (R223,
R226). What reserved fields hold is ignored, here and in the entries (R11). -/
def bundleHeaderOk (b : List Byte) : Bool :=
  headerFits b && b.length = bTotal b &&
  bEntry b % 4 = 0 && 1 ≤ bBeats b && bPad b % 4096 = 0 && bImem b % 1024 = 0 && bDmem b % 1024 = 0 && 64 ≤ bDmem b &&
  bCellar b % 4096 = 0 && 1 ≤ bLs b && bLs b ≤ 64 && bGs b ≤ 4096 &&
  (crc32c (b.take 48 ++ [0, 0, 0, 0] ++ b.drop 52)).toNat = bCrc b

/-- The target partition of a section type, 0 for none. -/
def sectTarget (ty : Nat) : Nat := if 3 ≤ ty && ty ≤ 6 then 2 else if 10 ≤ ty then 0 else ty

/-- Bytes that sections may fill in a target: the argument block is left free (R224). -/
def sectRoom (b : List Byte) (l : Layout) (t : Nat) : Nat :=
  if t = 1 then l.imemSize else if t = 2 then l.dmemSize - 64 else if t = 7 then l.padSize
  else if t = 8 then bCellar b else if t = 9 then 2 * bLs b else 2 ^ 32

def sectOk (b : List Byte) (l : Layout) (x : Sect) : Bool :=
  let stream := 3 ≤ x.ty && x.ty ≤ 6
  1 ≤ x.ty && x.ty ≤ 0xB &&
  (if x.zero then x.off = 0 else x.off % 16 = 0 && x.off + x.size ≤ bTotal b) &&
  (sectTarget x.ty = 0 || x.load + x.size ≤ sectRoom b l (sectTarget x.ty)) &&
  (!stream || (x.size % 32 = 0 && x.load % 32 = 0)) &&
  (x.ty ≠ 9 || x.size = 2 * bLs b) && (x.ty ≠ 10 || x.size % 8 = 0)

/-- Sections of one partition do not overlap (R226). -/
def sectsApart (xs : List Sect) : Bool :=
  xs.zipIdx.all fun a => xs.zipIdx.all fun c =>
    c.2 ≤ a.2 || sectTarget a.1.ty = 0 || sectTarget a.1.ty ≠ sectTarget c.1.ty ||
      a.1.load + a.1.size ≤ c.1.load || c.1.load + c.1.size ≤ a.1.load

def sectBytes (b : List Byte) (x : Sect) : List Byte := if x.zero then List.replicate x.size 0 else (b.drop x.off).take x.size

/-- One relocation entry (R225). -/
structure Rel where
  sect : Nat
  kind : Nat
  off : Nat

/-- The relocations of a bundle, in entry order. -/
def bRels (b : List Byte) : List Rel :=
  ((bSects b).filter fun x => x.ty = 10).flatMap fun x =>
    let d := sectBytes b x
    (List.range (x.size / 8)).map fun i =>
      { sect := imgField d (8 * i) 1, kind := imgField d (8 * i + 1) 1, off := imgField d (8 * i + 4) 4 }

/-- Bytes of the field of each KIND. -/
def relWidth (k : Nat) : Nat := if k ≤ 3 then 4 else if k = 4 then 8 else if k = 7 then 1 else 2

def relOk (b : List Byte) (r : Rel) : Bool :=
  let x := bSect b r.sect
  r.sect < bNsect b && 1 ≤ r.kind && r.kind ≤ 8 && x.ty ≠ 10 && r.off + relWidth r.kind ≤ x.size

/-- The whole format, against the partitions of a layout (R223-R226). -/
def bundleOk (b : List Byte) (l : Layout) : Bool :=
  let xs := bSects b
  bundleHeaderOk b && bEntry b < l.imemSize && xs.all (sectOk b l) && sectsApart xs &&
  xs.any (fun x => x.ty = 1) && [3, 4, 5, 6].all (fun t => (xs.filter fun x => x.ty = t).length ≤ 1) &&
  (bRels b).all (relOk b)

/-- Section contents for one press: relocations in entry order; none when a sum wraps (R225). -/
def relocate (b : List Byte) (l : Layout) (cel rank size : Nat) : Option (List (List Byte)) :=
  (bRels b).foldl (fun (a : Option (List (List Byte))) r => a.bind fun cs =>
    let d := cs.getD r.sect []
    let n := relWidth r.kind
    let old := imgField d r.off n
    let v := match r.kind with
      | 1 => old + l.padBase
      | 2 => old + 2 ^ 30 + l.dmemBase
      | 3 => old + l.imemBase
      | 4 => old + 2 ^ 32 + cel
      | 5 => rank
      | 6 => size
      | 7 => old + l.lsFirst
      | _ => old + l.gsFirst
    if 2 ^ (8 * n) ≤ v then none
    else some (cs.set r.sect (d.take r.off ++ leBytes n v ++ d.drop (r.off + n)))) (some ((bSects b).map (sectBytes b)))

/-! ### Layouts (R220, R319) -/

/-- The whole press, with the bundle's global semaphores (R220, R319). -/
def wholeLayout (gs : Nat) : Layout :=
  { padSize := 2 ^ 21, imemSize := 2 ^ 17, dmemSize := 2 ^ 18, lsCount := 64, gsFirst := 0xFFFF, gsCount := gs }

/-- The recorded bases with the sizes that the bundle requires. -/
def sizedLayout (l : Layout) (b : List Byte) : Layout :=
  { l with padSize := bPad b, imemSize := bImem b, dmemSize := bDmem b, lsCount := bLs b, gsCount := bGs b }

/-- The layout supplies the sizes that the bundle requires (R226). -/
def layoutHolds (l : Layout) (b : List Byte) : Bool :=
  bPad b ≤ l.padSize && bImem b ≤ l.imemSize && bDmem b ≤ l.dmemSize && bLs b ≤ l.lsCount &&
  l.padBase + l.padSize ≤ 2 ^ 21 && l.imemBase + l.imemSize ≤ 2 ^ 17 && l.dmemBase + l.dmemSize ≤ 2 ^ 18 &&
  l.lsFirst + l.lsCount ≤ 64 && l.gsFirst + l.gsCount ≤ 4096

def overlap (a n b m : Nat) : Bool := a < b + m && b < a + n && n ≠ 0 && m ≠ 0

/-- Two layouts share global semaphores, which are allocated per launch (R210, R220). -/
def gsMeet (l k : Layout) : Bool := overlap l.gsFirst l.gsCount k.gsFirst k.gsCount

/-- Two layouts on one press share something. -/
def layoutsMeet (l k : Layout) : Bool :=
  overlap l.padBase l.padSize k.padBase k.padSize || overlap l.imemBase l.imemSize k.imemBase k.imemSize ||
  overlap l.dmemBase l.dmemSize k.dmemBase k.dmemSize || overlap l.lsFirst l.lsCount k.lsFirst k.lsCount

namespace State

/-- Every context that holds a load, but context `c` of the presses of a set. -/
def otherCtxs (s : State) (set c : Nat) : List (Nat × Nat × Ctx) :=
  s.press.press.flatMap fun e =>
    (e.2.ctxs.filter fun x => x.2.st ≠ .empty && !(bit set e.1 && x.1 = c)).map fun x => (e.1, x.1, x.2)

/-- A first global semaphore: the one given, or firmware's free choice of those that meet no other launch's (R220, log 7). -/
def chooseGs (s : State) (l : Layout) (set c : Nat) : Nat :=
  if l.gsFirst ≠ 0xFFFF then l.gsFirst
  else
    let taken := s.otherCtxs set c
    let ok := (List.range (4097 - l.gsCount)).filter fun g =>
      taken.all fun x => !overlap g l.gsCount x.2.2.lay.gsFirst x.2.2.lay.gsCount
    ok.getD (Config.freeNat s.free % ok.length) 4096

/-- The layout a load would use: what is recorded for its context, or the whole press for context 0. -/
def loadLayout (s : State) (set c : Nat) (b : List Byte) : Option Layout :=
  let p := (members 64 set).headD 0
  let l := match (s.ctx p c).recorded with
    | some l => some (sizedLayout l b)
    | none => if c = 0 then some (wholeLayout (bGs b)) else none
  l.map fun l => { l with gsFirst := s.chooseGs l set c }

/-! ### What every PRESS command checks -/

/-- A press of a set is absent, masked, or of a ZP7410-00 (R3, R227). -/
def noPress (s : State) (set : Nat) : Option Fail := chk (s.gradePinned = 0 || s.badPress set) 0x0305

/-- A press of a set has its PRS domain off, or is contained (R227, R349). -/
def restingPress (s : State) (set : Nat) : Option Fail :=
  chk ((members 64 set).any fun p => (s.domain (16 + p)).st ≠ .active || (s.pr p).fenced) 0x0302

/-- A context of the presses of a set is in a state that forbids the command. -/
def ctxState (s : State) (set c : Nat) (bad : Ctx → Bool) : Option Fail := chk ((members 64 set).any fun p => bad (s.ctx p c)) 0x0302

/-! ### PRESS_LOAD -/

/-- The bundle image: TOTAL bytes, or the header alone when it is not one (R223, R415). -/
def bundleImage (s : State) (addr : Nat) : List Byte :=
  let head := (List.range 64).map fun i => s.celByte (addr + i)
  if headerFits head && addr + bTotal head ≤ 2 ^ 32 then (List.range (bTotal head)).map fun i => s.celByte (addr + i) else head

/-- A line of `n` bytes at `addr` returns poison (R266). -/
def poisonedRange (s : State) (addr n : Nat) : Bool :=
  (piecesOf 128 addr n).any fun x => look false s.cel.poison (x.1 / 128) || 2 ≤ s.lineBad (x.1 / 128)

/-- Write one section's contents into its partition on a press. -/
def writeSect (s : State) (p cel : Nat) (l : Layout) (ty load : Nat) (bs : List Byte) : Bool × State :=
  match sectTarget ty with
  | 1 => (false, s.memWrite .imem p (l.imemBase + load) bs)
  | 2 => (false, s.memWrite .dmem p (l.dmemBase + load) bs)
  | 7 => (false, s.memWrite .pad p (l.padBase + load) bs)
  | 8 => s.writeRange (cel + load) bs
  | _ => (false, s)

/-- The semaphores of a context take their initial values (R207). -/
def initSems (s : State) (p c : Nat) : State :=
  let x := s.ctx p c
  let s := (List.range x.lay.lsCount).foldl (fun s i => s.setSemCount false p (x.lay.lsFirst + i) (x.semInit.getD i 0)) s
  (List.range x.lay.gsCount).foldl (fun s i => s.setSemCount true p (x.lay.gsFirst + i) 0) s

/-- Load one press (R225, R226): its memories, its semaphores, its context. -/
def loadPress (s : State) (p c rank cel : Nat) (q : PressLoadP) (b : List Byte) (l : Layout) : Bool × State :=
  let set := q.presses.toNat
  let cs := (relocate b l cel rank (members 64 set).length).getD []
  let xs := (bSects b).zip cs
  let r := xs.foldl (fun (a : Bool × State) e =>
    let w := a.2.writeSect p cel l e.1.ty e.1.load e.2
    (a.1 || w.1, w.2)) (false, s)
  let init := ((xs.find? fun e => e.1.ty = 9).map Prod.snd).getD []
  let code := [3, 4, 5, 6].foldl (fun (t : Tab (Option Nat)) k =>
    match (bSects b).find? fun x => x.ty = k with
    | some x => put none t (k - 3) (some (l.dmemBase + x.load))
    | none => t) []
  let y : Ctx :=
    { st := .loaded, lay := l, recorded := (s.ctx p c).recorded, set := q.presses, rank := rank,
      semInit := (List.range l.lsCount).map fun i => imgField init (2 * i) 2,
      celBase := cel, celSize := bCellar b, spareBase := q.spareBase.toNat, spareSize := q.spareSize.toNat,
      entry := bEntry b, maxBeats := bBeats b, bundleCrc := BitVec.ofNat 32 (bCrc b), image := b, code := code }
  (r.1, (r.2.setCtx p c y).initSems p c)

end State

/-- PRESS_LOAD: the bundle is read and checked in full before anything is written; a line of it that returns poison is a device
fault (R223-R227, R266). -/
def cmdPressLoad (h : SpHdr) (q : PressLoadP) (s : State) : Cmd :=
  let set := q.presses.toNat
  let ps := members 64 set
  let n := ps.length
  let ws := [64, 8, 32] ++ List.replicate n 32 ++ [32, 32]
  let c := q.context.toNat
  let addr := q.bundle.toNat
  let b := s.bundleImage addr
  let l := s.loadLayout set c b
  let lay := l.getD (sizedLayout {} b)
  let form := if layoutHolds lay b then lay else sizedLayout lay b
  let poisoned := s.poisonedRange addr b.length
  let cel := fun (i : Nat) => ((q.range[i]?).map BitVec.toNat).getD 0
  let sb := q.spareBase.toNat
  let sn := q.spareSize.toNat
  let own := fun (i p : Nat) =>
    cel i % 4096 = 0 && cel i / staveBytes = p && State.inPressData s.cel.plan (cel i) (bCellar b) &&
      cel i % staveBytes + bCellar b ≤ staveBytes - 65536
  let others := s.otherCtxs set c
  let here := others.filter fun x => bit set x.1
  let read := s.tiersActive && !poisoned
  { hdr := h
    spec := { op := 0x0601, need := 2, widths := ws }
    checks :=
      { form := [
          badField ws 0 (n = 0),
          badField ws 1 (7 < c),
          badField ws 2 (2 ^ 32 < addr + 64),
          chk (q.range.length ≠ n) 0x0103,
          chk (read && !bundleHeaderOk b) 0x0108 (offsetOf ws 2),
          firstFail (ps.zipIdx.map fun e => badField ws (3 + e.2) (read && bCellar b ≠ 0 && !own e.2 e.1)),
          badField ws (3 + n) (sn ≠ 0 && (sb % 4096 ≠ 0 || !State.inPressData s.cel.plan sb sn || s.pressEnabled (sb / staveBytes))),
          badField ws (4 + n) (sn % 4096 ≠ 0),
          chk (read && (!bundleOk b form || ps.zipIdx.any fun e => (relocate b form (cel e.2) e.2 n).isNone)) 0x0108 (offsetOf ws 2)]
        state := [
          s.noPress set,
          s.restingPress set,
          chk (!s.tiersActive) 0x0302,
          s.ctxState set c fun x => x.st = .running,
          chk l.isNone 0x0302,
          chk (here.any fun x => x.2.2.st = .running && layoutsMeet lay x.2.2.lay) 0x0302,
          chk (others.any fun x => x.2.2.st = .running && gsMeet lay x.2.2.lay) 0x0302,
          chk (sn ≠ 0 && others.any fun x => overlap sb sn x.2.2.celBase x.2.2.celSize || overlap sb sn x.2.2.spareBase x.2.2.spareSize)
            0x0302,
          chk (read && ps.zipIdx.any fun e => others.any fun x => overlap (cel e.2) (bCellar b) x.2.2.celBase x.2.2.celSize) 0x0302]
        resources := if poisoned then [] else [
          chk (!layoutHolds lay b) 0x0501,
          chk (here.any fun x => layoutsMeet lay x.2.2.lay) 0x0501,
          chk (others.any fun x => gsMeet lay x.2.2.lay) 0x0501] }
    eff := fun s =>
      let got := s.readRange addr b.length
      let s := got.2.2
      if got.2.1 then { st := s, status := 0x0601 }
      else
        let s := { s with free := s.free + 1 }
        let r := ps.zipIdx.foldl (fun (a : Bool × State) e =>
          let x := a.2.loadPress e.1 c e.2 (cel e.2) q b lay
          (a.1 || x.1, x.2)) (false, s)
        { st := r.2.dataMark, status := if r.1 then 0x0601 else 0 } }

/-- PRESS_LOAD 0x0601 (R226). -/
def execPressLoad (h : SpHdr) (p : PressLoadP) (s : State) : Host.Outcome State Fault Refusal :=
  .next (s.run (.pressLoad h p) (cmdPressLoad h p s))

/-! ### PRESS_LAUNCH -/

namespace State

/-- A CP at its start (R228). -/
def startCp (x : Ctx) : Cp :=
  let regs := put 0 [] 1 (BitVec.ofNat 64 x.rank)
  let regs := put 0 regs 2 (BitVec.ofNat 64 (members 64 x.set.toNat).length)
  let regs := put 0 regs 3 (BitVec.ofNat 64 (x.lay.dmemBase + x.lay.dmemSize - 64))
  { regs := regs, pc := x.lay.imemBase + x.entry, running := true }

/-- A stream at its start: FETCH mode when the bundle has code for it (R204, R224). -/
def startStream (x : Ctx) (e : Nat) : Stream :=
  match look none x.code e with
  | some a => { fetch := true, fetching := true, pc := a, fp := a }
  | none => {}

/-- Start one press of a launch (R221, R228): the CP and the streams, saved until the context's turn when another one runs.
With BOOK_ON the press waits for IN_DIGEST (R415). -/
def launchPress (s : State) (p c : Nat) (h : SpHdr) (gid : Nat) (args : List Byte) : State :=
  let x := s.ctx p c
  let r := s.pr p
  let busy := r.cur ≠ c && (s.ctx p r.cur).st = .running
  let ks := (List.range 4).map (startStream x)
  let y : Ctx := { x with
    st := .running, launch := some h, gid := gid, finished := false, inDigest := none, digestWait := s.tele.select.getLsbD 248,
    layerId := if h.layerId = 0 then s.svc.layerId else h.layerId,
    operatorId := if h.operatorId = 0 then s.svc.operatorId else h.operatorId,
    argBlock := args, stopFor := none, startTime := s.ns, vintage := s.pwr.vintage, cause := 0, fstream := 0, fpc := 0, faddr := 0,
    saved := if busy then some (startCp x, ks) else none }
  let s := (s.setCtx p c y).memWrite .dmem p (x.lay.dmemBase + x.lay.dmemSize - 64) args
  let s := s.initSems p c
  if busy then s.giveUp p
  else
    let s := s.setPr p { s.pr p with
      cur := c
      turnAt := s.mono
      cp := startCp x
      streams := (List.range 4).foldl (fun t e => put {} t e (startStream x e)) [] }
    s.refill p c

/-- A launch of every press of its set, with its quantum and its record (R222, R228, R284, R285). -/
def effLaunch (s : State) (h : SpHdr) (q : PressLaunchP) : Nat × State :=
  let c := q.context.toNat
  let ps := members 64 q.presses.toNat
  let s := if q.quantum = 0 then s else ps.foldl (fun s p => s.setPr p { s.pr p with quantum := q.quantum.toNat }) s
  let claims := q.bound ≠ 0 || q.staveClaim ≠ 0 || q.remoteClaim ≠ 0
  let r := if !claims then (0xFFFF, s)
    else s.addRecord (.launch q.presses c q.bound.toNat q.beats.toNat q.staveClaim.toNat q.remoteClaim.toNat)
  (r.1, ps.foldl (fun s p => s.launchPress p c h r.1 q.args) r.2)

/-- First global semaphore of a context (R317). -/
def gsOf (s : State) (set c : Nat) : Nat := (s.ctx ((members 64 set).headD 0) c).lay.gsFirst

end State

/-- Widths of 0x0682 (R317). -/
def launchWidths : List Nat := [64, 8, 1, 32, 64, 32, 32, 32, 32, 32, 32, 8, 16, 512]

/-- Form checks of the layout fields of 0x0682 (R220). -/
def layoutForm (q : PressLaunchP) : List (Option Fail) :=
  let ws := launchWidths
  [ badField ws 7 (q.quantum ≠ 0 && (q.quantum.toNat < 10 || 100000 < q.quantum.toNat)),
    badField ws 8 (q.padBase.toNat % 4096 ≠ 0 || 2 ^ 21 ≤ q.padBase.toNat),
    badField ws 9 (q.imemBase.toNat % 1024 ≠ 0 || 2 ^ 17 ≤ q.imemBase.toNat),
    badField ws 10 (q.dmemBase.toNat % 1024 ≠ 0 || 2 ^ 18 ≤ q.dmemBase.toNat),
    badField ws 11 (63 < q.lsFirst.toNat),
    badField ws 12 (4095 < q.gsFirst.toNat && q.gsFirst ≠ 0xFFFF)]

/-- What both launches check (R227, R228, R285); `prepare` is what the form of the command does to its context first. -/
def cmdLaunch (h : SpHdr) (spec : CmdSpec) (form state resources : List (Option Fail)) (prepare : State → State) (q : PressLaunchP)
    (s : State) : Cmd :=
  let set := q.presses.toNat
  let c := q.context.toNat
  let claims := q.bound ≠ 0 || q.staveClaim ≠ 0 || q.remoteClaim ≠ 0
  { hdr := h
    spec := { spec with need := 2, feats := if claims then [10] else [] }
    checks :=
      { form := badField spec.widths 0 (set = 0) :: badField spec.widths 1 (7 < c) :: form
        state := [
          s.noPress set,
          s.restingPress set,
          s.ctxState set c fun x => !(x.st = .loaded || x.st = .done) || x.set ≠ q.presses] ++ state
        admission := [s.admitChk ((prepare s).effLaunch h q).2]
        resources := chk (claims && s.recordsFull) 0x0501 :: resources }
    eff := fun s =>
      let r := (prepare s).effLaunch h q
      { st := r.2, params := [(16, s.gsOf set c)], gid := r.1, wait := s.tele.select.getLsbD 248 } }

/-- A context that has every resource of its press; what a load placed stays where it is (R220). -/
def Ctx.widen (x : Ctx) : Ctx :=
  { x with
    lay := { wholeLayout x.lay.gsCount with gsFirst := x.lay.gsFirst }
    entry := x.lay.imemBase + x.entry
    semInit := List.replicate x.lay.lsFirst 0 ++ x.semInit
    recorded := none }

/-- The basic launch has none of the expert parameters: it uses context 0, gives it every resource of the press, and sets the default
quantum (R31, R220, R222, R317). -/
def cmdPressLaunch (h : SpHdr) (p : PressLaunchP) (s : State) : Cmd :=
  let ws := [64, 8, 512]
  let set := p.presses.toNat
  let others := (s.otherCtxs set 0).filter fun x => bit set x.1
  let meet := fun (x : Nat × Nat × Ctx) => layoutsMeet (wholeLayout 0) x.2.2.lay
  cmdLaunch h { op := 0x0602, need := 2, widths := ws } [badField ws 1 (p.context ≠ 0)]
    [chk (others.any fun x => x.2.2.st = .running && meet x) 0x0302] [chk (others.any meet) 0x0501]
    (fun s => (members 64 set).foldl (fun s n => s.setCtx n 0 (s.ctx n 0).widen) s)
    { presses := p.presses, context := p.context, args := p.args, quantum := 1000 } s

/-- PRESS_LAUNCH 0x0602 (R227, R228). -/
def execPressLaunch (h : SpHdr) (p : PressLaunchP) (s : State) : Host.Outcome State Fault Refusal :=
  .next (s.run (.pressLaunch h p) (cmdPressLaunch h p s))

/-- The expert launch: its layout is the one of the load (R220, R228). -/
def cmdPressLaunchExpert (h : SpHdr) (p : PressLaunchP) (s : State) : Cmd :=
  let differs := fun (x : Ctx) =>
    x.lay.padBase ≠ p.padBase.toNat || x.lay.imemBase ≠ p.imemBase.toNat || x.lay.dmemBase ≠ p.dmemBase.toNat ||
    x.lay.lsFirst ≠ p.lsFirst.toNat || (p.gsFirst ≠ 0xFFFF && x.lay.gsFirst ≠ p.gsFirst.toNat)
  cmdLaunch h { op := 0x0682, need := 2, widths := launchWidths } (layoutForm p)
    [s.ctxState p.presses.toNat p.context.toNat differs] [] id p s

/-- PRESS_LAUNCH 0x0682 with LAYOUT_ONLY = 0 (R220, R222, R228, R296). -/
def execPressLaunchExpert (h : SpHdr) (p : PressLaunchP) (s : State) : Host.Outcome State Fault Refusal :=
  .next (s.run (.pressLaunchExpert h p) (cmdPressLaunchExpert h p s))

/-- The layout that LAYOUT_ONLY records; its sizes come with the bundle (R319). -/
def recordedLayout (p : PressLaunchP) : Layout :=
  { padBase := p.padBase.toNat, imemBase := p.imemBase.toNat, dmemBase := p.dmemBase.toNat, lsFirst := p.lsFirst.toNat,
    gsFirst := p.gsFirst.toNat }

def cmdPressLayoutRecord (h : SpHdr) (p : PressLaunchP) (s : State) : Cmd :=
  let set := p.presses.toNat
  let c := p.context.toNat
  let l := recordedLayout p
  let point : Layout := { l with padSize := 1, imemSize := 1, dmemSize := 1, lsCount := 1, gsCount := 1 }
  let quantum := fun (s : State) => if p.quantum = 0 then s
    else (members 64 set).foldl (fun s n => s.setPr n { s.pr n with quantum := p.quantum.toNat }) s
  { hdr := h
    spec := { op := 0x0682, need := 2, widths := launchWidths }
    checks :=
      { form := badField launchWidths 0 (set = 0) :: badField launchWidths 1 (7 < c) :: layoutForm p
        state := [
          s.noPress set,
          s.restingPress set,
          s.ctxState set c fun x => x.st = .running,
          chk ((s.otherCtxs set c).any fun x => bit set x.1 && x.2.2.st = .running && layoutsMeet point x.2.2.lay) 0x0302,
          chk ((s.otherCtxs set c).any fun x => x.2.2.st = .running && p.gsFirst ≠ 0xFFFF && gsMeet point x.2.2.lay) 0x0302]
        admission := [s.admitChk (quantum s)] }
    eff := fun s =>
      let gs := if p.gsFirst = 0xFFFF then Config.freeNat s.free % 65536 else p.gsFirst.toNat
      let s := { s with free := s.free + 1 }
      let s := quantum s
      { st := (members 64 set).foldl (fun s n => s.setCtx n c { s.ctx n c with recorded := some l }) s, params := [(16, gs)] } }

/-- PRESS_LAUNCH 0x0682 with LAYOUT_ONLY = 1: the layout is recorded, and a change of quantum is checked against bounded launches
(R296, R319). -/
def execPressLayoutRecord (h : SpHdr) (p : PressLaunchP) (s : State) : Host.Outcome State Fault Refusal :=
  .next (s.run (.pressLayoutRecord h p) (cmdPressLayoutRecord h p s))

/-! ### PRESS_STOP and PRESS_QUERY -/

/-- PRESS_STOP in either mode: the reply gives the state of each press, and a launch that has ended is left as it is (R230). -/
def cmdStop (h : SpHdr) (presses : BitVec 64) (context mode : BitVec 8) (s : State) : Cmd :=
  let ws := [64, 8, 8]
  let set := presses.toNat
  let c := context.toNat
  let ps := members 64 set
  { hdr := h
    spec := { op := 0x0603, need := 2, widths := ws }
    checks :=
      { form := [badField ws 0 (set = 0), badField ws 1 (7 < c), badField ws 2 (1 < mode.toNat)]
        state := [s.noPress set, s.ctxState set c fun x => x.set ≠ presses] }
    eff := fun s =>
      let p := ps.headD 0
      let reply := fun (s : State) => ({ st := s, params := ps.map fun q => (8, State.ctxCode (s.ctx q c).st) } : Done)
      if (s.ctx p c).st ≠ .running then reply s
      else if mode = 0 then { st := s.gracefulStop p c h, wait := true }
      else reply (s.stopLaunch p c false) }

def cmdPressStopGraceful (h : SpHdr) (presses : BitVec 64) (context mode : BitVec 8) (s : State) : Cmd := cmdStop h presses context mode s

/-- PRESS_STOP 0x0603, MODE 0 (R230). -/
def execPressStopGraceful (h : SpHdr) (presses : BitVec 64) (context mode : BitVec 8) (s : State) : Host.Outcome State Fault Refusal :=
  .next (s.run (.pressStopGraceful h presses context mode) (cmdPressStopGraceful h presses context mode s))

def cmdPressStopImmediate (h : SpHdr) (presses : BitVec 64) (context : BitVec 8) (s : State) : Cmd := cmdStop h presses context 1 s

/-- PRESS_STOP 0x0603, MODE 1 (R230). -/
def execPressStopImmediate (h : SpHdr) (presses : BitVec 64) (context : BitVec 8) (s : State) : Host.Outcome State Fault Refusal :=
  .next (s.run (.pressStopImmediate h presses context) (cmdPressStopImmediate h presses context s))

/-- PRESS_QUERY: the context's state, its fault record, and the status of each stream, which for the CP is 0 (R231, R240, R260). -/
def cmdPressQuery (h : SpHdr) (press context : BitVec 8) (s : State) : Cmd :=
  let ws := [8, 8]
  let p := press.toNat
  let c := context.toNat
  { hdr := h
    spec := { op := 0x0604, need := 1, widths := ws }
    checks :=
      { form := [badField ws 0 (63 < p), badField ws 1 (7 < c)]
        state := [s.noPress (2 ^ p)] }
    eff := fun s =>
      let x := s.ctx p c
      let st := (List.range 4).flatMap fun e =>
        let k := s.streamOf p c e
        [(8, k.flags.toNat), (32, k.sat), (32, k.inexact)]
      { st := s, params := [(8, State.ctxCode x.st), (8, x.cause), (8, x.fstream), (32, x.fpc), (40, x.faddr)] ++ st ++ [(8, 0), (32, 0), (32, 0)] } }

/-- PRESS_QUERY 0x0604 (R231, R260). -/
def execPressQuery (h : SpHdr) (press context : BitVec 8) (s : State) : Host.Outcome State Fault Refusal :=
  .next (s.run (.pressQuery h press context) (cmdPressQuery h press context s))

/-! ### Digests (R415) -/

namespace State

/-- The first 16 bytes of a SHA-256 digest. -/
def digest16 (bs : List Byte) : List Byte := (sha256 bs).take 16

/-- The cellar ranges of a launch as the hashing engine reads them, in ascending press order, and whether a line returned poison
(R266). -/
def rangeBytes (s : State) (x : Ctx) (c : Nat) : List Byte × Bool × State :=
  (members 64 x.set.toNat).foldl (fun (a : List Byte × Bool × State) q =>
    let r := a.2.2.readRange (s.ctx q c).celBase (s.ctx q c).celSize
    (a.1 ++ r.1, a.2.1 || r.2.1, r.2.2)) ([], false, s)

/-- The digest of `bs` and, where they are hashed, of the cellar ranges: of a range with poison it is open (log 125). -/
def digestOver (s : State) (bs : List Byte) (ranges : Bool) (x : Ctx) (c : Nat) : List Byte × State :=
  if !ranges then (digest16 bs, s)
  else
    let r := s.rangeBytes x c
    if !r.2.1 then (digest16 (bs ++ r.1), r.2.2)
    else (freeBytes r.2.2.free 16, { r.2.2 with free := r.2.2.free + 1 })

/-- BOOK_FULL. -/
def bookFull (s : State) : Bool := s.tele.select.getLsbD 249

end State

/-- IN_DIGEST_DONE (R228, R415): the presses start, and the launch gets its reply. A launch that was stopped while it waited is
answered with a device fault. -/
def execInDigestDone (p : Fin 64) (context : Fin 8) (s : State) : Host.Outcome State Fault Refusal :=
  let c := context.val
  let x := s.ctx p.val c
  let ps := members 64 x.set.toNat
  let clear := fun (s : State) => ps.foldl (fun s q => s.setCtx q c { s.ctx q c with launch := none }) s
  match x.launch with
  | none => .next s
  | some h =>
    if x.st ≠ .running then .next ((clear s).refuse h { status := 0x0601 })
    else if !x.digestWait || x.finished then .next s
    else
      let d := s.digestOver (x.image ++ x.argBlock) s.bookFull x c
      let s := ps.foldl (fun s q =>
        s.setCtx q c { s.ctx q c with inDigest := some d.1, digestWait := false, startTime := s.ns }) d.2
      .next (State.complete h { st := s, params := [(16, s.gsOf x.set.toNat c)], gid := x.gid })

/-- OUT_DIGEST_DONE (R229, R415): the context is DONE, and the completion notice goes. -/
def execOutDigestDone (p : Fin 64) (context : Fin 8) (s : State) : Host.Outcome State Fault Refusal :=
  let c := context.val
  let x := s.ctx p.val c
  if x.st = .running && x.digestWait && x.finished then
    let d := s.digestOver [] true x c
    .next (d.2.launchDone p.val c d.1)
  else .next s

end Sys2Proof.Machine
end

