-- ==== Sys2Proof/Machine/Late.lean ====
section
/-!
DEFINITION. What takes up a command again: the end of a phase (R322), ADMIT_CHECK's trial of a proposal (R299), and the replies
of other devices (R162, R310).
-/

namespace Sys2Proof.Machine

/-- The Spagil command that a row carries; ADMIT_CHECK itself and events are none. -/
def cmdOf (s : State) (i : Instr) : Option Cmd :=
  match i with
  | .devIdentify h => some (cmdDevIdentify h s)
  | .devNegotiate h hostVersion hostFeatures => some (cmdDevNegotiate h hostVersion hostFeatures s)
  | .devReset h scope unit => some (cmdDevReset h scope unit s)
  | .devResetControlComplex h unit => some (cmdDevResetControlComplex h unit s)
  | .devResetUnit h unit => some (cmdDevResetUnit h unit s)
  | .devProfile h profile => some (cmdDevProfile h profile s)
  | .linkConfig h port split rate => some (cmdLinkConfig h port split rate s)
  | .linkConfigExpert h p => some (cmdLinkConfigExpert h p s)
  | .linkStatus h port => some (cmdLinkStatus h port s)
  | .linkEyescanStart h lane d => some (cmdLinkEyescanStart h lane d s)
  | .linkEyescanRead h lane mode first count => some (cmdLinkEyescanRead h lane mode first count s)
  | .linkIdle h port enable delay => some (cmdLinkIdle h port enable delay s)
  | .fabDiscover h bundle => some (cmdFabDiscover h bundle s)
  | .fabDiscoverExpert h p => some (cmdFabDiscoverExpert h p s)
  | .fabRoute h clear => some (cmdFabRoute h clear s)
  | .fabRouteExpert h p => some (cmdFabRouteExpert h p s)
  | .fabEpochStage h devMask devValue => some (cmdFabEpochStage h devMask devValue s)
  | .fabEpochCommit h devMask devValue fence => some (cmdFabEpochCommit h devMask devValue fence s)
  | .fabEndpoint h p => some (cmdFabEndpoint h p s)
  | .fabWindow h devMask devValue action p => some (cmdFabWindow h devMask devValue action p s)
  | .qosProfile h p => some (cmdQosProfile h p s)
  | .qosQueue h p => some (cmdQosQueue h p s)
  | .qosShaper h p => some (cmdQosShaper h p s)
  | .qosPolicer h p => some (cmdQosPolicer h p s)
  | .qosGates h p => some (cmdQosGates h p s)
  | .collOpen h p => some (cmdCollOpen h p s)
  | .collOpenExpert h p => some (cmdCollOpenExpert h p s)
  | .collClose h ckey => some (cmdCollClose h ckey s)
  | .collQuery h ckey first count => some (cmdCollQuery h ckey first count s)
  | .syncOpen h p => some (cmdSyncOpen h p s)
  | .syncUnbind h p => some (cmdSyncUnbind h p s)
  | .pressLoad h p => some (cmdPressLoad h p s)
  | .pressLaunch h p => some (cmdPressLaunch h p s)
  | .pressLaunchExpert h p => some (cmdPressLaunchExpert h p s)
  | .pressLayoutRecord h p => some (cmdPressLayoutRecord h p s)
  | .pressStopGraceful h presses context mode => some (cmdPressStopGraceful h presses context mode s)
  | .pressStopImmediate h presses context => some (cmdPressStopImmediate h presses context s)
  | .pressQuery h press context => some (cmdPressQuery h press context s)
  | .celPlan h => some (cmdCelPlan h s)
  | .celPlanExpert h tables retention decant extension => some (cmdCelPlanExpert h tables retention decant extension s)
  | .celAccessCreate h p => some (cmdCelAccessCreate h p s)
  | .celAccessChange h p => some (cmdCelAccessChange h p s)
  | .celAccessRevoke h p => some (cmdCelAccessRevoke h p s)
  | .celAccessFence h p => some (cmdCelAccessFence h p s)
  | .celArb h stave requester level quota preempt => some (cmdCelArb h stave.toNat requester.toNat level.toNat quota.toNat preempt s)
  | .pwrProfile h profile => some (cmdPwrProfile h profile s)
  | .pwrProfileExpert h domain dstate floor => some (cmdPwrProfileExpert h domain dstate floor s)
  | .pwrCap h cap => some (cmdPwrCap h cap s)
  | .timeSetStep h mode time => some (cmdTimeSetStep h mode time s)
  | .timeSetSlew h time => some (cmdTimeSetSlew h time s)
  | .timeAlarmSet h alarm action => some (cmdTimeAlarmSet h alarm action s)
  | .timeAlarmCancel h alarm => some (cmdTimeAlarmCancel h alarm s)
  | .harvestCfg h interval => some (cmdHarvestCfg h interval s)
  | .harvestCfgExpert h interval select vector => some (cmdHarvestCfgExpert h interval select vector s)
  | .faultCfg h first count severity => some (cmdFaultCfg h first count severity s)
  | .faultInjectLevel0 h level source count => some (cmdFaultInjectLevel0 h level source count s)
  | .faultInjectLevel1 h group count => some (cmdFaultInjectLevel1 h group count s)
  | .faultQuery h first count => some (cmdFaultQuery h first count s)
  | .fwBlock h offset length data => some (cmdFwBlock h offset length data s)
  | .fwVerify h => some (cmdFwVerify h s)
  | .fwActivate h => some (cmdFwActivate h s)
  | .lcTransition h target => some (cmdLcTransition h target s)
  | .gradePin h grade => some (cmdGradePin h grade s)
  | .bookRead h first count => some (cmdBookRead h first count s)
  | _ => none

/-! ### Phases -/

namespace State

/-- An event of the phased command; it may raise vector 6 (R322, R335). -/
def phaseEvent (s : State) (x : Phased) (status : Nat) (fna : Option Nat) : State :=
  let m := { s.message x.hdr true status with phase := x.phase + 1, phases := x.bounds.length }
  let s := s.sendEvent x.hdr { m with fna := if fna.isSome then fna else m.fna }
  if s.ctl.gctl.getLsbD 2 then s.msix 6 else s

def setPhased (s : State) (x : Option Phased) : State := { s with svc := { s.svc with phased := x } }

/-- A phase that cannot complete: the old configuration stays live, and what the phases stopped goes on (R322). -/
def phaseFail (s : State) (x : Phased) (c : Cmd) (status : Nat) (fna : Option Nat) : State :=
  (c.undo (s.phaseEvent x status fna)).setPhased none

end State

/-- PHASE_END (R322): the present phase ends, with an error when `status` is not 0, and otherwise once what it waits for
has come. The end of the last phase makes the change live. -/
def execPhaseEnd (status : BitVec 16) (s : State) : Host.Outcome State Fault Refusal :=
  match s.svc.phased with
  | none => .next s
  | some x =>
    match cmdOf s x.instr with
    | none => .next s
    | some c =>
      if status ≠ 0 then .next (s.phaseFail x c status.toNat none)
      else if !c.ready x.phase s then .next s
      else
        let s := s.phaseEvent x 0 none
        if x.phase + 1 < x.bounds.length then
          .next (c.start (x.phase + 1) (s.setPhased (some { x with phase := x.phase + 1 })))
        else .next ((c.eff (c.undo s)).st.setPhased none)

/-! ### ADMIT_CHECK -/

namespace State

/-- The status that a proposal would receive (R299), as if its sender were that of ADMIT_CHECK. -/
def wouldStatus (s : State) (h : SpHdr) (c : Cmd) : Nat :=
  let g : SpHdr := { c.hdr with src := h.src, port := h.port }
  match s.failure g c.spec c.checks with
  | some f => f.status
  | none => if g.drain && !c.checks.phases.isEmpty then 1 else 0

/-- At most one entry for each resource, the worst: failing ones first, then by the ratio of capacity to demand. -/
def reportEntries (s : State) : List AEntry :=
  let es := s.checks.filter fun e => 0 < e.demand
  let worse := fun (a b : AEntry) => if a.fails ≠ b.fails then a.fails else a.capacity * b.demand < b.capacity * a.demand
  let one := (List.range 7).filterMap fun k => firstBy worse (es.filter fun e => e.res = k + 1)
  ((one.filter AEntry.fails) ++ (one.filter fun e => !e.fails).mergeSort fun a b => !worse b a).take 16

/-- One entry of the report. -/
def entryParams (s : State) (e : AEntry) : List (Nat × Nat) :=
  [(8, e.res), (8, if e.fails then 1 else 0), (16, e.index), (32, s.own), (32, e.demand), (32, e.capacity)]

/-- The report (R299). -/
def report (s : State) (would gstate gid : Nat) (es : List AEntry) : List (Nat × Nat) :=
  [(16, would), (8, es.length), (8, gstate), (16, gid), (16, 0), (64, s.pwr.vintage)] ++ es.flatMap s.entryParams

/-- GSTATE of an identifier: a record given before and held no more is closed (R285, R299). -/
def gstateOf (s : State) (g : Nat) : Nat :=
  match s.adm.records.find? fun r => r.gid = g with
  | some r => if r.st = .admitted then 1 else 2
  | none => if g < s.adm.nextGid then 3 else 0

/-- Admit again a guarantee at risk, when it passes beside those that stand (R299, R303, R304). -/
def readmit (s : State) (g : Nat) : Nat × State :=
  match s.adm.records.find? fun r => r.gid = g with
  | none => (0x0304, s)
  | some r =>
    if r.st = .admitted then (0, s)
    else
      let stand := s.adm.records.filter fun x => x.st = .admitted
      match s.failsWith stand r with
      | e :: _ => (checkStatus e.res, s)
      | [] =>
        let mark := fun (x : Guarantee) => if x.gid = g then { x with st := GState.admitted } else x
        let s : State := { s with adm := { s.adm with records := s.adm.records.map mark } }
        (0, s.logEvent { code := 0x13, gid := g, unit := 0 })

end State

/-- ADMIT_CHECK; `plen` is the length of its proposal, 0 without one (R299). -/
def cmdAdmit (h : SpHdr) (need plen : Nat) (form : List (Option Fail)) (eff : State → Done) : Cmd :=
  { hdr := h
    spec := { op := 0x0B01, need := need, plen := some (8 + plen), feats := [10] }
    checks := { form := form }
    eff := eff }

/-- MODE 0: the checks of the proposal, and the set as it would be with it (R299). -/
def cmdAdmitDryRun (h : SpHdr) (proposal : Instr) (s : State) : Cmd :=
  let c := cmdOf s proposal
  let plen := (c.map fun c => 64 + c.hdr.plen.toNat).getD (h.plen.toNat - 8)
  cmdAdmit h 1 plen [] fun s =>
    match c with
    | none => { st := s, params := s.report 0x0102 0 0xFFFF [] }
    | some c => { st := s, params := s.report (s.wouldStatus h c) 0 0xFFFF (c.eff s).st.reportEntries }

/-- ADMIT_CHECK 0x0B01, MODE 0 (R299). -/
def execAdmitCheckDryRun (h : SpHdr) (proposal : Instr) (s : State) : Host.Outcome State Fault Refusal :=
  .next (s.run (.admitCheckDryRun h proposal) (cmdAdmitDryRun h proposal s))

def cmdAdmitReadmit (h : SpHdr) (gid : BitVec 16) : Cmd :=
  cmdAdmit h 2 0 [] fun s =>
    let r := s.readmit gid.toNat
    { st := r.2, params := r.2.report r.1 (r.2.gstateOf gid.toNat) gid.toNat r.2.reportEntries }

/-- ADMIT_CHECK 0x0B01, MODE 1 (R299, R303, R304). -/
def execAdmitCheckReadmit (h : SpHdr) (gid : BitVec 16) (s : State) : Host.Outcome State Fault Refusal :=
  .next (s.run (.admitCheckReadmit h gid) (cmdAdmitReadmit h gid))

def cmdAdmitReport (h : SpHdr) (mode : BitVec 8) (gid : BitVec 16) : Cmd :=
  cmdAdmit h 1 0 [chk (mode ≠ 2) 0x0105 0] fun s =>
    let st := s.gstateOf gid.toNat
    { st := s, params := s.report (if st = 1 || st = 2 then 0 else 0x0304) st gid.toNat s.reportEntries }

/-- ADMIT_CHECK 0x0B01, MODE 2 (R299). -/
def execAdmitCheckReport (h : SpHdr) (mode : BitVec 8) (gid : BitVec 16) (s : State) : Host.Outcome State Fault Refusal :=
  .next (s.run (.admitCheckReport h mode gid) (cmdAdmitReport h mode gid))

/-! ### Replies of other devices -/

namespace State

def dropWaiting (s : State) (w : Waiting) : State := { s with svc := { s.svc with waiting := s.svc.waiting.erase w } }

def putWaiting (s : State) (w x : Waiting) : State :=
  { s with svc := { s.svc with waiting := replaceFirst (fun y => decide (y = w)) (fun _ => x) s.svc.waiting } }

/-- Events may follow the reply of a relayed command: those of phases, of a staged entry, of a scan and of a launch. -/
def moreComes (h : SpHdr) (m : SpMsg) : Bool :=
  if m.event then m.phase ≠ m.phases && m.status = 0
  else m.status = 1 || (m.status = 0 && (h.stage || h.opcode = 0x0283 || h.opcode = 0x0602 || h.opcode = 0x0682))

/-- A relayed command's reply or event goes to the ring that carried the command (R310, R312). -/
def relayBack (s : State) (w : Waiting) (m : SpMsg) : State :=
  let h := w.hdr
  let s := if moreComes h m then s else s.dropWaiting w
  if m.event then s.sendMsg h.src h.devsrc false m
  else
    let len := plenOf (m.params.map Prod.fst)
    let m := if s.replyLimit h < len then { m with status := 0x0502, detail := len, params := [] } else m
    (s.sendMsg h.src h.devsrc (s.takenOf h).isSome m).untake h

/-- Records of COLL_QUERY, joined in the order of their FNAs. -/
def joinRecords (old new : List (Nat × Nat)) : List (Nat × Nat) :=
  let f := (new.headD (0, 0)).2
  let before := (old.zipIdx.takeWhile fun e => ((old.drop (e.2 / 6 * 6)).headD (0, 0)).2 < f).length
  old.take before ++ new ++ old.drop before

/-- Commands of a contract, whose lead waits for every device before it settles the outcome (R162, R167). -/
def ofContract (h : SpHdr) : Bool := h.opcode = 0x0501 || h.opcode = 0x0581 || h.opcode = 0x0502

/-- Every device has answered a COLL_OPEN or COLL_CLOSE. With a refusal the lead closes what was opened, here and on the
devices that opened it, and answers with that status and the FNA of the refusing device; a close that was refused leaves
the lead's part as it is. Otherwise the command is complete, and a close closes the lead's part too (R162, R166, R167). -/
def forwardEnd (s : State) (w : Waiting) : State :=
  let h := w.hdr
  let s := s.dropWaiting w
  match w.refusal with
  | some m =>
    let close : SpHdr := { h with opcode := 0x0502, plen := 8, drain := false, stage := false, time := 0 }
    let s := if h.opcode = 0x0502 then s.setClosing w.key false
      else (w.oks.foldl (fun s f => s.emit (.forward f close [(32, w.key)])) (s.closeContract w.key) : State)
    s.sendReply h { s.message h false m.status.toNat with fna := m.fna, detail := m.detail, retryAfter := m.retryAfter }
  | none =>
    let s := if h.opcode = 0x0502 then s.closeContract w.key else s
    complete h { st := s, params := w.params, gid := w.gid, detail := w.detail }

/-- One device has answered a COLL_OPEN or COLL_CLOSE. -/
def forwardCount (s : State) (w x : Waiting) : State :=
  if 1 < x.left then s.putWaiting w { x with left := x.left - 1 } else (s.putWaiting w x).forwardEnd x

/-- A device that a command was forwarded to has done its part (R162, R317). -/
def forwardDone (s : State) (w : Waiting) (m : SpMsg) : State :=
  let x : Waiting := { w with
    oks := w.oks ++ m.fna.toList
    detail := w.detail + (if m.opcode = 0x0304 || m.opcode = 0x0306 then m.detail else 0)
    params := if m.opcode = 0x0503 then joinRecords w.params m.params else w.params }
  if ofContract w.hdr && !(s.svc.phased.any fun p => p.hdr = w.hdr) then s.forwardCount w x
  else
  let s := s.putWaiting w x
  if s.svc.phased.any fun p => p.hdr = w.hdr then
    if 1 < x.left then s.putWaiting x { x with left := x.left - 1 } else s.dropWaiting x
  else s.waitStep w.hdr

/-- A device has refused: the command fails with its status and names it (R162, R305); a contract's command once every device
has answered. A phased command ends its present phase in the error. -/
def forwardFail (s : State) (w : Waiting) (m : SpMsg) : State :=
  let h := w.hdr
  match s.svc.phased.filter fun p => p.hdr = h with
  | some x =>
    let s := s.dropWaiting w
    match cmdOf s x.instr with
    | some c => s.phaseFail x c m.status.toNat m.fna
    | none => s
  | none =>
    if ofContract h then s.forwardCount w { w with refusal := some (w.refusal.getD m) }
    else
    let s := s.dropWaiting w
    s.sendReply h { s.message h false m.status.toNat with fna := m.fna, detail := m.detail, retryAfter := m.retryAfter }

end State

/-- SPAGIL_REPLY_RECEIVE (R162, R310): a reply or event from another device, for a relayed or a forwarded command. -/
def execSpagilReplyReceive (m : SpMsg) (s : State) : Host.Outcome State Fault Refusal :=
  match s.svc.waiting.find? fun w => w.hdr.tag = m.tag && w.hdr.opcode = m.opcode with
  | none => .next s
  | some w =>
    if w.relay then .next (s.relayBack w m)
    else if m.status = 1 then .next s
    else if m.status ≠ 0 then .next (s.forwardFail w m)
    else if m.event && m.phase ≠ m.phases then .next s
    else .next (s.forwardDone w m)

end Sys2Proof.Machine
end

