-- ==== Sys2Proof/Machine/Maint.lean ====
section
/-!
DEFINITION. Maintenance and boot: the control complex's restarts (R366, R405), the table sweep (R359), reconciliation (R367), the
harvest (R418), boot (R398-R402, R412, R414) and wake (R377).
-/

namespace Sys2Proof.Machine

/-! ### The control complex -/

/-- CORE_WATCHDOG_EXPIRY (R366): at severity 4 its source restarts the control complex. -/
def execCoreWatchdogExpiry (core : Fin 6) (s : State) : Host.Outcome State Fault Refusal :=
  .next (if s.ctl.fwReady || s.ctl.cmdPaused then s.assertIn (0x6B8 + core.val) (.core core.val) else s)

namespace State

/-- Restart the control complex; the third restart within 10 s quiesces the device (R366, R405). -/
def restartControl (s : State) (core : Nat) : State :=
  let u : FUnit := .core core
  if 2 ≤ s.recentResets u then s.quiesce.assertSrc 0x6C8
  else
    let s := s.pauseControl
    { s with faults := { s.faults with resetDue := s.faults.resetDue ++ [(0xFFFF, u)],
                                        resetTimes := (u, s.mono) :: s.faults.resetTimes } }

/-- Headers of the commands that a component has begun and not answered: 0 command service, 1 admission and press scheduling,
2 the fabric manager; the others have none (R404). -/
def inProgress (s : State) (component : Nat) : List SpHdr :=
  match component with
  | 0 => s.svc.waiting.map Waiting.hdr ++ s.cel.fences.map fun f => f.hdr
  | 1 => (s.press.press.flatMap fun e => e.2.ctxs.flatMap fun x =>
      x.2.stopFor.toList ++ (if x.2.digestWait && !x.2.finished then x.2.launch.toList else [])).dedup
  | 2 => s.fab.discFor.toList ++ s.fab.commitFor
  | _ => []

/-- What waited for those commands waits no more. -/
def forget (s : State) (component : Nat) : State :=
  match component with
  | 0 => ({ s with svc := { s.svc with waiting := [] } } : State).setCel { s.cel with fences := [] }
  | 1 => { s with press := { s.press with press := s.press.press.map fun (e : Nat × Press) =>
      (e.1, { e.2 with ctxs := e.2.ctxs.map fun (x : Nat × Ctx) => (x.1, { x.2 with stopFor := none }) }) } }
  | 2 => s.setFab { s.fab with discFor := none, commitFor := [] }
  | _ => s

end State

/-! ### Instruction trace (R421) -/

namespace State

/-- A trace entry as fields of a harvest record: 16 bytes (R307, R421). -/
def traceFields (e : TraceEntry) : List (Nat × Nat) :=
  [(32, e.src), (32, e.target), (32, e.ns % 2 ^ 32), (16, e.ns / 2 ^ 32 % 2 ^ 16), (8, e.kind), (8, e.component)]

/-- The kernel writes an entry for an enabled core: into its buffer of 4,096, oldest overwritten, and every third one completes a
record of TYPE 0x0F; nothing while the buffers are frozen (R421). -/
def tracePut (s : State) (core : Nat) (e : TraceEntry) : State :=
  if !bit s.tele.traceCtl.toNat core || s.tele.frozen then s
  else
    let w := look [] s.tele.traceOut core ++ [e]
    let full := decide (3 ≤ w.length)
    let s := { s with tele := { s.tele with
      trace := put [] s.tele.trace core ((e :: look [] s.tele.trace core).take 4096)
      traceOut := put [] s.tele.traceOut core (if full then [] else w) } }
    if full then s.logHarvest 0x0F core s.svc.layerId.toNat s.svc.operatorId.toNat (w.flatMap traceFields) else s

/-- An entry whose addresses, kind and component only the firmware's code would give: free values (log 137). -/
def traceFree (s : State) (core : Nat) : State :=
  let f := s.free
  ({ s with free := f + 4 } : State).tracePut core
    { src := Config.freeNat f % 2 ^ 32, target := Config.freeNat (f + 1) % 2 ^ 32, ns := s.ns % 2 ^ 48,
      kind := Config.freeNat (f + 2) % 4, component := Config.freeNat (f + 3) % 256 }

/-- What the enabled cores have traced over an interval: how many entries each is open (log 137). -/
def traceInterval (s : State) : State :=
  (members 6 s.tele.traceCtl.toNat).foldl (fun s c =>
    let f := s.fresh
    (List.range (Config.freeNat f.1 % 4096)).foldl (fun s _ => s.traceFree c) f.2) s

/-- A fault of a component on core `core`, with its addresses open (R405, R421). -/
def traceFault (s : State) (core component : Nat) : State :=
  let f := s.free
  ({ s with free := f + 2 } : State).tracePut core
    { src := Config.freeNat f % 2 ^ 32, target := Config.freeNat (f + 1) % 2 ^ 32, ns := s.ns % 2 ^ 48, kind := 3,
      component := component % 256 }

end State

/-- PROTECTION_VIOLATION (R405): the component stops and restarts; its commands end with 0x0601. The third violation on one core
within 10 s restarts the control complex. A traced core records the fault (R421). -/
def execProtectionViolation (core : Fin 6) (component : Nat) (s : State) : Host.Outcome State Fault Refusal :=
  if !s.ctl.fwReady then .next s
  else
    let c := core.val
    let s := (s.traceFault c component).assertSrc (0x688 + c)
    let hs := s.inProgress component
    let s := hs.foldl (fun s h => s.refuse h { status := 0x0601 }) (s.forget component)
    let s := match (if component = 0 then s.svc.phased else none) with
      | none => s
      | some x => match cmdOf s x.instr with
        | some k => s.phaseFail x k 0x0601 none
        | none => s
    let recent := (s.faults.violations.filter fun v => decide (s.mono < v.2 + 10 ^ 10)) ++ [(c, s.mono)]
    let s : State := { s with faults := { s.faults with violations := recent } }
    .next (if 3 ≤ (recent.filter fun v => v.1 = c).length then s.restartControl c else s)

/-- TABLE_CRC_SWEEP (R357, R359): a block that does not match is rewritten from the master. A running injection into the static
tables is what inverted it (R356). A full pass has 1 s. -/
def execTableCrcSweep (table block : Nat) (mismatch : Bool) (s : State) : Host.Outcome State Fault Refusal :=
  if !s.ctl.fwReady then .next s
  else
    let v := s.faults.sweep.visit (table * 2 ^ 20 + block % 2 ^ 20) s.mono (10 ^ 9)
    let s : State := { s with faults := { s.faults with sweep := v.1 } }
    let s := if v.2 then s.assertSrc 0x6B1 else s
    .next (if mismatch then (s.injTake 0x46 0).2.assertSrc 0x6B3 else s)

/-- RECONCILE (R367): management's copy of a unit's physical state disagrees with the data path's observation: event 0x14 and FS
0x6C0, and the copy is refreshed. The unit itself is as the data path sees it (log 135). -/
def execReconcile (unit : Nat) (physicalUp : Bool) (s : State) : Host.Outcome State Fault Refusal :=
  if !s.ctl.fwReady || look none s.faults.mgmtCopy unit = some physicalUp then .next s
  else
    let s : State := { s with faults := { s.faults with mgmtCopy := put none s.faults.mgmtCopy unit (some physicalUp) } }
    .next ((s.logEvent { code := 0x14, severity := s.severity 0x6C0, source := 0x6C0, unit := unit, detail := [unit] }).assertSrc 0x6C0)

/-! ### The harvest (R418) -/

namespace State

/-- The pair in force (R306). -/
def harvestAll (s : State) (ty index : Nat) (payload : List (Nat × Nat)) : State :=
  s.logHarvest ty index s.svc.layerId.toNat s.svc.operatorId.toNat payload

/-- A queue's record, and its observation begins again (R158). -/
def harvestQueue (s : State) (q : Nat) : State :=
  let x := s.queue q
  let d := ceilDiv (s.queueDepth q) 4096
  let t := s.mono - s.tele.intervalAt
  let avg := if t = 0 then d else (x.depthSum + s.queueDepth q * (s.mono - x.depthAt)) / t / 4096
  let s := s.harvestAll 1 q ([(32, ceilDiv x.maxDepth 4096), (32, avg), (32, x.maxSojourn / 10), (32, 0)] ++
    (List.range 16).map fun b => (16, min 65535 (look 0 x.hist b)))
  s.setQueue q { x with maxDepth := s.queueDepth q, depthSum := 0, depthAt := s.mono, maxSojourn := 0, hist := [] }

/-- A lane's record: deltas over the interval. -/
def harvestLane (s : State) (n : Nat) : State :=
  let x := s.lane n
  let d := fun (a b : Nat) => (32, (a - b) % 2 ^ 32)
  let s := s.harvestAll 2 n [(16, x.fom), d x.corrected.toNat x.seen.1, d x.bad.toNat x.seen.2.1, d x.replayed.toNat x.seen.2.2]
  s.setLane n { x with seen := (x.corrected.toNat, x.bad.toNat, x.replayed.toNat) }

/-- A domain's record; its power is a free value (log 65). -/
def harvestDomain (s : State) (d : Nat) : State :=
  let x := s.domain d
  let f := s.fresh
  f.2.harvestAll 3 d [(16, x.setpoint), (16, x.measured), (16, unsigned 16 x.tj), (32, Config.freeNat f.1 % 2 ^ 32), (16, s.assured d),
    (32, x.drifts.headD 0), (8, b01 x.dropout)]

/-- A vat's record: the resident contract's counts over the interval, and the time it was resident. -/
def harvestVat (s : State) (v : Nat) : State :=
  match (s.vat v).key.bind fun k => (s.contract k).map fun c => (k, c) with
  | none => s.harvestAll 4 v [(32, 0), (32, 0), (32, 0), (32, 0), (32, 0)]
  | some (k, c) =>
    let since := max (s.vat v).placedAt s.tele.intervalAt
    let s := s.logHarvest 4 v c.layerId.toNat c.operatorId.toNat
      [(32, c.pours), (32, c.decants), (32, c.refills), (32, c.duplicates), (32, (s.mono - since) / 10)]
    s.setContract k (some { c with pours := 0, decants := 0, refills := 0, duplicates := 0 })

/-- A stave's record. -/
def harvestStave (s : State) (n : Nat) : State :=
  let v := s.stave n
  let s := s.harvestAll 5 n (((List.range 11).map fun r => (16, min 65535 (look 0 v.grants r))) ++
    [(16, min 65535 v.revoked), (16, min 65535 v.maskedRounds)])
  s.setStave n { v with grants := [], revoked := 0, maskedRounds := 0 }

/-- A press's record, with the pair of the launch that runs; the beats are free values (log 65). -/
def harvestPress (s : State) (p : Nat) : State :=
  let x := look {} (s.pr p).ctxs (s.pr p).cur
  let runs := x.st = .running
  let k := s.free
  let s := { s with free := s.free + 5 }
  s.logHarvest 6 p (if runs then x.layerId else s.svc.layerId).toNat (if runs then x.operatorId else s.svc.operatorId).toNat
    ((List.range 5).map fun i => (32, Config.freeNat (k + i) % 2 ^ 32))

/-- The time record. -/
def harvestTime (s : State) : State :=
  let t := s.time
  let s := s.harvestAll 7 0 [(8, t.quality), (8, t.depth), (32, unsigned 32 (t.offset * 1000 / 65536)), (32, unsigned 32 t.ppsNs),
    (16, min 65535 t.ppsIgnoredCount)]
  s.setTime { s.time with ppsIgnoredCount := 0 }

/-- The device record. -/
def harvestDevice (s : State) : State :=
  s.harvestAll 8 0 [(32, s.pwr.avg), (32, s.pwr.cap), (16, unsigned 16 s.hottest), (8, s.ctl.profile)]

/-- Every selected quantity, in the order of its SELECT bit. -/
def harvestSelected (s : State) : State :=
  let sel := fun (i : Nat) => s.tele.select.getLsbD i
  let s := if sel 0 then ((s.allLinks.flatMap fun l => (List.range 8).map fun c => l * 8 + c)).foldl harvestQueue s else s
  let s := if sel 1 then (List.range 256).foldl harvestLane s else s
  let s := if sel 2 then (List.range 80).foldl harvestDomain s else s
  let s := if sel 3 then (List.range 64).foldl harvestVat s else s
  let s := if sel 4 then (List.range 64).foldl harvestStave s else s
  let s := if sel 5 then ((List.range 64).filter s.pressEnabled).foldl harvestPress s else s
  let s := if sel 6 then s.harvestTime else s
  if sel 7 then s.harvestDevice else s

end State

/-- HARVEST_INTERVAL (R418). -/
def execHarvestInterval (s : State) : Host.Outcome State Fault Refusal :=
  if !s.ctl.fwReady then .next s
  else
    let s := s.harvestSelected.traceInterval
    .next { s with tele := { s.tele with intervalAt := s.mono } }

/-! ### The board record (R398) -/

/-- A 16-bit field of the board record. -/
def bd16 (b : List Byte) (i : Nat) : Nat := imgField b i 2

/-- Points of the curve in use: temperature and duty. -/
def bdCurve (b : List Byte) : List (Int × Nat) :=
  (List.range (imgField b 45 1)).map fun i => (signed 16 (bd16 b (52 + 4 * i)), bd16 b (54 + 4 * i))

/-- Temperatures ascend strictly. -/
def ascending : List (Int × Nat) → Bool
  | a :: b :: r => decide (a.1 < b.1) && ascending (b :: r)
  | _ => true

/-- The record is valid: MAGIC, VERSION, LENGTH, CRC, and every field in its range (R398); reserved fields are ignored (R11). -/
def boardOk (b : List Byte) : Bool :=
  let b := b.take 128
  let vt := fun (x : Nat) => 600 ≤ x && x ≤ 1500
  b.length = 128 && imgField b 0 4 = 0x4252505A && bd16 b 4 = 1 && bd16 b 6 = 128 &&
  (crc32c (b.take 8 ++ [0, 0, 0, 0] ++ b.drop 12)).toNat = imgField b 8 4 &&
  vt (bd16 b 40) && vt (bd16 b 42) && bd16 b 42 + 20 ≤ bd16 b 40 &&
  2 ≤ imgField b 45 1 && imgField b 45 1 ≤ 8 && bd16 b 46 ≤ 1000 && bd16 b 48 ≤ 1000 &&
  ascending (bdCurve b) && (bdCurve b).all (fun p => p.2 ≤ 1000)

namespace State

/-- The rails and the always-on settings that a record gives, or the defaults (R398). A VDD_CEL that was commanded to the
retention voltage stands there at the wake, not at its strapped voltage (R378, R380). -/
def boardApply (s : State) (b : List Byte) : State :=
  let ok := boardOk b
  let rail := fun (r : Nat) =>
    let y : Rail := { s.rail r with modeRead := false, dead := false, fails := 0 }
    if ok then
      let z := { y with addr := imgField b (16 + 8 * r) 1 % 128, commanded := bit (imgField b (16 + 8 * r) 1) 7 }
      if s.ctl.profile = 2 && r = 2 && y.commanded then { z with modeRead := (s.rail r).modeRead } else { z with mv := bd16 b (18 + 8 * r) }
    else { y with addr := 0x40 + r, commanded := false }
  let s := [0, 1, 2].foldl (fun s r => s.setRail r (rail r)) s
  let a := s.aon
  let s := if ok then
      s.setAon { a with
        vtHi := bd16 b 40
        vtLo := bd16 b 42
        coolRange := imgField b 44 1 % 2
        curve := bdCurve b
        dutyRetention := bd16 b 46
        dutyDormant := bd16 b 48
        smbAddr := imgField b 50 1 % 128 }
    else (s.setAon { a with
        vtHi := 950
        vtLo := 900
        coolRange := 0
        curve := [(700, 300), (950, 1000)]
        dutyRetention := 200
        dutyDormant := 200
        smbAddr := 0x5C }).assertSrc 0x685
  s.coolUpdate

/-! ### Boot (R401, R402, R409, R412) -/

/-- The staging image is valid (R400). -/
def imageValid (s : State) : Bool :=
  s.headerOk && s.keyOk && ecdsaOk (s.stagingBytes 32 97) (s.stagingBytes 136 96) s.imageHash

/-- Targets whose intent is begun and whose commit group is not burned (R412). -/
def lcPending (s : State) : List Nat :=
  [1, 2, 3, 4].filter fun t => 0 < look 0 s.ident.lcIntent t && look 0 s.ident.lcCommit t < 12

/-- Complete the targets that are due, in ascending order (R412): each sets FS 0x682. -/
def completeFuses (s : State) : State := s.lcPending.foldl (fun s t => (s.burnTarget t).assertSrc 0x682) s

/-- ROM stops after stage 1, with identity only (R409, R412). -/
def stopAtStage1 (s : State) : State :=
  let s := s.setCtl { s.ctl with bootStage := 1 }
  { s with fw := { s.fw with identityOnly := true } }

/-- The image that runs (R401): the active one, the staging one, or none. -/
def chooseImage (s : State) (activeOk stagingOk : Bool) : Option Bool × State :=
  let marker := (s.ctlNow.map CtlRec.marker).getD false
  let clear := fun (s : State) => s.ctlSet fun r => { r with marker := false }
  if marker then
    if stagingOk then (some true, s)
    else if activeOk then (some false, (clear s).assertSrc 0x680)
    else (none, s.assertSrc 0x681)
  else if activeOk then (some false, s)
  else if stagingOk then (some true, s.assertSrc 0x680)
  else (none, s.assertSrc 0x681)

/-- A vintage is due at boot when the live one is older than 7 days (R363). -/
def planAtBoot (s : State) : State :=
  if s.pwr.planDue.isNone && decide (s.pwr.planned + 7 * 86400 * 10 ^ 9 ≤ s.ns) then s.setPwr { s.pwr with planDue := some 3 } else s

/-- Stage 3 and after: the board record, D2, D3, the tiers, the grade pin, the links in bring-up, command service (R398, R402, R414),
and a vintage due when the live one is older than 7 days (R363). A thermal trip that D0 remembers is reported (R384). In RETURNED
the cellar is zeroed (R409). -/
def startFirmware (s : State) (board : List Byte) (staging : Bool) : State :=
  let s := if staging then s.adoptImage else { s with fw := { s.fw with version := s.fw.activeVersion } }
  let s := s.reagree.boardApply board
  let s := if s.celSupply then s else s.rampTo 2 700
  let s := ([2, 12, 13, 14, 15, 3] ++ (List.range 8).map (· + 4)).foldl (fun (s : State) d => s.domReach d .active) s
  let s := if s.lcState = 3 then s.cellarInit else s
  let s := match s.ctlNow with
    | some r => s.applyPin r.pin
    | none => (s.applyPin none).assertSrc 0x68F
  let s := s.setCtl { s.ctl with bootStage := 15, fwReady := true, profile := 1 }
  let s := if s.aon.thermtrip then s.assertSrc 0x752 else s
  s.planAtBoot.answerActivate

/-- The boot sequence from the ROM on. -/
def bootFrom (s : State) (board : List Byte) (activeOk stagingOk burnOk : Bool) : State :=
  let due := !s.lcPending.isEmpty
  if due && !s.supplySteady then s
  else
    let s := s.domReach 1 .active
    if due && !burnOk then (s.assertSrc 0x683).stopAtStage1
    else
      let s := s.completeFuses
      if s.lcState = 4 then s.stopAtStage1
      else
        let c := s.chooseImage activeOk (stagingOk && s.imageValid)
        match c.1 with
        | none => c.2.setCtl { c.2.ctl with bootStage := 2, recovery := true }
        | some staging => c.2.startFirmware board staging

end State

/-- BOOT (R402), once SYS_RST_N is high and comparators 0 and 1 read 1; `activeOk` and `stagingOk` say what reading the slots
shows, `burnOk` whether a due completion burns its fuses. -/
def execBoot (board : List Byte) (activeOk stagingOk burnOk : Bool) (s : State) : Host.Outcome State Fault Refusal :=
  let asleep := s.ctl.profile = 2 || s.ctl.profile = 3
  let running := s.ctl.fwReady || s.ctl.cmdPaused || s.ctl.recovery || s.fw.identityOnly
  if asleep || running || !s.aon.cmp0.lvl || !s.aon.cmp1.lvl || s.aon.tripped then .next s
  else .next (s.bootFrom board activeOk stagingOk burnOk)

/-- The system partitions are initialised again, and press data is kept (R377). -/
def State.keepPressData (s : State) : State :=
  let n := State.pressDataStart s.cel.plan
  let inPress := fun (a : Nat) => decide (n ≤ a % staveBytes)
  s.setCel { s.cel with
    mem := s.cel.mem.filter fun e => inPress e.1
    poison := s.cel.poison.filter fun e => inPress (e.1 * 128)
    err := s.cel.err.filter fun e => inPress (e.1 * 128)
    stale := s.cel.stale.filter fun r => decide (n ≤ r.1) }

/-- WAKE (R377): a wake that has been accepted runs once comparators 1 and 3 read 1, and brings the device to profile 1 with the
plan that D0 kept. -/
def execWake (board : List Byte) (activeOk stagingOk burnOk : Bool) (s : State) : Host.Outcome State Fault Refusal :=
  if !s.aon.waking || !s.aon.cmp0.lvl || !s.aon.cmp1.lvl || !s.aon.cmp3.lvl || s.aon.tripped ||
      (!s.lcPending.isEmpty && !s.supplySteady) then .next s
  else
    let s := s.setAon { s.aon with waking := false, wakeRequest := false }
    let s := (s.setCel { s.cel with plan := s.aon.savedPlan }).keepPressData
    .next (s.bootFrom board activeOk stagingOk burnOk)

end Sys2Proof.Machine
end

