-- ==== Sys2Proof/Machine/Smb.lean ====
section
/-!
DEFINITION. The SMBus target (R436).
-/

namespace Sys2Proof.Machine

namespace State

/-- The target acknowledges from boot stage 3, while D1 is active. -/
def smbUp (s : State) : Bool := s.domActive 1 && 3 ≤ s.ctl.bootStage

/-- Answer a read, or do not acknowledge. -/
def smbAnswer (s : State) (bytes : List Byte) : State := s.emit (if s.smbUp then .smbus bytes else .smbNack)

/-- A word read of a signed or unsigned value. -/
def smbWord (s : State) (v : Int) : State := s.smbAnswer (leBytes 2 (unsigned 16 v))

end State

def execSmbIdentity (s : State) : Host.Outcome State Fault Refusal :=
  .next (s.smbAnswer (leBytes 2 0x7410 ++ leBytes 2 s.ident.stepping.toNat ++ leBytes 8 s.ident.serial.toNat ++
    [BitVec.ofNat 8 s.ident.gradeFused, BitVec.ofNat 8 s.gradePinned, BitVec.ofNat 8 s.lcState, BitVec.ofNat 8 s.ctl.profile]))

def execSmbFaultSummary (s : State) : Host.Outcome State Fault Refusal := .next (s.smbWord s.faultSummary)

def execSmbStatus (s : State) : Host.Outcome State Fault Refusal :=
  .next (s.smbWord (b01 s.ctl.fwReady + 2 * b01 s.ctl.quiesced + 4 * b01 s.svc.phased.isSome + 8 * b01 s.ctl.cmdPaused
    + 16 * b01 s.aon.thermtrip + 32 * s.time.quality : Nat))

def execSmbTjMax (s : State) : Host.Outcome State Fault Refusal := .next (s.smbWord s.hottest)

def execSmbInlet (s : State) : Host.Outcome State Fault Refusal := .next (s.smbWord s.inlet)

def execSmbPower (s : State) : Host.Outcome State Fault Refusal := .next (s.smbWord ((s.pwr.avg / 1000 : Nat) : Int))

def execSmbCool (s : State) : Host.Outcome State Fault Refusal := .next (s.smbWord (s.aon.coolDuty : Int))

/-- SMB_INDEX_WRITE: a wrong PEC or a value above 63 is discarded. -/
def execSmbIndexWrite (v : BitVec 8) (pecOk : Bool) (s : State) : Host.Outcome State Fault Refusal :=
  .next (if !s.smbUp then s.emit .smbNack else if pecOk && v.toNat < 64 then { s with smbIndex := v.toNat } else s)

def execSmbIndexRead (s : State) : Host.Outcome State Fault Refusal := .next (s.smbAnswer [BitVec.ofNat 8 s.smbIndex])

/-- SMB_FAULT_WORD: INDEX then advances, from 63 to 0. -/
def execSmbFaultWord (s : State) : Host.Outcome State Fault Refusal :=
  let t := s.smbAnswer (leBytes 4 (State.faultWord s.faults.sticky s.smbIndex))
  .next (if s.smbUp then { t with smbIndex := (s.smbIndex + 1) % 64 } else t)

def execSmbVintage (s : State) : Host.Outcome State Fault Refusal := .next (s.smbAnswer (leBytes 8 s.pwr.vintage))

end Sys2Proof.Machine
end

