-- ==== Sys2Proof/Machine/Dispatch.lean ====
section
/-!
DEFINITION. One arm for each command: the call of its meaning.
-/

namespace Sys2Proof.Machine

def exec (i : Instr) (s : State) : Host.Outcome State Fault Refusal :=
  match i with
  | .devIdentify h => Sys2Proof.Machine.execDevIdentify h s
  | .devNegotiate h hostVersion hostFeatures => Sys2Proof.Machine.execDevNegotiate h hostVersion hostFeatures s
  | .devReset h scope unit => Sys2Proof.Machine.execDevReset h scope unit s
  | .devResetControlComplex h unit => Sys2Proof.Machine.execDevResetControlComplex h unit s
  | .devResetUnit h unit => Sys2Proof.Machine.execDevResetUnit h unit s
  | .devProfile h profile => Sys2Proof.Machine.execDevProfile h profile s
  | .linkConfig h port split rate => Sys2Proof.Machine.execLinkConfig h port split rate s
  | .linkConfigExpert h p => Sys2Proof.Machine.execLinkConfigExpert h p s
  | .linkStatus h port => Sys2Proof.Machine.execLinkStatus h port s
  | .linkEyescanStart h lane d => Sys2Proof.Machine.execLinkEyescanStart h lane d s
  | .linkEyescanRead h lane mode first count => Sys2Proof.Machine.execLinkEyescanRead h lane mode first count s
  | .linkIdle h port enable delay => Sys2Proof.Machine.execLinkIdle h port enable delay s
  | .fabDiscover h bundle => Sys2Proof.Machine.execFabDiscover h bundle s
  | .fabDiscoverExpert h p => Sys2Proof.Machine.execFabDiscoverExpert h p s
  | .fabRoute h clear => Sys2Proof.Machine.execFabRoute h clear s
  | .fabRouteExpert h p => Sys2Proof.Machine.execFabRouteExpert h p s
  | .fabEpochStage h devMask devValue => Sys2Proof.Machine.execFabEpochStage h devMask devValue s
  | .fabEpochCommit h devMask devValue fence => Sys2Proof.Machine.execFabEpochCommit h devMask devValue fence s
  | .fabEndpoint h p => Sys2Proof.Machine.execFabEndpoint h p s
  | .fabWindow h devMask devValue action p => Sys2Proof.Machine.execFabWindow h devMask devValue action p s
  | .qosProfile h p => Sys2Proof.Machine.execQosProfile h p s
  | .qosQueue h p => Sys2Proof.Machine.execQosQueue h p s
  | .qosShaper h p => Sys2Proof.Machine.execQosShaper h p s
  | .qosPolicer h p => Sys2Proof.Machine.execQosPolicer h p s
  | .qosGates h p => Sys2Proof.Machine.execQosGates h p s
  | .collOpen h p => Sys2Proof.Machine.execCollOpen h p s
  | .collOpenExpert h p => Sys2Proof.Machine.execCollOpenExpert h p s
  | .collClose h ckey => Sys2Proof.Machine.execCollClose h ckey s
  | .collQuery h ckey first count => Sys2Proof.Machine.execCollQuery h ckey first count s
  | .syncOpen h p => Sys2Proof.Machine.execSyncOpen h p s
  | .syncUnbind h p => Sys2Proof.Machine.execSyncUnbind h p s
  | .pressLoad h p => Sys2Proof.Machine.execPressLoad h p s
  | .pressLaunch h p => Sys2Proof.Machine.execPressLaunch h p s
  | .pressLaunchExpert h p => Sys2Proof.Machine.execPressLaunchExpert h p s
  | .pressLayoutRecord h p => Sys2Proof.Machine.execPressLayoutRecord h p s
  | .pressStopGraceful h presses context mode => Sys2Proof.Machine.execPressStopGraceful h presses context mode s
  | .pressStopImmediate h presses context => Sys2Proof.Machine.execPressStopImmediate h presses context s
  | .pressQuery h press context => Sys2Proof.Machine.execPressQuery h press context s
  | .celPlan h => Sys2Proof.Machine.execCelPlan h s
  | .celPlanExpert h tables retention decant extension => Sys2Proof.Machine.execCelPlanExpert h tables retention decant extension s
  | .celAccessCreate h p => Sys2Proof.Machine.execCelAccessCreate h p s
  | .celAccessChange h p => Sys2Proof.Machine.execCelAccessChange h p s
  | .celAccessRevoke h p => Sys2Proof.Machine.execCelAccessRevoke h p s
  | .celAccessFence h p => Sys2Proof.Machine.execCelAccessFence h p s
  | .celArb h stave requester level quota preempt => Sys2Proof.Machine.execCelArb h stave requester level quota preempt s
  | .pwrProfile h profile => Sys2Proof.Machine.execPwrProfile h profile s
  | .pwrProfileExpert h domain dstate floor => Sys2Proof.Machine.execPwrProfileExpert h domain dstate floor s
  | .pwrCap h cap => Sys2Proof.Machine.execPwrCap h cap s
  | .timeSetStep h mode time => Sys2Proof.Machine.execTimeSetStep h mode time s
  | .timeSetSlew h time => Sys2Proof.Machine.execTimeSetSlew h time s
  | .timeAlarmSet h alarm action => Sys2Proof.Machine.execTimeAlarmSet h alarm action s
  | .timeAlarmCancel h alarm => Sys2Proof.Machine.execTimeAlarmCancel h alarm s
  | .harvestCfg h interval => Sys2Proof.Machine.execHarvestCfg h interval s
  | .harvestCfgExpert h interval select vector => Sys2Proof.Machine.execHarvestCfgExpert h interval select vector s
  | .faultCfg h first count severity => Sys2Proof.Machine.execFaultCfg h first count severity s
  | .faultInjectLevel0 h level source count => Sys2Proof.Machine.execFaultInjectLevel0 h level source count s
  | .faultInjectLevel1 h group count => Sys2Proof.Machine.execFaultInjectLevel1 h group count s
  | .faultQuery h first count => Sys2Proof.Machine.execFaultQuery h first count s
  | .fwBlock h offset length data => Sys2Proof.Machine.execFwBlock h offset length data s
  | .fwVerify h => Sys2Proof.Machine.execFwVerify h s
  | .fwActivate h => Sys2Proof.Machine.execFwActivate h s
  | .lcTransition h target => Sys2Proof.Machine.execLcTransition h target s
  | .gradePin h grade => Sys2Proof.Machine.execGradePin h grade s
  | .bookRead h first count => Sys2Proof.Machine.execBookRead h first count s
  | .admitCheckDryRun h proposal => Sys2Proof.Machine.execAdmitCheckDryRun h proposal s
  | .admitCheckReadmit h gid => Sys2Proof.Machine.execAdmitCheckReadmit h gid s
  | .admitCheckReport h mode gid => Sys2Proof.Machine.execAdmitCheckReport h mode gid s
  | .crTailWrite r v => Sys2Proof.Machine.execCrTailWrite r v s
  | .rrHeadWrite r v => Sys2Proof.Machine.execRrHeadWrite r v s
  | .ringReset r v => Sys2Proof.Machine.execRingReset r v s
  | .crEntryTake r e => Sys2Proof.Machine.execCrEntryTake r e s
  | .spagilInbandReceive h => Sys2Proof.Machine.execSpagilInbandReceive h s
  | .rrEventFlush r => Sys2Proof.Machine.execRrEventFlush r s
  | .phaseEnd status => Sys2Proof.Machine.execPhaseEnd status s
  | .stagedApply => Sys2Proof.Machine.execStagedApply s
  | .faultStickyClear word v => Sys2Proof.Machine.execFaultStickyClear word v s
  | .faultForceWrite word v => Sys2Proof.Machine.execFaultForceWrite word v s
  | .faultSevWrite reg v => Sys2Proof.Machine.execFaultSevWrite reg v s
  | .faultInjectGo v => Sys2Proof.Machine.execFaultInjectGo v s
  | .watermarkArm n v => Sys2Proof.Machine.execWatermarkArm n v s
  | .comparatorRearm v => Sys2Proof.Machine.execComparatorRearm v s
  | .traceCtlWrite v => Sys2Proof.Machine.execTraceCtlWrite v s
  | .reg64LowRead a => Sys2Proof.Machine.execReg64LowRead a s
  | .registerWrite off eight v => Sys2Proof.Machine.execRegisterWrite off eight v s
  | .bar0UnsupportedAccess off size write => Sys2Proof.Machine.execBar0UnsupportedAccess off size write s
  | .bar2Read addr len => Sys2Proof.Machine.execBar2Read addr len s
  | .bar2Write addr data => Sys2Proof.Machine.execBar2Write addr data s
  | .smbIdentity => Sys2Proof.Machine.execSmbIdentity s
  | .smbFaultSummary => Sys2Proof.Machine.execSmbFaultSummary s
  | .smbStatus => Sys2Proof.Machine.execSmbStatus s
  | .smbTjMax => Sys2Proof.Machine.execSmbTjMax s
  | .smbInlet => Sys2Proof.Machine.execSmbInlet s
  | .smbPower => Sys2Proof.Machine.execSmbPower s
  | .smbCool => Sys2Proof.Machine.execSmbCool s
  | .smbIndexWrite v pecOk => Sys2Proof.Machine.execSmbIndexWrite v pecOk s
  | .smbIndexRead => Sys2Proof.Machine.execSmbIndexRead s
  | .smbFaultWord => Sys2Proof.Machine.execSmbFaultWord s
  | .smbVintage => Sys2Proof.Machine.execSmbVintage s
  | .sequencedFlitReceive link f corrected => Sys2Proof.Machine.execSequencedFlitReceive link f corrected s
  | .badFlitReceive x => Sys2Proof.Machine.execBadFlitReceive x s
  | .nullFlitReceive x f => Sys2Proof.Machine.execNullFlitReceive x f s
  | .retryReqReceive x f => Sys2Proof.Machine.execRetryReqReceive x f s
  | .rateMatchReceive x early => Sys2Proof.Machine.execRateMatchReceive x early s
  | .idleEntryReceive x f => Sys2Proof.Machine.execIdleEntryReceive x f s
  | .trainingFlitReceive x t => Sys2Proof.Machine.execTrainingFlitReceive x t s
  | .flitSend link => Sys2Proof.Machine.execFlitSend link s
  | .rateMatchSend link => Sys2Proof.Machine.execRateMatchSend link s
  | .retryTimerExpiry link => Sys2Proof.Machine.execRetryTimerExpiry link s
  | .ackStallReplay link => Sys2Proof.Machine.execAckStallReplay link s
  | .laneDetect link present => Sys2Proof.Machine.execLaneDetect link present s
  | .bringupTimeout link => Sys2Proof.Machine.execBringupTimeout link s
  | .lossOfSignal lane => Sys2Proof.Machine.execLossOfSignal lane s
  | .fomSample lane height corrected received => Sys2Proof.Machine.execFomSample lane height corrected received s
  | .eyescanDone lane counts => Sys2Proof.Machine.execEyescanDone lane counts s
  | .idleDelayExpiry link => Sys2Proof.Machine.execIdleDelayExpiry link s
  | .idleWake link => Sys2Proof.Machine.execIdleWake link s
  | .packetHeaderArrive link vc => Sys2Proof.Machine.execPacketHeaderArrive link vc s
  | .admissionRetry link vc => Sys2Proof.Machine.execAdmissionRetry link vc s
  | .packetChannelGrant cask => Sys2Proof.Machine.execPacketChannelGrant cask s
  | .escapeWaitExpiry cask => Sys2Proof.Machine.execEscapeWaitExpiry cask s
  | .egressSelect link => Sys2Proof.Machine.execEgressSelect link s
  | .ageingHeadSweep link cls => Sys2Proof.Machine.execAgeingHeadSweep link cls s
  | .leesDiscard cask => Sys2Proof.Machine.execLeesDiscard cask s
  | .leakAudit => Sys2Proof.Machine.execLeakAudit s
  | .pbScrub cask error => Sys2Proof.Machine.execPbScrub cask error s
  | .endpointQueueDiscard link cls => Sys2Proof.Machine.execEndpointQueueDiscard link cls s
  | .gateTransition link => Sys2Proof.Machine.execGateTransition link s
  | .gateListTakeover link => Sys2Proof.Machine.execGateListTakeover link s
  | .rateLimiterTick lim => Sys2Proof.Machine.execRateLimiterTick lim s
  | .edgeAckReceive egress ackSeq count marks => Sys2Proof.Machine.execEdgeAckReceive egress ackSeq count marks s
  | .edgeAckTimer ingress => Sys2Proof.Machine.execEdgeAckTimer ingress s
  | .edgeNackGapReceive egress nseq => Sys2Proof.Machine.execEdgeNackGapReceive egress nseq s
  | .edgeNackSeqRangeReceive egress expected => Sys2Proof.Machine.execEdgeNackSeqRangeReceive egress expected s
  | .edgeNackBaseReceive ingress expected => Sys2Proof.Machine.execEdgeNackBaseReceive ingress expected s
  | .edgeNackUnresponsiveReceive egress nseq => Sys2Proof.Machine.execEdgeNackUnresponsiveReceive egress nseq s
  | .gapTimer ingress => Sys2Proof.Machine.execGapTimer ingress s
  | .rtoExpiry egress => Sys2Proof.Machine.execRtoExpiry egress s
  | .unresponsiveProbe endpoint => Sys2Proof.Machine.execUnresponsiveProbe endpoint s
  | .mirrorConfirm peer dcseq copy => Sys2Proof.Machine.execMirrorConfirm peer dcseq copy s
  | .helloTimer => Sys2Proof.Machine.execHelloTimer s
  | .helloReceive port m => Sys2Proof.Machine.execHelloReceive port m s
  | .helloTimeout dim => Sys2Proof.Machine.execHelloTimeout dim s
  | .bundleDown dim => Sys2Proof.Machine.execBundleDown dim s
  | .initTimeout => Sys2Proof.Machine.execInitTimeout s
  | .electQuiet => Sys2Proof.Machine.execElectQuiet s
  | .assignTimeout => Sys2Proof.Machine.execAssignTimeout s
  | .rootReceive port m => Sys2Proof.Machine.execRootReceive port m s
  | .coordReceive port m => Sys2Proof.Machine.execCoordReceive port m s
  | .holeReceive port m => Sys2Proof.Machine.execHoleReceive port m s
  | .tableRecomputeDone => Sys2Proof.Machine.execTableRecomputeDone s
  | .announceReceive link m => Sys2Proof.Machine.execAnnounceReceive link m s
  | .redirectReceive port m => Sys2Proof.Machine.execRedirectReceive port m s
  | .takeoverReceive m => Sys2Proof.Machine.execTakeoverReceive m s
  | .epochCommitTime => Sys2Proof.Machine.execEpochCommitTime s
  | .epochBankFree => Sys2Proof.Machine.execEpochBankFree s
  | .contribReceive c => Sys2Proof.Machine.execContribReceive c s
  | .pendingContribRetry ckey => Sys2Proof.Machine.execPendingContribRetry ckey s
  | .pendingContribAgeing ckey => Sys2Proof.Machine.execPendingContribAgeing ckey s
  | .pourCombineDone ckey round pour => Sys2Proof.Machine.execPourCombineDone ckey round pour s
  | .vatSchedule => Sys2Proof.Machine.execVatSchedule s
  | .decantDone vat => Sys2Proof.Machine.execDecantDone vat s
  | .refillDone vat => Sys2Proof.Machine.execRefillDone vat s
  | .tapWrite ckey press => Sys2Proof.Machine.execTapWrite ckey press s
  | .tapStallTimer ckey press => Sys2Proof.Machine.execTapStallTimer ckey press s
  | .roundSettle ckey round tReady => Sys2Proof.Machine.execRoundSettle ckey round tReady s
  | .vatScrub vat uncorrectable => Sys2Proof.Machine.execVatScrub vat uncorrectable s
  | .syncSlotReceive sender slot => Sys2Proof.Machine.execSyncSlotReceive sender slot s
  | .alu p => Sys2Proof.Machine.execAlu p s
  | .addi p => Sys2Proof.Machine.execAddi p s
  | .andi p => Sys2Proof.Machine.execAndi p s
  | .ori p => Sys2Proof.Machine.execOri p s
  | .xori p => Sys2Proof.Machine.execXori p s
  | .shi p => Sys2Proof.Machine.execShi p s
  | .li p => Sys2Proof.Machine.execLi p s
  | .lui p => Sys2Proof.Machine.execLui p s
  | .slti p => Sys2Proof.Machine.execSlti p s
  | .ld p => Sys2Proof.Machine.execLd p s
  | .lw p => Sys2Proof.Machine.execLw p s
  | .lh p => Sys2Proof.Machine.execLh p s
  | .lb p => Sys2Proof.Machine.execLb p s
  | .sd p => Sys2Proof.Machine.execSd p s
  | .sw p => Sys2Proof.Machine.execSw p s
  | .sh p => Sys2Proof.Machine.execSh p s
  | .sb p => Sys2Proof.Machine.execSb p s
  | .beq p => Sys2Proof.Machine.execBeq p s
  | .bne p => Sys2Proof.Machine.execBne p s
  | .blt p => Sys2Proof.Machine.execBlt p s
  | .bge p => Sys2Proof.Machine.execBge p s
  | .bltu p => Sys2Proof.Machine.execBltu p s
  | .bgeu p => Sys2Proof.Machine.execBgeu p s
  | .jal p => Sys2Proof.Machine.execJal p s
  | .jalr p => Sys2Proof.Machine.execJalr p s
  | .qpush p => Sys2Proof.Machine.execQpush p s
  | .qpushEnter p => Sys2Proof.Machine.execQpushEnter p s
  | .synciq p => Sys2Proof.Machine.execSynciq p s
  | .fenceif p => Sys2Proof.Machine.execFenceif p s
  | .semwait p => Sys2Proof.Machine.execSemwait p s
  | .semsig p => Sys2Proof.Machine.execSemsig p s
  | .semread p => Sys2Proof.Machine.execSemread p s
  | .semWaitRelease p who => Sys2Proof.Machine.execSemWaitRelease p who s
  | .syncc p => Sys2Proof.Machine.execSyncc p s
  | .syncResultWrite p syncId => Sys2Proof.Machine.execSyncResultWrite p syncId s
  | .estat p => Sys2Proof.Machine.execEstat p s
  | .eclr p => Sys2Proof.Machine.execEclr p s
  | .ewait p => Sys2Proof.Machine.execEwait p s
  | .ewaitRelease p => Sys2Proof.Machine.execEwaitRelease p s
  | .time p => Sys2Proof.Machine.execTime p s
  | .halt p => Sys2Proof.Machine.execHalt p s
  | .streamFetch p e => Sys2Proof.Machine.execStreamFetch p e s
  | .nop p e => Sys2Proof.Machine.execNop p e s
  | .areg p e => Sys2Proof.Machine.execAreg p e s
  | .endStream p e => Sys2Proof.Machine.execEndStream p e s
  | .tmm p => Sys2Proof.Machine.execTmm p s
  | .vbin p => Sys2Proof.Machine.execVbin p s
  | .vun p => Sys2Proof.Machine.execVun p s
  | .vfma p => Sys2Proof.Machine.execVfma p s
  | .vcvt p => Sys2Proof.Machine.execVcvt p s
  | .vred p => Sys2Proof.Machine.execVred p s
  | .vscale p => Sys2Proof.Machine.execVscale p s
  | .vlut p => Sys2Proof.Machine.execVlut p s
  | .vtopk p => Sys2Proof.Machine.execVtopk p s
  | .vrng p => Sys2Proof.Machine.execVrng p s
  | .rcopy p e => Sys2Proof.Machine.execRcopy p e s
  | .rfill p e => Sys2Proof.Machine.execRfill p e s
  | .rpour p => Sys2Proof.Machine.execRpour p s
  | .rpourAccept p => Sys2Proof.Machine.execRpourAccept p s
  | .contribStallTimer p => Sys2Proof.Machine.execContribStallTimer p s
  | .macroComplete p e => Sys2Proof.Machine.execMacroComplete p e s
  | .overrunTimer p e => Sys2Proof.Machine.execOverrunTimer p e s
  | .contextQuantumExpiry p => Sys2Proof.Machine.execContextQuantumExpiry p s
  | .contextSwitch p => Sys2Proof.Machine.execContextSwitch p s
  | .arbiterRound stave => Sys2Proof.Machine.execArbiterRound stave s
  | .drawComplete stave => Sys2Proof.Machine.execDrawComplete stave s
  | .preemptRevoke stave => Sys2Proof.Machine.execPreemptRevoke stave s
  | .staveWatchdog stave => Sys2Proof.Machine.execStaveWatchdog stave s
  | .scrubDraw stave => Sys2Proof.Machine.execScrubDraw stave s
  | .scrubPassTimeout stave => Sys2Proof.Machine.execScrubPassTimeout stave s
  | .windowFenceDrained window => Sys2Proof.Machine.execWindowFenceDrained window s
  | .inDigestDone p context => Sys2Proof.Machine.execInDigestDone p context s
  | .outDigestDone p context => Sys2Proof.Machine.execOutDigestDone p context s
  | .admissionRerun => Sys2Proof.Machine.execAdmissionRerun s
  | .unitReset source unit testOk => Sys2Proof.Machine.execUnitReset source unit testOk s
  | .forceTimerExpiry source => Sys2Proof.Machine.execForceTimerExpiry source s
  | .injectDone group => Sys2Proof.Machine.execInjectDone group s
  | .coreWatchdogExpiry core => Sys2Proof.Machine.execCoreWatchdogExpiry core s
  | .tableCrcSweep table block mismatch => Sys2Proof.Machine.execTableCrcSweep table block mismatch s
  | .canarySample d readings => Sys2Proof.Machine.execCanarySample d readings s
  | .stressAccrue d tjMilli mv => Sys2Proof.Machine.execStressAccrue d tjMilli mv s
  | .sensorCalibration failed => Sys2Proof.Machine.execSensorCalibration failed s
  | .vintagePlan cause predicted slope leak dyn => Sys2Proof.Machine.execVintagePlan cause predicted slope leak dyn s
  | .vintageAdopt confirmed writeOk => Sys2Proof.Machine.execVintageAdopt confirmed writeOk s
  | .dropoutSet d => Sys2Proof.Machine.execDropoutSet d s
  | .dropoutPersist d assured => Sys2Proof.Machine.execDropoutPersist d assured s
  | .dropoutClear d => Sys2Proof.Machine.execDropoutClear d s
  | .voltageLoopTick sample => Sys2Proof.Machine.execVoltageLoopTick sample s
  | .railRampStep rail acked mode => Sys2Proof.Machine.execRailRampStep rail acked mode s
  | .pmbusStatusPoll rail result status => Sys2Proof.Machine.execPmbusStatusPoll rail result status s
  | .powerSample mw => Sys2Proof.Machine.execPowerSample mw s
  | .junctionSample d tj => Sys2Proof.Machine.execJunctionSample d tj s
  | .comparatorChange c mv => Sys2Proof.Machine.execComparatorChange c mv s
  | .comparatorPowerOn mv => Sys2Proof.Machine.execComparatorPowerOn mv s
  | .inputChatter n => Sys2Proof.Machine.execInputChatter n s
  | .inputStuckTimeout n => Sys2Proof.Machine.execInputStuckTimeout n s
  | .wake board activeOk stagingOk burnOk => Sys2Proof.Machine.execWake board activeOk stagingOk burnOk s
  | .alarmFire => Sys2Proof.Machine.execAlarmFire s
  | .rackClkLoss => Sys2Proof.Machine.execRackClkLoss s
  | .rackPpsPulse offsetNs => Sys2Proof.Machine.execRackPpsPulse offsetNs s
  | .timeExchangeTimer => Sys2Proof.Machine.execTimeExchangeTimer s
  | .timeExchangeReceive port m t1 t2 => Sys2Proof.Machine.execTimeExchangeReceive port m t1 t2 s
  | .timeStepReceive port m => Sys2Proof.Machine.execTimeStepReceive port m s
  | .coolDemandWatchdog => Sys2Proof.Machine.execCoolDemandWatchdog s
  | .sysReset => Sys2Proof.Machine.execSysReset s
  | .perst => Sys2Proof.Machine.execPerst s
  | .functionLevelReset => Sys2Proof.Machine.execFunctionLevelReset s
  | .boot board activeOk stagingOk burnOk => Sys2Proof.Machine.execBoot board activeOk stagingOk burnOk s
  | .imageCopyDone => Sys2Proof.Machine.execImageCopyDone s
  | .protectionViolation core component => Sys2Proof.Machine.execProtectionViolation core component s
  | .harvestInterval => Sys2Proof.Machine.execHarvestInterval s
  | .reconcile unit physicalUp => Sys2Proof.Machine.execReconcile unit physicalUp s
  | .rackClkReturn => Sys2Proof.Machine.execRackClkReturn s
  | .rackClkEdge => Sys2Proof.Machine.execRackClkEdge s
  | .heartbeatTick => Sys2Proof.Machine.execHeartbeatTick s
  | .domainTransitionDone d => Sys2Proof.Machine.execDomainTransitionDone d s
  | .profileDomainsOff => Sys2Proof.Machine.execProfileDomainsOff s
  | .jtagKeyHashWrite hash => Sys2Proof.Machine.execJtagKeyHashWrite hash s
  | .wakeBurstReceive link => Sys2Proof.Machine.execWakeBurstReceive link s
  | .spagilReplyReceive m => Sys2Proof.Machine.execSpagilReplyReceive m s

end Sys2Proof.Machine
end

