-- ==== Sys2Proof/Safety.lean ====
section
/-!
DEFINITION. What a safe step is, and the terms in which the statements speak of commands and their replies.
-/

namespace Sys2Proof

/-- A step that neither faults nor is refused. -/
def Safe (s : Machine.State) : Prop := ∃ t, Machine.step s = .next t

namespace Machine

/-- A Spagil command is taken up by this device now, and no check of R315 refuses it. -/
def Passes (s : State) (c : Cmd) : Prop :=
  s.serving c.hdr = true ∧ s.mustWait c.hdr = false ∧ (c.hdr.src < 4 → s.otherTarget c.hdr = none) ∧
    s.failure c.hdr c.spec c.checks = none

/-- A Spagil command that passes and takes effect at once: it is neither staged nor run in phases (R320, R322). -/
def Applies (s : State) (c : Cmd) : Prop :=
  Passes s c ∧ (c.hdr.stage = true → c.spec.epoch = true) ∧ (c.hdr.drain = true → c.checks.phases = [])

/-- `t` is `u` but for command service, what has been sent and the packets that wait to leave: all that a reply changes
(R306, R313, R314). -/
def OnlyReplied (u t : State) : Prop :=
  t = { u with svc := t.svc, out := t.out, sw := { u.sw with originWait := t.sw.originWait } }

/-- A reply whose parameters have `n` bytes can be sent to the command's source as it stands (R312, R313). -/
def Answerable (s : State) (h : SpHdr) (n : Nat) : Prop :=
  (h.src < 4 → (s.ring h.src).enable = true) ∧ n ≤ s.replyLimit h

/-- The message has gone, or waits to go, to the command's source: in a reply ring, or in a SPAGIL packet on TC7 (R312-R314). -/
def Answered (t : State) (h : SpHdr) (m : SpMsg) : Prop :=
  if h.src < 4 then
    (∃ i w k, Out.rrEntry h.src i w k m ∈ t.out) ∨ m ∈ (t.ring h.src).held
  else
    ∃ on p, (on, p) ∈ t.sw.originWait ∧ p.ty = 0x08 ∧ p.tc = 7 ∧ p.devt = h.devsrc ∧
      p.dst = BitVec.ofNat 26 (h.src - 4) ∧ p.payload = msgBytes m

/-- The reply of a command that completed with status 0 and these parameters, each as its width and value (R305-R307). -/
def okReply (s : State) (h : SpHdr) (ps : List (Nat × Nat)) : SpMsg := { s.message h false 0 with params := ps }

/-- A whole packet `p` of `n` slots stands at the head of the landing FIFO of a virtual channel of an ACTIVE link, and its
header is not at fault (R69, R82, R90, R133). -/
def HeadPacket (s : State) (l vc n : Nat) (p : Packet) : Prop :=
  let slots := (look [] (s.link l).landing vc).flatten
  let h := parseHeader ((slots.take 2).flatten)
  (s.link l).st = .active ∧ 2 ≤ slots.length ∧ headerBad h.1 h.2 vc = false ∧ n = 2 + ceilDiv h.2 16 ∧ n ≤ slots.length ∧
    p = { h.1 with payload := ((slots.drop 2).flatten).take h.2 }

/-- A packet that a dimension link in ordinary service brings for this switch to send on: no DISCOVERY or TIME packet, and no
unreliable packet for a unit of this device (R101, R103, R107). -/
def Transit (s : State) (l d : Nat) (p : Packet) : Prop :=
  s.linkDim l = some d ∧ (s.dim d).miswired = false ∧ (s.dim d).held = false ∧
    s.samePartition s.own (s.partner s.own d) = true ∧ p.ty ≠ 0x09 ∧ p.ty ≠ 0x0A ∧
    (reliable p = false → p.devt = true → dstFna p ≠ s.own)

/-- The state in which the scheduler of a link chooses: every queue's tokens brought up to date (R151). -/
def Refilled (s : State) (l : Nat) : State := (List.range 8).foldl (fun s k => s.refillTokens (l * 8 + k)) s

/-- A contribution that its contract can take now: the contract is open, resident and not failed, the contribution is of it and
not of an older generation, its round is one of the two unsettled ones, its pour is not complete and holds no such contribution yet
(R170, R171). -/
def Takeable (s : State) (c : Contract) (x : ContribP) : Prop :=
  let o := State.pourOf c x.round.toNat x.pour.toNat
  let old := (c.gen + 256 - x.gen.toNat) % 256
  s.contract x.ckey.toNat = some c ∧ c.failed = false ∧ s.contribBad c x = false ∧
    (old = 0 ∨ 128 ≤ old) ∧ (x.round.toNat + 65536 - c.nextRound) % 65536 < 2 ∧ c.closing = false ∧
    c.vat ≠ none ∧ s.resident c = true ∧ o.done = false ∧ o.bitmap.getLsbD (contribBit x) = false

/-- The CP of context `c` of press `p` is about to execute word `w`, its fetch having met no error (R252, R256). -/
def CpAt (s : State) (p c w : Nat) : Prop :=
  s.issuing p = some c ∧ (s.pr p).cp.running = true ∧ (s.pr p).cp.wait = .none ∧ (s.pr p).cp.pipe.head? = some (w, 0) ∧
    w < 2 ^ 32

/-- The memories of the presses, and every press but `p`, are as they were. -/
def PressFrame (s t : State) (p : Nat) : Prop :=
  t.press.pad = s.press.pad ∧ t.press.imem = s.press.imem ∧ t.press.dmem = s.press.dmem ∧ t.press.gs = s.press.gs ∧
    ∀ q, q ≠ p → t.pr q = s.pr q

/-- A CP instruction has completed with this result (0: none): the register is written unless it is s0, and the program counter is
at the next instruction (R252). Streams, semaphores and contexts of the press are as they were. -/
def CpWrote (s t : State) (p rd : Nat) (v : BitVec 64) : Prop :=
  (t.pr p).cp.regs = ((s.pr p).cp.setReg rd v).regs ∧ (t.pr p).cp.pc = ((s.pr p).cp.pc + 4) % 2 ^ 32 ∧
    (t.pr p).cp.running = true ∧ (t.pr p).cp.wait = .none ∧ (t.pr p).streams = (s.pr p).streams ∧
    (t.pr p).ls = (s.pr p).ls ∧ (t.pr p).ctxs = (s.pr p).ctxs ∧ PressFrame s t p

/-- The CP has jumped, and its fetched instructions are those of the new place (R252, R256). -/
def CpJumped (s t : State) (p c pc : Nat) (k : Cp) : Prop :=
  (t.pr p).cp.regs = k.regs ∧ (t.pr p).cp.pc = pc ∧ (t.pr p).streams = (s.pr p).streams ∧ (t.pr p).ctxs = (s.pr p).ctxs ∧
    PressFrame s t p ∧ (t.pr p).cp.pipe.length = 3 ∧
    (s.press.imemErr = [] → pc + 4 ≤ 2 ^ 17 → State.within (s.ctx p c).lay.imemBase (s.ctx p c).lay.imemSize pc 4 = true →
      (t.pr p).cp.pipe.head? = some (leNat (readMem s.press.imem (p * 2 ^ 17 + pc) 4), 0))

/-- An instruction fault (R231, R260): the context is FAULTED with its cause, stream, program counter and address, and the press's
source is set. -/
def Faulted (s t : State) (p c who pc cause addr : Nat) : Prop :=
  (t.ctx p c).st = .faulted ∧ (t.ctx p c).cause = cause ∧ (t.ctx p c).fstream = who ∧ (t.ctx p c).fpc = pc ∧
    (t.ctx p c).faddr = addr ∧ look false t.faults.sticky (0x400 + p) = true ∧
    ∀ q, bit (s.ctx p c).set.toNat q = true → q < 64 → q ≠ p → (s.ctx q c).st = .running → (t.ctx q c).st = .stopped

/-- The source asserts without an effect outside the fault block and the event ring (R348). -/
def Mild (s : State) (i : Nat) : Prop := s.severity i ≤ 2

/-- Fetching instructions of press `p` contains nothing: no word of instruction memory has an error, or correcting one has no effect
outside the fault block and the event ring (R259, R348). -/
def FetchCalm (s : State) (p : Nat) : Prop := s.press.imemErr = [] ∨ Mild s (0x580 + p)

/-- An instruction stands at the head of an idle engine's queue: fetched well, of an opcode the engine accepts, its header in order
(R233, R234, R237). -/
def HeadAt (s : State) (p c e : Nat) (q : QMacro) : Prop :=
  s.issuing p = some c ∧ (s.streamOf p c e).st = .idle ∧ (s.streamOf p c e).queue.head? = some q ∧ q.cause = 0 ∧
    engineAccepts e (mOpc q.bytes) = true ∧ s.headerCheck p c e q.bytes = none

/-- … and its wait is over, or it has none (R233). -/
def HeadReady (s : State) (p c e : Nat) (q : QMacro) : Prop :=
  HeadAt s p c e q ∧ ((s.streamOf p c e).waited = true ∨ mWaitK q.bytes = 0)

/-- The instruction at the head of the engine's queue runs; the queue, the engine's status record and everything else that instructions
see of the presses, but memories and semaphores, are as they were. -/
def Runs (s t : State) (p c e : Nat) : Prop :=
  let k := s.streamOf p c e
  let j := t.streamOf p c e
  j.st = .busy ∧ j.queue = k.queue ∧ j.pc = k.pc ∧ j.flags = k.flags ∧ j.sat = k.sat ∧ j.inexact = k.inexact ∧ j.began = s.mono ∧
    (∀ i, i ≠ e → t.streamOf p c i = s.streamOf p c i) ∧ (t.pr p).cp = (s.pr p).cp ∧ (t.pr p).ctxs = (s.pr p).ctxs ∧
    (∀ q, q ≠ p → t.pr q = s.pr q) ∧ t.press.imem = s.press.imem ∧ t.press.dmem = s.press.dmem

/-- `n` bytes at a press address lie in the pad, aligned, and in the context's pad partition (R214, R215, R237). -/
def PadFits (s : State) (p c a n : Nat) : Prop :=
  a % 32 = 0 ∧ a + n ≤ 2 ^ 21 ∧ State.within (s.ctx p c).lay.padBase (s.ctx p c).lay.padSize a n = true

/-- The pads after the iterations of a vector instruction, each reading what the ones before it have left (R236, R245). -/
def vectorPads (s : State) (p c : Nat) (b : List Byte) (srcs : List Byte → List (Nat × Nat))
    (comp : List Byte → Nat → List (List Byte) → VRes) : Tab Byte :=
  let k := s.streamOf p c 1
  (List.range (mCount b)).foldl (fun m j =>
    writeMem m (p * 2 ^ 21 + effAddr k b (vD b) j)
      (comp b j ((srcs b).map fun r => readMem m (p * 2 ^ 21 + effAddr k b r.1 j) r.2)).bytes) s.press.pad

/-- No instruction in progress on another stream of the press has written a pad, so that what is read there is settled (R206). -/
def Settled (s : State) (p c e : Nat) : Prop := s.unorderedWrites p c e = []

/-- A vector row runs as R245 says: when its instruction is legal and its vectors fit, every iteration writes the result computed from
what it reads. -/
def VectorRuns (p : Fin 64) (op : Nat) (i : Instr) (legal : List Byte → Bool) (dlen : List Byte → Nat)
    (srcs : List Byte → List (Nat × Nat)) (comp : List Byte → Nat → List (List Byte) → VRes) : Prop :=
  ∀ (c : Nat) (q : QMacro) (s : State), HeadReady s p.val c 1 q → mOpc q.bytes = op → vCheck legal q.bytes = none →
    s.press.padErr = [] → look 0 s.faults.injLeft (State.injKey 0x44 p.val) = 0 → Settled s p.val c 1 → Mild s 0x4F1 →
    (∀ j < mCount q.bytes,
      (∀ r ∈ srcs q.bytes, PadFits s p.val c (effAddr (s.streamOf p.val c 1) q.bytes r.1 j) r.2) ∧
        PadFits s p.val c (effAddr (s.streamOf p.val c 1) q.bytes (vD q.bytes) j) (dlen q.bytes)) →
    ∃ t : State, exec i s = .next t ∧ Runs s t p.val c 1 ∧ t.press.pad = vectorPads s p.val c q.bytes srcs comp

/-- The accumulators of one pass of a TMM over the pads `m`: its tiles in turn against its rows (R49-R55, R243). -/
def tmmSums (m : Tab Byte) (p : Nat) (k : Stream) (b : List Byte) (pass : Nat) : PassAcc :=
  let t := tmmOf b
  let sh := (tileShape t.fmt t.shape).getD (0, 1)
  let len := packedLen t.fmt sh.1
  let first := pass * mLoop b 0
  let pad := fun (a n : Nat) => readMem m (p * 2 ^ 21 + a) n
  let scales := fun (reg : Option Nat) (n : Nat) => match reg with
    | none => List.replicate n (0 : Int)
    | some r => (List.range n).map fun i => signed 16 (mField (pad (effAddr k b r first true) (2 * n)) (2 * i) 2)
  (List.range (mLoop b 0)).foldl (fun a i =>
    let j := first + i
    let w := effAddr k b t.w j
    let tile := if w < 2 ^ 32 then pad w 32768 else readMem k.tiles (j * 32768) 32768
    let rows := (List.range t.rows).map fun r =>
      (unpackElems t.fmt (pad ((effAddr k b t.x j + r * (if t.xpitch = 0 then len else t.xpitch * 32)) % 2 ^ 40) len) sh.1).map
        (decodeVal t.fmt)
    tileStep (if t.fixed then some t.anchor else none) t.wide (rows.zip (scales t.sr t.rows))
      ((tileColumns t.fmt sh.1 sh.2 tile).zip (scales t.cr sh.2)) a) { accs := List.replicate (t.rows * sh.2) {} }

/-- The rows that a pass of a TMM writes in an LG or IEEE format (R56, R243). -/
def tmmRows (b : List Byte) (a : PassAcc) : List (List Byte) :=
  let t := tmmOf b
  let n := ((tileShape t.fmt t.shape).map Prod.snd).getD 1
  (List.range t.rows).map fun r => packElems t.ofmt (((a.accs.map fun x =>
    (accConvert t.ofmt { x with fl := x.fl % 64 } (a.anchor.getD 0 - 47) t.trunc).1).drop (r * n)).take n)

/-- The pads after one pass of a TMM. -/
def tmmPads (p : Nat) (k : Stream) (b : List Byte) (m : Tab Byte) (pass : Nat) : Tab Byte :=
  ((passRegions k b pass).zip (tmmRows b (tmmSums m p k b pass))).foldl (fun m e => writeMem m (p * 2 ^ 21 + e.1.1) e.2) m

/-- Everything a TMM touches in the pad fits; its weight tiles are in the pad, or have been read by draws (R214, R243). -/
def TmmFits (s : State) (p c : Nat) (b : List Byte) : Prop :=
  let k := s.streamOf p c 0
  let t := tmmOf b
  let sh := (tileShape t.fmt t.shape).getD (0, 1)
  let len := packedLen t.fmt sh.1
  (∀ j < mCount b, (effAddr k b t.w j < 2 ^ 32 → PadFits s p c (effAddr k b t.w j) 32768) ∧
    ∀ r < t.rows, PadFits s p c ((effAddr k b t.x j + r * (if t.xpitch = 0 then len else t.xpitch * 32)) % 2 ^ 40) len) ∧
  ∀ i < passes b, (∀ r ∈ passRegions k b i, PadFits s p c r.1 r.2) ∧
    (∀ r, t.sr = some r → PadFits s p c (effAddr k b r (i * mLoop b 0) true) (2 * t.rows)) ∧
    ∀ r, t.cr = some r → PadFits s p c (effAddr k b r (i * mLoop b 0) true) (2 * sh.2)

/-- The instruction in progress on an engine has nothing left to wait for, its signal fits, and neither its context nor its launch ends
with it (R208, R209, R229, R230). -/
def Ending (s : State) (p c e : Nat) (q : QMacro) : Prop :=
  s.working p = some c ∧ (s.streamOf p c e).st = .busy ∧ (s.streamOf p c e).draws = 0 ∧
    (s.streamOf p c e).queue.head? = some q ∧ (mSigK q.bytes = 0 ∨
      s.semCount (mSigG q.bytes) p (mSigSem q.bytes) + mSigK q.bytes ≤ State.semMax (mSigG q.bytes)) ∧
    (s.cpOf p c).halted = false ∧ (s.ctx p c).stopFor = none

/-! ### The commands that may change a part of the device, when no source is set to contain or to quiesce -/

/-- Commands that may change the fuses, the identity and the control records. -/
def writesIdent : Instr → Bool
  | .devReset .. | .devResetControlComplex .. | .devResetUnit .. | .fwActivate .. | .lcTransition .. | .gradePin ..
  | .admitCheckDryRun .. | .phaseEnd .. | .faultStickyClear .. | .faultForceWrite .. | .faultSevWrite .. | .comparatorRearm ..
  | .registerWrite .. | .junctionSample .. | .comparatorChange .. | .comparatorPowerOn .. | .inputChatter ..
  | .inputStuckTimeout .. | .wake .. | .sysReset .. | .boot .. | .imageCopyDone .. | .protectionViolation ..
  | .profileDomainsOff .. | .jtagKeyHashWrite .. | .spagilReplyReceive .. => true
  | _ => false

/-- Commands that may change fabric time. -/
def writesTime : Instr → Bool
  | .devReset .. | .devResetControlComplex .. | .devResetUnit .. | .linkConfig .. | .fabDiscover .. | .fabDiscoverExpert ..
  | .pwrProfileExpert .. | .timeSetStep ..
  | .timeSetSlew .. | .timeAlarmSet .. | .timeAlarmCancel .. | .admitCheckDryRun .. | .phaseEnd .. | .faultStickyClear ..
  | .faultForceWrite .. | .faultSevWrite .. | .comparatorRearm .. | .reg64LowRead .. | .registerWrite ..
  | .sequencedFlitReceive .. | .badFlitReceive .. | .nullFlitReceive .. | .retryReqReceive .. | .idleEntryReceive ..
  | .trainingFlitReceive .. | .flitSend .. | .retryTimerExpiry .. | .bringupTimeout .. | .lossOfSignal .. | .fomSample ..
  | .helloReceive .. | .helloTimeout .. | .bundleDown .. | .electQuiet .. | .coordReceive .. | .holeReceive .. | .unitReset ..
  | .junctionSample .. | .comparatorChange .. | .comparatorPowerOn .. | .inputChatter .. | .inputStuckTimeout .. | .alarmFire ..
  | .rackClkLoss .. | .rackPpsPulse .. | .timeExchangeReceive .. | .timeStepReceive .. | .sysReset .. | .protectionViolation ..
  | .harvestInterval .. | .rackClkReturn .. | .rackClkEdge .. | .profileDomainsOff .. | .spagilReplyReceive .. => true
  | _ => false

/-- Commands that may change the power domains, rails and vintages. -/
def writesPwr : Instr → Bool
  | .devReset .. | .devResetControlComplex .. | .devResetUnit .. | .devProfile .. | .linkIdle .. | .qosProfile .. | .qosQueue ..
  | .qosShaper .. | .celArb .. | .pwrProfile .. | .pwrProfileExpert .. | .pwrCap .. | .fwActivate .. | .gradePin .. | .admitCheckDryRun ..
  | .phaseEnd .. | .stagedApply .. | .faultStickyClear .. | .faultForceWrite .. | .faultSevWrite .. | .comparatorRearm ..
  | .registerWrite .. | .admissionRerun .. | .canarySample .. | .stressAccrue .. | .vintagePlan .. | .vintageAdopt ..
  | .dropoutSet .. | .dropoutPersist .. | .dropoutClear .. | .voltageLoopTick .. | .railRampStep .. | .pmbusStatusPoll ..
  | .powerSample .. | .junctionSample .. | .comparatorChange .. | .comparatorPowerOn .. | .inputChatter ..
  | .inputStuckTimeout .. | .wake .. | .sysReset .. | .boot .. | .protectionViolation .. | .domainTransitionDone ..
  | .profileDomainsOff .. | .spagilReplyReceive .. => true
  | _ => false

/-- Commands that may change the firmware images. -/
def writesFw : Instr → Bool
  | .devReset .. | .devResetControlComplex .. | .devResetUnit .. | .fwBlock .. | .fwVerify .. | .fwActivate ..
  | .admitCheckDryRun .. | .phaseEnd .. | .faultStickyClear .. | .faultForceWrite .. | .faultSevWrite .. | .comparatorRearm ..
  | .registerWrite .. | .unitReset .. | .junctionSample .. | .comparatorChange .. | .comparatorPowerOn .. | .inputChatter ..
  | .inputStuckTimeout .. | .wake .. | .sysReset .. | .boot .. | .imageCopyDone .. | .protectionViolation ..
  | .profileDomainsOff .. | .spagilReplyReceive .. => true
  | _ => false

/-- Commands that may change the vats and their contracts. -/
def writesVats : Instr → Bool
  | .devReset .. | .devResetControlComplex .. | .devResetUnit .. | .devProfile .. | .celPlan .. | .celPlanExpert .. | .collOpen ..
  | .collOpenExpert .. | .collClose .. | .admissionRetry .. | .packetHeaderArrive .. | .packetChannelGrant .. | .edgeAckReceive ..
  | .mirrorConfirm .. | .admitCheckDryRun .. | .phaseEnd .. | .faultStickyClear .. | .faultForceWrite .. | .faultSevWrite ..
  | .comparatorRearm .. | .registerWrite .. | .egressSelect .. | .pbScrub .. | .helloReceive .. | .helloTimeout .. | .bundleDown .. | .electQuiet ..
  | .coordReceive .. | .holeReceive .. | .contribReceive .. | .pendingContribRetry .. | .pendingContribAgeing ..
  | .pourCombineDone .. | .vatSchedule .. | .decantDone .. | .refillDone .. | .tapWrite .. | .tapStallTimer .. | .roundSettle ..
  | .vatScrub .. | .rpour .. | .rpourAccept .. | .staveWatchdog .. | .unitReset .. | .junctionSample .. | .comparatorChange ..
  | .comparatorPowerOn .. | .inputChatter .. | .inputStuckTimeout .. | .wake .. | .sysReset .. | .boot ..
  | .protectionViolation .. | .harvestInterval .. | .domainTransitionDone .. | .profileDomainsOff .. | .spagilReplyReceive .. => true
  | _ => false

/-- Commands that may change the sync counters. -/
def writesSync : Instr → Bool
  | .devReset .. | .devResetControlComplex .. | .devResetUnit .. | .collOpen .. | .collOpenExpert .. | .collClose ..
  | .syncOpen .. | .syncUnbind .. | .admitCheckDryRun .. | .phaseEnd .. | .faultStickyClear .. | .faultForceWrite ..
  | .faultSevWrite .. | .comparatorRearm .. | .registerWrite .. | .helloReceive .. | .helloTimeout .. | .bundleDown ..
  | .electQuiet .. | .coordReceive .. | .holeReceive .. | .pourCombineDone .. | .syncSlotReceive .. | .syncc ..
  | .syncResultWrite .. | .roundSettle .. | .unitReset .. | .junctionSample .. | .comparatorChange .. | .comparatorPowerOn .. | .inputChatter ..
  | .inputStuckTimeout .. | .wake .. | .sysReset .. | .boot .. | .protectionViolation .. | .domainTransitionDone ..
  | .profileDomainsOff .. | .spagilReplyReceive .. => true
  | _ => false

/-- Commands that may change INDEX of the SMBus target. -/
def writesSmbIndex : Instr → Bool
  | .devReset .. | .devResetControlComplex .. | .devResetUnit .. | .admitCheckDryRun .. | .phaseEnd .. | .faultStickyClear ..
  | .faultForceWrite .. | .faultSevWrite .. | .comparatorRearm .. | .registerWrite .. | .smbIndexWrite .. | .smbFaultWord ..
  | .junctionSample .. | .comparatorChange .. | .comparatorPowerOn .. | .inputChatter .. | .inputStuckTimeout .. | .sysReset ..
  | .protectionViolation .. | .profileDomainsOff .. | .spagilReplyReceive .. => true
  | _ => false

/-- The byte memories of the device are in canonical form: press pads, instruction and data memories, the cellar, the staging slot. -/
def MemoriesCanonical (s : State) : Prop :=
  Memory.wf s.press.pad = true ∧ Memory.wf s.press.imem = true ∧ Memory.wf s.press.dmem = true ∧ Memory.wf s.cel.mem = true ∧
    Memory.wf s.fw.staging = true

end Machine

end Sys2Proof
end

