-- ==== Sys2Proof/Certificates/Slice0/Obligations.lean ====
section
/-!
DEFINITION. The statements for the provers, in the order of the spec's chapters.
-/

open Sys2Proof Sys2Proof.Machine

/-- A step takes the command at the front of the queue and answers what `exec` answers for it on the rest. One queue with one
sender is the model's choice (log 2). On an empty queue the block idles, but for one period of D0's own oscillator at the last
INCR while RACK_CLK is lost (R388; that it is the step on an empty queue is the model's choice, log 2). The spec gives every command
an effect: none ends in a fault or a refusal. An event whose condition does not hold leaves the state as it is (the model's
choice, log 3). -/
def Obligations.StepRunsTheFrontCommand : Prop :=
  (∀ (c : Instr) (rest : List Instr) (s : State), step { s with pending := c :: rest } = exec c { s with pending := rest }) ∧
  (∀ s : State, s.pending = [] → s.time.clkLost = false → step s = .next s) ∧
  (∀ s : State, s.pending = [] → s.time.clkLost = true → s.time.slewLeft = 0 →
    step s = .next { s with time := { s.time with now := (s.time.now + s.time.incr) % 2 ^ 104 } }) ∧
  (∀ (i : Instr) (s : State), ∃ t, exec i s = .next t)

/-- A command that passes every check and takes effect at once leaves its effect; when the effect needs nothing else to complete,
it gets exactly the reply that R305-R307 describe: OPCODE, TAG, LAYER_ID and OPERATOR_ID are its own, the status is 0, and the
parameters are the effect's. -/
def Obligations.AppliedCommandsAreAnswered : Prop :=
  ∀ (i : Instr) (c : Cmd) (s : State), cmdOf s i = some c → Applies s c →
    ((c.eff s).wait = true → exec i s = .next (c.eff s).st) ∧
    ((c.eff s).wait = false → (c.eff s).status = 0 →
      ∃ t, exec i s = .next t ∧ OnlyReplied (c.eff s).st t ∧
        (Answerable (c.eff s).st c.hdr (plenOf ((c.eff s).params.map Prod.fst)) →
          Answered t c.hdr { (c.eff s).st.message c.hdr false 0 with
            params := (c.eff s).params, gid := (c.eff s).gid, detail := (c.eff s).detail }))

/-- A command that a check of R315 refuses has no effect but its reply, which carries the first failure found: for every status
but those of form and authority, which also set a fault source. The refusals of form set FS 0x6A0 and those of authority FS 0x6A1
(R328). Form is checked first (R315): a command whose header is in order and whose length is wrong is refused with 0x0103,
whatever else is wrong. DETAIL of a fault in the header itself is the model's choice (log 12). -/
def Obligations.RefusedCommandsOnlyReply : Prop :=
  (∀ (i : Instr) (c : Cmd) (f : Fail) (s : State), cmdOf s i = some c →
    s.serving c.hdr = true → s.mustWait c.hdr = false → (c.hdr.src < 4 → s.otherTarget c.hdr = none) →
    s.failure c.hdr c.spec c.checks = some f → f.status < 65536 → f.status / 256 ≠ 1 → f.status / 256 ≠ 4 →
    ∃ t, exec i s = .next t ∧ OnlyReplied s t ∧
      (Answerable s c.hdr 0 →
        Answered t c.hdr { s.message c.hdr false f.status with detail := f.detail, retryAfter := f.retry })) ∧
  (∀ (i : Instr) (c : Cmd) (f : Fail) (s : State), cmdOf s i = some c →
    s.serving c.hdr = true → s.mustWait c.hdr = false → (c.hdr.src < 4 → s.otherTarget c.hdr = none) →
    s.failure c.hdr c.spec c.checks = some f → f.status < 65536 →
    ∃ t, exec i s = .next t ∧
      (f.status / 256 = 1 → s.severity 0x6A0 < 3 → look false t.faults.sticky 0x6A0 = true) ∧
      (f.status / 256 = 4 → s.severity 0x6A1 < 3 → look false t.faults.sticky 0x6A1 = true)) ∧
  (∀ (i : Instr) (c : Cmd) (s : State), cmdOf s i = some c →
    State.hdrCheck c.hdr = none → c.hdr.opcode.toNat = c.spec.op →
    c.hdr.plen.toNat ≠ c.spec.plen.getD (plenOf c.spec.widths) →
    ∃ d, s.failure c.hdr c.spec c.checks = some { status := 0x0103, detail := d })

/-- A staged command (R320): with a TIME from 10 us to 10 s ahead and room in the list it is entered in TIME order with the record
that admission gave it; nothing else changes but command service. At its TIME a staged command does what it would do at once, with
the guarantee that staging gave it (R320); a QOS_PROFILE that by then would change the buffer's division leaves the division as it
is (R138; the model's choice, log 132). STAGED_APPLY: the first entry alone is due, leaves the list and takes effect (R320). -/
def Obligations.StagedCommandsWaitForTheirTime : Prop :=
  (∀ (i : Instr) (c : Cmd) (s : State), cmdOf s i = some c → Passes s c → c.hdr.stage = true → c.spec.epoch = false →
    (c.claim s).status = 0 → s.ns + 10000 ≤ c.hdr.time.toNat → c.hdr.time.toNat ≤ s.ns + 10 ^ 10 → s.svc.staged.length < 256 →
    ∃ t, exec i s = .next t ∧ OnlyReplied (c.claim s).st t ∧
      t.svc.staged = State.stageInsert { time := c.hdr.time.toNat, hdr := c.hdr, instr := i, gid := (c.claim s).gid }
        (c.claim s).st.svc.staged) ∧
  (∀ (i : Instr) (c : Cmd) (s : State), cmdOf s i = some c → c.spec.stage = true → c.spec.epoch = false →
    ((∃ h p, i = .qosProfile h p) → (c.eff s).st.sw.pools = s.sw.pools) →
    ((c.claim s).st).stagedEffect i (c.claim s).gid = (c.eff s).st) ∧
  (∀ (h : SpHdr) (p : QosProfileP) (g : Nat) (s : State), (s.effQosProfile p).sw.pools ≠ s.sw.pools →
    (s.stagedEffect (.qosProfile h p) g).sw.pools = s.sw.pools ∧
      (s.stagedEffect (.qosProfile h p) g).sw.proportion = s.sw.proportion) ∧
  (∀ (e : Staged) (es : List Staged) (s : State), s.svc.staged = e :: es → e.time ≤ s.ns →
    (∀ x ∈ es, s.ns < x.time) →
    exec .stagedApply s = .next (({ s with svc := { s.svc with staged := es } } : State).stagedEffect e.instr e.gid))

/-- A command run in phases is answered with status 1 and the number of its phases, and becomes the device's phased command (R322,
R323). PHASE_END: the last phase makes the change live, a phase that cannot complete leaves what `undo` restores, and each end is
announced by an event with the number of the phase (R322). Replies of other devices (R162, R310, R317): the reply to a relayed
command goes to the ring that carried it; the last reply of the devices that a command was forwarded to completes it; a refusal
ends it with that device's status and FNA, and a COLL_OPEN that any device refuses is closed here and on the devices that opened it
once all have answered. -/
def Obligations.PhasesAndOtherDevicesCompleteCommands : Prop :=
  (∀ (i : Instr) (c : Cmd) (s : State), cmdOf s i = some c → Passes s c → (c.hdr.stage = true → c.spec.epoch = true) →
    c.hdr.drain = true → c.checks.phases ≠ [] →
    ∃ u t, exec i s = .next t ∧ t = c.start 0 u ∧
      u.svc.phased = some { hdr := c.hdr, instr := i, phase := 0, bounds := c.checks.phases } ∧
      (Answerable s c.hdr 0 → Answered u c.hdr { s.message c.hdr false 1 with phases := c.checks.phases.length })) ∧
  (∀ (x : Phased) (c : Cmd) (s : State), s.svc.phased = some x → cmdOf s x.instr = some c →
    (c.ready x.phase s = true → x.phase + 1 = x.bounds.length →
      ∃ u, exec (.phaseEnd 0) s = .next ((c.eff (c.undo u)).st.setPhased none) ∧ OnlyReplied s u ∧
        (Answerable s x.hdr 0 → Answered u x.hdr
          { s.message x.hdr true 0 with phase := x.phase + 1, phases := x.bounds.length })) ∧
    (c.ready x.phase s = true → x.phase + 1 < x.bounds.length →
      ∃ u, exec (.phaseEnd 0) s = .next (c.start (x.phase + 1) (u.setPhased (some { x with phase := x.phase + 1 }))) ∧
        OnlyReplied s u) ∧
    (∀ status : BitVec 16, status ≠ 0 →
      ∃ u, exec (.phaseEnd status) s = .next ((c.undo u).setPhased none) ∧ OnlyReplied s u ∧
        (Answerable s x.hdr 0 → Answered u x.hdr
          { s.message x.hdr true status.toNat with phase := x.phase + 1, phases := x.bounds.length }))) ∧
  (∀ (w : Waiting) (m : SpMsg) (s : State), s.svc.waiting = [w] → w.hdr.tag = m.tag → w.hdr.opcode = m.opcode → m.event = false →
    let h := w.hdr
    (w.relay = true → State.moreComes h m = false → plenOf (m.params.map Prod.fst) ≤ s.replyLimit h →
      ∃ t : State, exec (.spagilReplyReceive m) s = .next t ∧ OnlyReplied s t ∧ t.svc.waiting = [] ∧
        (Answerable s h (plenOf (m.params.map Prod.fst)) → Answered t h m)) ∧
    (w.relay = false → s.svc.phased = none → m.status = 0 → h.opcode ≠ 0x0304 → h.opcode ≠ 0x0306 → h.opcode ≠ 0x0503 →
      (w.left = 1 → w.refusal = none → h.opcode ≠ 0x0502 →
        ∃ t : State, exec (.spagilReplyReceive m) s = .next t ∧ OnlyReplied s t ∧ t.svc.waiting = [] ∧
        (Answerable s h (plenOf (w.params.map Prod.fst)) →
          Answered t h { okReply s h w.params with gid := w.gid, detail := w.detail })) ∧
      (w.left = 1 → w.refusal = none → h.opcode = 0x0502 →
        ∃ t : State, exec (.spagilReplyReceive m) s = .next t ∧ t.contract w.key = none) ∧
      (1 < w.left → exec (.spagilReplyReceive m) s =
        .next { s with svc := { s.svc with waiting := [{ w with left := w.left - 1, oks := w.oks ++ m.fna.toList }] } })) ∧
    (w.relay = false → s.svc.phased = none → 1 < m.status.toNat → h.opcode = 0x0501 ∨ h.opcode = 0x0581 →
      w.refusal = none →
      (1 < w.left → exec (.spagilReplyReceive m) s =
        .next { s with svc := { s.svc with waiting := [{ w with left := w.left - 1, refusal := some m }] } }) ∧
      (w.left = 1 → ∃ t : State, exec (.spagilReplyReceive m) s = .next t ∧ t.contract w.key = none ∧
        ∀ f ∈ w.oks, ∃ g : SpHdr, g.opcode = 0x0502 ∧ Out.forward f g [(32, w.key)] ∈ t.out)) ∧
    (w.relay = false → s.svc.phased = none → 1 < m.status.toNat → m.status.toNat / 256 ≠ 1 → m.status.toNat / 256 ≠ 4 →
      h.opcode ≠ 0x0501 → h.opcode ≠ 0x0581 → h.opcode ≠ 0x0502 →
      ∃ t : State, exec (.spagilReplyReceive m) s = .next t ∧ OnlyReplied s t ∧ t.svc.waiting = [] ∧
        (Answerable s h 0 → Answered t h { s.message h false m.status.toNat with
          fna := m.fna, detail := m.detail, retryAfter := m.retryAfter })))

/-- The ring doorbells and RING_CTRL while PCIe is up: CR_TAIL within the ring, RR_HEAD up to what has been written, and a RESET,
which acts before ENABLE (R336, R337). Nothing else of the device changes. Taking a command: the ring's CR_HEAD advances and the
command counts as outstanding, with an entry reserved for its reply, and the next ring has its turn (R311); an in-band command
counts for its source (R313, R314). Only command service changes. An event held for a full reply ring is written when an entry is
free (R313); the entry carries CR_HEAD and the WRAP bit of the present pass (R312). -/
def Obligations.RingsTakeCommandsAndAnswer : Prop :=
  ((∀ (r : Fin 4) (v : BitVec 32) (s : State), s.pcieUp = true → v.toNat % 4096 < 2 ^ (s.ring r.val).sizeK →
    exec (.crTailWrite r v) s = .next (s.setRing r.val { s.ring r.val with crTail := v.toNat % 4096 })) ∧
  (∀ (r : Fin 4) (v : BitVec 32) (s : State), s.pcieUp = true →
    let g := s.ring r.val
    let n := 2 ^ g.sizeK
    v.toNat % 4096 < n → (v.toNat % 4096 + n - g.rrHead) % n ≤ (g.rrProd + n - g.rrHead) % n →
    exec (.rrHeadWrite r v) s = .next (s.setRing r.val { g with rrHead := v.toNat % 4096 })) ∧
  (∀ (r : Fin 4) (v : BitVec 32) (s : State), s.pcieUp = true → v.getLsbD 31 = true →
    ∃ g, exec (.ringReset r v) s = .next (s.setRing r.val g) ∧
      g.crHead = 0 ∧ g.crTail = 0 ∧ g.rrHead = 0 ∧ g.rrProd = 0 ∧ g.wrap = true ∧ g.stopped = false ∧ g.held = [] ∧
      g.enable = v.getLsbD 0 ∧ g.crBase = (s.ring r.val).crBase ∧ g.rrBase = (s.ring r.val).rrBase)) ∧
  ((∀ (r : Fin 4) (e : CrEntry) (s : State), s.serves = some r.val → e.readOk = true →
    State.hdrCheck { e.hdr with src := r.val } = none → entryCheck e = none →
    ∃ t, exec (.crEntryTake r e) s = .next t ∧ t = { s with svc := t.svc } ∧
      (t.ring r.val).crHead = ((s.ring r.val).crHead + 1) % 2 ^ (s.ring r.val).sizeK ∧ t.svc.turn = (r.val + 1) % 4 ∧
      (t.ring r.val).outstanding = (s.ring r.val).outstanding + 1 ∧
      (t.ring r.val).reserved = (s.ring r.val).reserved + 1 ∧
      ∃ n, t.svc.taken = s.svc.taken ++ [{ src := r.val, tag := e.hdr.tag, opcode := e.hdr.opcode, limit := n }] ∧ 184 ≤ n) ∧
  (∀ (h : SpHdr) (s : State), s.ctl.fwReady = true → s.ctl.cmdPaused = false → 4 ≤ h.src → State.hdrCheck h = none →
    h.plen.toNat ≤ 16288 → (s.source h.src).outstanding < 16 →
    ∃ t, exec (.spagilInbandReceive h) s = .next t ∧ t = { s with svc := t.svc } ∧
      (t.source h.src).outstanding = (s.source h.src).outstanding + 1 ∧
      t.svc.taken = s.svc.taken ++ [{ src := h.src, tag := h.tag, opcode := h.opcode, limit := 16288 }])) ∧
  (∀ (r : Fin 4) (m : SpMsg) (ms : List SpMsg) (s : State), (s.ring r.val).enable = true → (s.ring r.val).held = m :: ms →
    0 < State.rrFree (s.ring r.val) →
    ∃ t, exec (.rrEventFlush r) s = .next t ∧ OnlyReplied s t ∧ (t.ring r.val).held.length ≤ ms.length ∧
      .rrEntry r.val (s.ring r.val).rrProd (s.ring r.val).wrap (s.ring r.val).crHead m ∈ t.out)

/-- Writing 1 to sticky bits whose cause is gone clears them and no other bit; one whose cause holds is set again (R338, R354). A
write of FAULT_FORCE gives the force bits of the word's sources their values; a source forced anew has its sticky bit set.
Reserved sources ignore the write (R339, R355). That nothing else changes is said where every source of the word has a severity
whose assertion fences nothing. A severity register gives each of its four sources the value written, 0 to 5; reserved values and
reserved sources keep what they had (R338, R339). -/
def Obligations.FaultRegistersTakeTheirWrites : Prop :=
  (∀ (word : Fin 64) (v : BitVec 32) (s : State), s.pcieUp = true →
    (∀ k < 32, v.getLsbD k = true → look false s.faults.force (32 * word.val + k) = false ∧
      look false s.faults.level (32 * word.val + k) = false) →
    ∃ t, exec (.faultStickyClear word v) s = .next t ∧ t = { s with faults := t.faults, aon := t.aon } ∧
      (∀ k < 32, v.getLsbD k = true → look false t.faults.sticky (32 * word.val + k) = false) ∧
      (∀ j, (∀ k < 32, v.getLsbD k = true → j ≠ 32 * word.val + k) →
        look false t.faults.sticky j = look false s.faults.sticky j)) ∧
  (∀ (word : Fin 64) (v : BitVec 32) (s : State), s.pcieUp = true →
    ∃ t, exec (.faultStickyClear word v) s = .next t ∧
      ∀ k < 32, v.getLsbD k = true → faultDefault (32 * word.val + k) ≠ none →
        look false s.faults.sticky (32 * word.val + k) = true →
        look false s.faults.force (32 * word.val + k) = true ∨
          (look false s.faults.level (32 * word.val + k) = true ∧ 32 * word.val + k ≠ 0x784) →
        look false t.faults.sticky (32 * word.val + k) = true) ∧
  (∀ (word : Fin 64) (v : BitVec 32) (s : State), s.pcieUp = true →
    ∃ t, exec (.faultForceWrite word v) s = .next t ∧
      ∀ k < 32, faultDefault (32 * word.val + k) ≠ none →
        look false t.faults.force (32 * word.val + k) = v.getLsbD k ∧
        (v.getLsbD k = true → look false s.faults.force (32 * word.val + k) = false →
          look false t.faults.sticky (32 * word.val + k) = true)) ∧
  (∀ (word : Fin 64) (v : BitVec 32) (s : State), s.pcieUp = true →
    ∃ t, exec (.faultForceWrite word v) s = .next t ∧
      ((∀ k < 32, Mild s (32 * word.val + k)) →
        t = { s with faults := t.faults, tele := { s.tele with events := t.tele.events }, out := t.out }) ∧
      ∀ k < 32, faultDefault (32 * word.val + k) ≠ none →
        look false t.faults.force (32 * word.val + k) = v.getLsbD k ∧
        (v.getLsbD k = true → look false s.faults.force (32 * word.val + k) = false →
          look false t.faults.sticky (32 * word.val + k) = true)) ∧
  (∀ (reg : Fin 512) (v : BitVec 32) (s : State), s.pcieUp = true →
    ∃ t, exec (.faultSevWrite reg v) s = .next t ∧ t = { s with faults := { s.faults with sev := t.faults.sev } } ∧
      ∀ m < 4, t.severity (4 * reg.val + m) =
        if faultDefault (4 * reg.val + m) = none ∨ 5 < v.toNat / 256 ^ m % 8 then s.severity (4 * reg.val + m)
        else v.toNat / 256 ^ m % 8)

/-- R353: a severity write and FAULT_CFG change severities and nothing else; a source whose sticky bit is set takes no action when
it asserts again; one whose bit is clear acts under the severity then in force. -/
def Obligations.SeverityActsAtTheNextAssertion : Prop :=
  (∀ (reg : Fin 512) (v : BitVec 32) (s : State), s.pcieUp = true →
    ∃ t : State, exec (.faultSevWrite reg v) s = .next t ∧ t = { s with faults := { s.faults with sev := t.faults.sev } }) ∧
  (∀ (h : SpHdr) (a n : BitVec 16) (v : List (BitVec 8)) (s : State), Applies s (cmdFaultCfg h a n v s) →
    ∃ t : State, exec (.faultCfg h a n v) s = .next t ∧ OnlyReplied { s with faults := { s.faults with sev := t.faults.sev } } t) ∧
  (∀ (i : Nat) (u : FUnit) (s : State), look false s.faults.sticky i = true → s.assertIn i u = s) ∧
  (∀ (i : Nat) (u : FUnit) (s : State), faultDefault i ≠ none → look false s.faults.sticky i = false → u ≠ .none →
    look false (s.assertIn i u).faults.sticky i = true ∧
    (s.severity i ≤ 2 → (s.assertIn i u).faults.contained = s.faults.contained ∧
      (s.assertIn i u).faults.resetDue = s.faults.resetDue) ∧
    (s.severity i = 3 → (i, u) ∈ (s.assertIn i u).faults.contained) ∧
    (s.severity i = 4 → s.recentResets u < 2 → (i, u) ∈ (s.assertIn i u).faults.resetDue))

/-- FAULT_INJECT with GO starts an injection of COUNT words in a group that has none (R338, R356); a watermark's record takes
EVENT, ARM and CROSSINGS (R159, R160); TRACE_CTL takes CORE_EN and STOP_ON_FAULT (R341, R421); a chattering THERM_IN or WAKE_N
comparator is armed again (R340, R432). A 4-byte read of the low half of a 64-bit register returns it and latches the high half,
which the next read of the high half returns; FTIME also latches FTIME_FRAC (R330, R340). Writes by REGISTER_WRITE: SCRATCH holds
what is written; a 64-bit ring base takes effect whole, by one 8-byte write or when its high half is written after its low half,
and only while the ring is disabled (R330, R331, R335, R336). Any access of another size or alignment completes with Unsupported
Request, is counted for AER and changes nothing else (R329). The SMBus target answers each read with its value, least significant
byte first, and INDEX steps through the fault words (R436). -/
def Obligations.RegistersAnswerTheirAccesses : Prop :=
  ((∀ (v : BitVec 32) (s : State), s.pcieUp = true → v.getLsbD 31 = true → v.toNat % 128 ≤ 0x46 →
    s.injRunning (v.toNat % 128) = false → v.toNat / 256 % 65536 ≠ 0 →
    ∃ t, exec (.faultInjectGo v) s = .next t ∧
      t = { s with faults := t.faults, tele := { s.tele with events := t.tele.events }, out := t.out } ∧
      look 0 t.faults.injCount (v.toNat % 128) = v.toNat / 256 % 65536 ∧
      look false t.faults.injDouble (v.toNat % 128) = v.getLsbD 7 ∧ t.faults.injectReg.toNat = v.toNat % 2 ^ 24) ∧
  (∀ (n : Fin 2121) (v : BitVec 32) (s : State), s.pcieUp = true →
    let w := look {} s.tele.marks n.val
    ∃ t, exec (.watermarkArm n v) s = .next t ∧ t = { s with tele := { s.tele with marks := t.tele.marks } } ∧
      look {} t.tele.marks n.val =
        { w with event := w.event && !v.getLsbD 31, armed := w.armed || v.getLsbD 29, crossings := v.toNat / 65536 % 256 } ∧
      ∀ k ≠ n.val, look {} t.tele.marks k = look {} s.tele.marks k) ∧
  (∀ (v : BitVec 32) (s : State), s.pcieUp = true →
    ∃ t, exec (.traceCtlWrite v) s = .next t ∧
      t = { s with tele := { s.tele with traceCtl := t.tele.traceCtl, frozen := t.tele.frozen, releaseArmed := t.tele.releaseArmed } } ∧
      t.tele.traceCtl.toNat = v.toNat % 64 + 256 * (v.toNat / 256 % 2) ∧
      (s.tele.frozen = true → t.tele.frozen = !(s.tele.releaseArmed && v.toNat % 64 ≠ 0))) ∧
  (∀ (v : BitVec 32) (s : State), s.pcieUp = true →
    ∃ t, exec (.comparatorRearm v) s = .next t ∧
      ∀ c < 4, (t.cmp c).chatter = ((s.cmp c).chatter && !(decide (2 ≤ c) && v.getLsbD (4 * c + 2)))) ∧
  (∀ (c : Nat) (v : BitVec 32) (s : State), c = 2 ∨ c = 3 → v.toNat = 2 ^ (4 * c + 2) → (s.cmp c).chatter = true →
    (s.cmpSide c (s.cmp c).inputMv).getD (s.cmp c).lvl = (s.cmp c).lvl →
    ∃ t, exec (.comparatorRearm v) s = .next t ∧ t = { s with aon := t.aon, faults := t.faults } ∧
      (t.cmp c).chatter = false ∧ (t.cmp c).lvl = (s.cmp c).lvl ∧ look false t.faults.level (0x780 + c) = false)) ∧
  ((∀ (off : BitVec 26) (v : Nat) (s : State), s.pcieUp = true → off.toNat % 4 = 0 → s.reg64 off.toNat = some v →
    ∃ t, exec (.reg64LowRead { off := off }) s = .next t ∧ t = { s with ctl := t.ctl, time := t.time, out := t.out } ∧
      t.out = .bar0 off.toNat (v % 2 ^ 32) :: s.out ∧
      look none t.ctl.latchHi off.toNat = some (BitVec.ofNat 32 (v / 2 ^ 32)) ∧
      (off.toNat = 0x30000 → t.time.fracLatch = BitVec.ofNat 16 (s.time.now / 2 ^ 24))) ∧
  (∀ (off : BitVec 26) (v : Nat) (h : BitVec 32) (s : State), s.pcieUp = true → off.toNat % 4 = 0 → 4 ≤ off.toNat →
    s.reg64 off.toNat = none → s.reg64 (off.toNat - 4) = some v → look none s.ctl.latchHi (off.toNat - 4) = some h →
    ∃ t, exec (.reg64LowRead { off := off }) s = .next t ∧ t = { s with ctl := t.ctl, out := t.out } ∧
      t.out = .bar0 off.toNat h.toNat :: s.out ∧ look none t.ctl.latchHi (off.toNat - 4) = none)) ∧
  ((∀ (k : Fin 4) (v : BitVec 64) (s : State), s.pcieUp = true →
    ∃ t, exec (.registerWrite (BitVec.ofNat 26 (0x1010 + 4 * k.val)) false v) s = .next t ∧
      t = { s with ctl := { s.ctl with scratch := t.ctl.scratch } } ∧
      ∀ j, look 0 t.ctl.scratch j = if j = k.val then BitVec.ofNat 32 (v.toNat % 2 ^ 32) else look 0 s.ctl.scratch j) ∧
  (∀ (r : Fin 4) (v : BitVec 64) (s : State), s.pcieUp = true →
    exec (.registerWrite (BitVec.ofNat 26 (0x10000 + 256 * r.val)) true v) s =
      .next (if (s.ring r.val).enable then s
             else s.setRing r.val { s.ring r.val with crBase := v &&& ~~~4095#64 })) ∧
  (∀ (r : Fin 4) (lo hi : BitVec 64) (s : State), s.pcieUp = true → (s.ring r.val).enable = false →
    ∃ u t, exec (.registerWrite (BitVec.ofNat 26 (0x10008 + 256 * r.val)) false lo) s = .next u ∧
      exec (.registerWrite (BitVec.ofNat 26 (0x1000C + 256 * r.val)) false hi) u = .next t ∧
      (u.ring r.val).rrBase = (s.ring r.val).rrBase ∧
      (t.ring r.val).rrBase = BitVec.ofNat 64 (hi.toNat % 2 ^ 32 * 2 ^ 32 + lo.toNat % 2 ^ 32) &&& ~~~4095#64)) ∧
  (∀ (off : BitVec 26) (size : Nat) (w : Bool) (s : State), s.pcieUp = true →
    ¬ ((size = 4 ∨ size = 8) ∧ off.toNat % size = 0) →
    exec (.bar0UnsupportedAccess off size w) s =
      .next { s with ctl := { s.ctl with aerUr := s.ctl.aerUr + 1 }, out := .ur off.toNat :: s.out }) ∧
  (∀ s : State, s.smbUp = true →
    let word := fun (v : Int) => State.emit s (.smbus (leBytes 2 (unsigned 16 v)))
    exec .smbIdentity s = .next (s.emit (.smbus (leBytes 2 0x7410 ++ leBytes 2 s.ident.stepping.toNat ++
      leBytes 8 s.ident.serial.toNat ++ [BitVec.ofNat 8 s.ident.gradeFused, BitVec.ofNat 8 s.gradePinned,
        BitVec.ofNat 8 s.lcState, BitVec.ofNat 8 s.ctl.profile]))) ∧
    exec .smbFaultSummary s = .next (word s.faultSummary) ∧
    exec .smbStatus s = .next (word (b01 s.ctl.fwReady + 2 * b01 s.ctl.quiesced + 4 * b01 s.svc.phased.isSome
      + 8 * b01 s.ctl.cmdPaused + 16 * b01 s.aon.thermtrip + 32 * s.time.quality : Nat)) ∧
    exec .smbTjMax s = .next (word s.hottest) ∧
    exec .smbInlet s = .next (word s.inlet) ∧
    exec .smbPower s = .next (word (s.pwr.avg / 1000 : Nat)) ∧
    exec .smbCool s = .next (word (s.aon.coolDuty : Nat)) ∧
    (∀ v : BitVec 8, v.toNat < 64 → exec (.smbIndexWrite v true) s = .next { s with smbIndex := v.toNat }) ∧
    exec .smbIndexRead s = .next (s.emit (.smbus [BitVec.ofNat 8 s.smbIndex])) ∧
    exec .smbFaultWord s = .next { s.emit (.smbus (leBytes 4 (State.faultWord s.faults.sticky s.smbIndex))) with
      smbIndex := (s.smbIndex + 1) % 64 } ∧
    exec .smbVintage s = .next (s.emit (.smbus (leBytes 8 s.pwr.vintage))))

/-- A comparator whose input leaves its band takes the side the input is on, with BAND clear; within the band it keeps its LEVEL;
a chattering one keeps its safe value (R385, R386, R432). PWR_OK at 0 turns D1-D79 off and sets FS 0x771 (R387); a wake asserted
in profile 2 or 3 is accepted (R377, R387). What a loss of power keeps is the model's reading (log 20). An input declared
chattering, or stuck where a stuck limit exists, holds its safe value and sets its source (R432). -/
def Obligations.ComparatorsFollowTheirInputs : Prop :=
  (∀ (c : Fin 4) (mv : Nat) (s : State), (s.cmp c.val).chatter = false →
    ∃ t, exec (.comparatorChange c mv) s = .next t ∧ (t.cmp c.val).inputMv = mv ∧
      (c.val = 0 → 710 < mv → (t.cmp 0).lvl = true ∧ (t.cmp 0).band = false) ∧
      (c.val = 0 → mv < 690 → (t.cmp 0).lvl = false ∧ (t.cmp 0).band = false) ∧
      (c.val = 1 → 1170 < mv → (t.cmp 1).lvl = true ∧ (t.cmp 1).band = false) ∧
      (c.val = 1 → mv < 630 → (t.cmp 1).lvl = false ∧ (t.cmp 1).band = false) ∧
      (c.val = 2 → s.aon.vtHi < mv → (t.cmp 2).lvl = true ∧ (t.cmp 2).band = false) ∧
      (c.val = 2 → mv < s.aon.vtLo → mv ≤ s.aon.vtHi → (t.cmp 2).lvl = false ∧ (t.cmp 2).band = false) ∧
      (c.val = 3 → mv < 630 → (t.cmp 3).lvl = true ∧ (t.cmp 3).band = false) ∧
      (c.val = 3 → 1170 < mv → (t.cmp 3).lvl = false ∧ (t.cmp 3).band = false) ∧
      (s.cmpSide c.val mv = none → (t.cmp c.val).lvl = (s.cmp c.val).lvl ∧ (t.cmp c.val).band = (s.cmp c.val).band)) ∧
  ((∀ (mv : Nat) (s : State), (s.cmp 1).chatter = false → (s.cmp 1).lvl = true → mv < 630 →
    canon ({} : Domain) s.pwr.domains = true →
    ∃ t, exec (.comparatorChange 1 mv) s = .next t ∧ (∀ d, 1 ≤ d → (t.domain d).st = .off) ∧
      look false t.faults.level 0x771 = true ∧ t.ident.gradeFused = s.ident.gradeFused ∧ t.time = s.time) ∧
  (∀ (mv : Nat) (s : State), (s.cmp 3).chatter = false → (s.cmp 3).lvl = false → mv < 630 →
    s.ctl.profile = 2 ∨ s.ctl.profile = 3 →
    ∃ t, exec (.comparatorChange 3 mv) s = .next t ∧ t = { s with aon := t.aon } ∧ t.aon.waking = true ∧
      t.aon.wakeRequest = false) ∧
  (∀ (mv : List Nat) (s : State),
    ∃ t, exec (.comparatorPowerOn mv) s = .next t ∧ t.time.now = 0 ∧ t.time.quality = 0 ∧
      (∀ j, t.severity j = (faultDefault j).getD 0) ∧
      (∀ c < 4, (t.cmp c).lvl = (t.cmpSide c (mv.getD c 0)).getD (State.cmpSafe c) ∧
        (t.cmp c).band = (t.cmpSide c (mv.getD c 0)).isNone) ∧
      t.ident.lcCommit = s.ident.lcCommit)) ∧
  (∀ (n : Fin 5) (s : State),
    ∃ t, exec (.inputChatter n) s = .next t ∧ look false t.faults.level (0x780 + n.val) = true ∧
      (n.val < 4 → (t.cmp n.val).chatter = true ∧ (t.cmp n.val).lvl = State.cmpSafe n.val) ∧
      (n.val = 4 → t.aon.ppsChatter = true) ∧
      (3 ≤ n.val → exec (.inputStuckTimeout n) s = .next t))

/-- Fabric time advances by INCR at each RACK_CLK edge, with at most 100 ppm of it as slew (R388, R393), and by nothing while the
clock is lost; the heartbeat counts while firmware runs (R335). The oscillator that counts while RACK_CLK is lost has no row: it
is the step on an empty queue (log 2). A lost RACK_CLK sets FS 0x762 and leads to HOLDOVER; when it returns the source's cause is
gone, and the root's quality is its own again (R388, R390). An armed alarm whose time has come fires once, with event 0x30, and
with ACTION 2 it requests a wake (R394). A RACK_PPS pulse within 50 ns is accepted: a time that waits for it becomes fabric time,
and otherwise a device that is not the root reports the pulse's offset from the whole second (R392, R393). A pulse outside the
window, with none ignored before it, is ignored and sets FS 0x763. TIME EXCHANGE: every dimension port on an ACTIVE link that is
not miswired (R105) gets the stamps of the last flit received from it (R389, R391); a child computes the offset of R389, is LOCKED
after eight offsets within 20 ns, and steps off more than 1 us. -/
def Obligations.FabricTimeCountsAndIsExchanged : Prop :=
  ((∀ s : State, s.time.clkLost = false → s.time.slewLeft = 0 →
    exec .rackClkEdge s = .next { s with time := { s.time with now := (s.time.now + s.time.incr) % 2 ^ 104 } }) ∧
  (∀ s : State, s.time.clkLost = false →
    ∃ t, exec .rackClkEdge s = .next t ∧ t = { s with time := { s.time with now := t.time.now, slewLeft := t.time.slewLeft } } ∧
      (t.time.slewLeft).natAbs ≤ s.time.slewLeft.natAbs ∧
      (s.time.slewLeft - t.time.slewLeft).natAbs ≤ s.time.incr / 10000 ∧
      t.time.now = ((s.time.now : Int) + s.time.incr + (s.time.slewLeft - t.time.slewLeft)).toNat % 2 ^ 104) ∧
  (∀ s : State, s.ctl.fwReady = true → s.ctl.cmdPaused = false →
    exec .heartbeatTick s = .next { s with ctl := { s.ctl with heartbeat := s.ctl.heartbeat + 1 } })) ∧
  ((∀ s : State,
    ∃ t, exec .rackClkLoss s = .next t ∧ t.time.clkLost = true ∧ t.time.quality = 3 ∧ t.time.now = s.time.now ∧
      look false t.faults.level 0x762 = true ∧ look false t.faults.sticky 0x762 = true ∧
      (Mild s 0x762 → t = { s with
        time := t.time
        faults := t.faults
        tele := { s.tele with events := t.tele.events }
        out := t.out
        sw := { s.sw with originWait := t.sw.originWait } })) ∧
  (∀ s : State, s.time.clkLost = true →
    ∃ t, exec .rackClkReturn s = .next t ∧ t.time.clkLost = false ∧ look false t.faults.level 0x762 = false ∧
      (s.isRoot = true → t.time.quality = if s.time.timeSet then 2 else 0) ∧ (s.isRoot = false → t.time.quality = s.time.quality))) ∧
  (∀ s : State, s.time.alarmAction ≠ 0 → s.time.alarm ≤ s.ns →
    ∃ t, exec .alarmFire s = .next t ∧ t.time = { s.time with fired := true, alarmAction := 0 } ∧
      t.aon = { s.aon with wakeRequest := s.aon.wakeRequest || s.time.alarmAction == 2 } ∧
      t = { s with time := t.time, aon := t.aon, tele := { s.tele with events := t.tele.events }, out := t.out } ∧
      (s.tele.events.enable = true → State.recFull s.tele.events = false →
        .eventRec s.tele.events.prod { code := 0x30, time := s.ns, detail := [s.time.alarm] } ∈ t.out)) ∧
  ((∀ (o : Int) (w : Nat) (s : State), s.aon.ppsChatter = false → -50 ≤ o → o ≤ 50 → s.time.stepDue = some w →
    ∃ t, exec (.rackPpsPulse o) s = .next t ∧ t.time.now = w ∧ t.time.stepDue = none ∧ t.time.timeSet = true ∧ t.time.quality = 2 ∧
      State.mono t = State.mono s) ∧
  (∀ (o : Int) (s : State), s.aon.ppsChatter = false → -50 ≤ o → o ≤ 50 → s.time.stepDue = none → s.isRoot = false →
    exec (.rackPpsPulse o) s = .next (s.setTime { s.time with
      ppsValid := true
      ppsIgnored := []
      ppsNs := ((s.ns : Int) + 500000000) % 10 ^ 9 - 500000000 })) ∧
  (∀ (o : Int) (s : State), s.aon.ppsChatter = false → s.time.ppsValid = true → s.time.ppsIgnored = [] → 50 < o.natAbs →
    ∃ t, exec (.rackPpsPulse o) s = .next t ∧ look false t.faults.sticky 0x763 = true ∧
      t.time = { s.time with
        ppsValid := false
        ppsIgnored := [o]
        ppsIgnoredCount := s.time.ppsIgnoredCount + 1 })) ∧
  ((∀ (p : Nat) (a b : BitVec 64) (s : State), p ∈ s.dimPorts → (s.link (p * 4)).st = .active →
    (s.linkDim (p * 4)).any (fun d => (s.dim d).miswired) = false →
    look none s.time.lastRx p = some (a, b) →
    ∃ t k, exec .timeExchangeTimer s = .next t ∧ t = { s with sw := { s.sw with originWait := t.sw.originWait } } ∧
      ([p * 4], k) ∈ t.sw.originWait ∧ k.ty = 0x0A ∧ k.tc = 7 ∧ k.payload = leBytes 8 a.toNat ++ leBytes 8 b.toNat ∧
      k.tspec.headD 0 = 2) ∧
  (∀ (port : Fin 64) (m : TimeMsg) (t1 t2 : BitVec 64) (d : Nat) (s : State), m.msg = 2 → s.time.parent = some d →
    (look none s.fab.map port.val).map Prod.fst = some d → (t2 - m.tA).toInt.natAbs ≤ 10 ^ 6 * 2 ^ 16 →
    let off := ((t2 - t1).toInt - (m.tB - m.tA).toInt).tdiv 2
    ∃ t, exec (.timeExchangeReceive port m t1 t2) s = .next t ∧ t.time.offset = off ∧
      (off.natAbs ≤ 20 * 2 ^ 16 → s.time.quality = 1 → s.time.goodRun = 7 → t.time.quality = 2 ∧ t.time.now = s.time.now) ∧
      (1000 * 2 ^ 16 < off.natAbs → off * 2 ^ 24 ≤ s.time.now → (t.time.now : Int) = s.time.now - off * 2 ^ 24)) ∧
  (∀ (port : Fin 64) (m : TimeMsg) (d : Nat) (s : State), m.msg = 3 → s.time.parent = some d →
    (look none s.fab.map port.val).map Prod.fst = some d → 0 ≤ (s.time.now : Int) + m.tA.toInt * 2 ^ 40 →
    ∃ t, exec (.timeStepReceive port m) s = .next t ∧ (t.time.now : Int) = s.time.now + m.tA.toInt * 2 ^ 40 ∧
      State.mono t = State.mono s))

/-- A domain's transition completes: it has the state it went to, tiers together; it rises only on good supplies and with what it
requires active and falls only when nothing that requires it is active; tiers that leave off find their lines zero and unpoisoned
(R24, R265, R372). PROFILE_DOMAINS_OFF turns the domains off, and tiers to retention in profile 2 (R376). DROPOUT (R381): FS 0x700
+ d holds while the domain is in dropout; a dropout that lasts gives a vintage of CAUSE 2 with the measured rate. -/
def Obligations.DomainsReachTheirStates : Prop :=
  ((∀ (d : Fin 80) (x : DomState) (s : State), (s.domain d.val).going = some x → (x = .active → s.domMayRise d.val = true) →
    (x ≠ .active → s.domMayFall d.val = true) → d.val < 12 ∨ 16 ≤ d.val →
    ∃ t, exec (.domainTransitionDone d) s = .next t ∧ (t.domain d.val).st = x ∧ (t.domain d.val).going = none ∧
      ∀ e ≠ d.val, t.domain e = s.domain e) ∧
  (∀ (d : Fin 80) (x : DomState) (s : State), (s.domain d.val).going = some x → (x = .active → s.domMayRise d.val = true) →
    (x ≠ .active → s.domMayFall d.val = true) → 12 ≤ d.val → d.val < 16 →
    ∃ t, exec (.domainTransitionDone d) s = .next t ∧
      (∀ e, 12 ≤ e → e < 16 → (t.domain e).st = x ∧ (t.domain e).going = none) ∧
      (∀ e, e < 12 ∨ 16 ≤ e → t.domain e = s.domain e) ∧
      (x = .active → (s.domain 15).st = .off → t.cel.mem = [] ∧ t.cel.poison = [] ∧ t.cel.err = [] ∧ t.cel.ready = true)) ∧
  (∀ (p : Nat) (s : State), s.pwr.profileOff = some p → canon ({} : Domain) s.pwr.domains = true →
    ∃ t, exec .profileDomainsOff s = .next t ∧ t.ctl.profile = p ∧ t.pwr.profileOff = none ∧
      (∀ d, d < 12 ∨ 16 ≤ d ∨ p ≠ 2 → (t.domain d).st = .off) ∧
      (∀ d, 12 ≤ d → d < 16 → p = 2 → (s.domain d).st = .active → (t.domain d).st = .retention) ∧
      (p = 2 → t.cel.mem = s.cel.mem))) ∧
  ((∀ (d : Fin 80) (s : State), (s.domain d.val).dropout = false → (s.domain d.val).st = .active → railOf d.val ≠ none →
    ∃ t, exec (.dropoutSet d) s = .next t ∧ look false t.faults.level (0x700 + d.val) = true ∧
      t.domain d.val = { s.domain d.val with dropout := true, paced := s.ctl.fwReady && decide (16 ≤ d.val) } ∧
      ∀ e ≠ d.val, t.domain e = s.domain e) ∧
  (∀ (d : Fin 80) (s : State), (s.domain d.val).dropout = true →
    ∃ t, exec (.dropoutClear d) s = .next t ∧ look false t.faults.level (0x700 + d.val) = false ∧
      t.domain d.val = { s.domain d.val with dropout := false, paced := false } ∧ ∀ e ≠ d.val, t.domain e = s.domain e) ∧
  (∀ (d : Fin 80) (rate : Nat) (s : State), (s.domain d.val).dropout = true → s.ctl.fwReady = true →
    ∃ t, exec (.dropoutPersist d rate) s = .next t ∧ t.pwr.vintage = s.pwr.vintage + 1 ∧ t.pwr.cause = 2 ∧
      (t.domain d.val).assured = rate ∧ ∀ e ≠ d.val, (t.domain e).assured = (s.domain e).assured))

/-- The voltage loop moves each setpoint by at most 5 mV toward its load, or to the floor, and keeps it from the effective floor
to 40 mV above it and within CEIL_MV where that lies above the floor (R382, R384). A rail is read once and then moves by at most 5
mV a step toward its target; a status without a fault bit leaves nothing but a cleared PEC count (R379, R380). -/
def Obligations.VoltagesStayInTheirBand : Prop :=
  (∀ (m : List LoopSample) (s : State),
    ∃ t, exec (.voltageLoopTick m) s = .next t ∧ t = { s with pwr := { s.pwr with domains := t.pwr.domains } } ∧
      ∀ d, (beatRated d = false ∨ s.domActive d = false ∨ 80 ≤ d → t.domain d = s.domain d) ∧
        (d < 80 → beatRated d = true → s.domActive d = true →
          t.domain d = { s.domain d with setpoint := (t.domain d).setpoint } ∧
          s.effFloor d ≤ (t.domain d).setpoint ∧
          (t.domain d).setpoint ≤ max (s.effFloor d) (min (s.domain d).ceilMv (s.effFloor d + 40)) ∧
          (1000 ≤ s.hottest → (t.domain d).setpoint = s.effFloor d))) ∧
  ((∀ (r : Fin 3) (mode : BitVec 8) (s : State), (s.rail r.val).commanded = true → (s.rail r.val).dead = false →
    s.ctl.fwReady = true → (s.rail r.val).modeRead = true →
    ∃ t, exec (.railRampStep r true mode) s = .next t ∧ t = { s with pwr := { s.pwr with rails := t.pwr.rails }, out := t.out } ∧
      t.rail r.val = { s.rail r.val with mv := (t.rail r.val).mv } ∧
      (((s.rail r.val).mv ≤ (t.rail r.val).mv ∧ (t.rail r.val).mv ≤ (s.rail r.val).mv + 5 ∧
          (t.rail r.val).mv ≤ max (s.rail r.val).mv (s.railTarget r.val)) ∨
        ((t.rail r.val).mv ≤ (s.rail r.val).mv ∧ (s.rail r.val).mv ≤ (t.rail r.val).mv + 5 ∧
          s.railTarget r.val ≤ (t.rail r.val).mv)) ∧
      ((t.rail r.val).mv ≠ (s.rail r.val).mv → .pmbus r.val 0x21 (t.rail r.val).mv ∈ t.out)) ∧
  (∀ (r : Fin 3) (mode : BitVec 8) (s : State), (s.rail r.val).commanded = true → (s.rail r.val).dead = false →
    s.ctl.fwReady = true → (s.rail r.val).modeRead = false → mode.toNat / 32 = 0 → 16 ≤ mode.toNat % 32 →
    exec (.railRampStep r true mode) s =
      .next ((s.setRail r.val { s.rail r.val with modeRead := true }).emit (.pmbus r.val 0x21 (s.rail r.val).mv))) ∧
  (∀ (r : Fin 3) (s : State), (s.rail r.val).commanded = true → (s.rail r.val).dead = false → s.ctl.fwReady = true →
    exec (.pmbusStatusPoll r 0 0) s = .next (s.setRail r.val { s.rail r.val with fails := 0 })) ∧
  (∀ (r : Fin 3) (status : BitVec 16) (s : State), (s.rail r.val).commanded = true → (s.rail r.val).dead = false →
    s.ctl.fwReady = true →
    (∃ t, exec (.pmbusStatusPoll r 0 status) s = .next t ∧ t.rail r.val = { s.rail r.val with fails := 0 } ∧
      ((∃ k ∈ [1, 2, 4, 5, 13, 14, 15], status.getLsbD k = true) → look false t.faults.sticky 0x759 = true)) ∧
    (∃ t, exec (.pmbusStatusPoll r 1 status) s = .next t ∧ (t.rail r.val).dead = true ∧ look false t.faults.sticky 0x758 = true) ∧
    ((s.rail r.val).fails < 2 → exec (.pmbusStatusPoll r 2 status) s =
      .next (s.setRail r.val { s.rail r.val with fails := (s.rail r.val).fails + 1 }))))

/-- Input power is averaged over the last 1 ms of samples; an average above the limit first brings every setpoint to its floor
(R383). A junction of 120 °C or more trips the device: every domain but D0 goes off (R384). Firmware that has not written the duty
for 1 s outside profiles 2 and 3 leaves COOL_DEMAND at 100 % and sets FS 0x772 (R395). Ageing: the first canary reading is the
base; each minute of power adds its stress; a drift above 1 % over three samples makes a vintage due; a plan is adopted when its
rates are confirmed and its record is written (R360-R364). That the first reading is the base is the model's reading (log 98). -/
def Obligations.PowerTemperatureAndAgeingAct : Prop :=
  ((∀ (mw : Nat) (s : State),
    ∃ t, exec (.powerSample mw) s = .next t ∧ t.pwr.samples = (mw :: s.pwr.samples).take 100 ∧
      t.pwr.avg = t.pwr.samples.sum / t.pwr.samples.length ∧ t.time = s.time ∧
      (Mild s 0x691 → Mild s 0x75C → t.links = s.links ∧ t.fab = s.fab)) ∧
  (∀ (mw l : Nat) (s : State), s.powerLimit = some l →
    l < ((mw :: s.pwr.samples).take 100).sum / ((mw :: s.pwr.samples).take 100).length →
    (∃ d < 80, beatRated d = true ∧ s.domActive d = true ∧ s.effFloor d < (s.domain d).setpoint) →
    ∃ t, exec (.powerSample mw) s = .next t ∧
      ∀ d < 80, beatRated d = true → s.domActive d = true → (t.domain d).setpoint = s.effFloor d) ∧
  (∀ (d : Fin 80) (tj : Int) (s : State), s.aon.tripped = false → 1200 ≤ tj → canon ({} : Domain) s.pwr.domains = true →
    ∃ t, exec (.junctionSample d tj) s = .next t ∧ t.aon.thermtrip = true ∧ t.aon.tripped = true ∧ t.aon.coolDuty = 1000 ∧
      (∀ e, 1 ≤ e → (t.domain e).st = .off) ∧ t.ident.lcCommit = s.ident.lcCommit ∧ t.time = s.time) ∧
  (∀ (d : Fin 80) (tj : Int) (s : State), s.aon.tripped = false →
    let u := s.setDomain d.val { s.domain d.val with tj := tj }
    u.hottest < 1200 →
    ∃ t, exec (.junctionSample d tj) s = .next t ∧ (t.domain d.val).tj = tj ∧ t.aon.tripped = false ∧
      look false t.faults.level 0x750 = decide (1050 ≤ u.hottest) ∧ look false t.faults.level 0x751 = decide (1100 ≤ u.hottest) ∧
      (1000 ≤ u.hottest → ∀ e < 80, beatRated e = true → s.domActive e = true → (t.domain e).setpoint = s.effFloor e)) ∧
  (∀ (d : Fin 80) (tj : Int) (s : State), s.aon.tripped = true →
    exec (.junctionSample d tj) s = .next (s.setDomain d.val { s.domain d.val with tj := tj })) ∧
  (∀ (failed : Bool) (s : State), s.ctl.fwReady = true →
    ∃ t, exec (.sensorCalibration failed) s = .next t ∧ (failed = false → t = s) ∧
      (failed = true → look false t.faults.sticky 0x6B4 = true) ∧
      (Mild s 0x6B4 → t = { s with faults := t.faults, tele := { s.tele with events := t.tele.events }, out := t.out }))) ∧
  (∀ s : State, s.ctl.profile ≠ 2 → s.ctl.profile ≠ 3 →
    ∃ t, exec .coolDemandWatchdog s = .next t ∧ t.aon.coolDuty = 1000 ∧ look false t.faults.sticky 0x772 = true ∧
      (Mild s 0x772 → t = { s with
        aon := { s.aon with coolDuty := 1000, coolWatchdog := true }
        faults := t.faults
        tele := { s.tele with events := t.tele.events }
        out := t.out })) ∧
  ((∀ (d : Fin 80) (rs : List Nat) (s : State), s.domActive d.val = true → s.ctl.fwReady = true →
    (s.domain d.val).base = [] → (s.domain d.val).last = [] → rs.length ≤ 4 → (∀ r ∈ rs, r ≠ 0) → (s.domain d.val).drifts = [] →
    exec (.canarySample d rs) s = .next (s.setDomain d.val { s.domain d.val with base := rs, last := rs, drifts := [0] })) ∧
  (∀ (d : Fin 80) (rs : List Nat) (s : State), s.domActive d.val = true → s.ctl.fwReady = true →
    let x := s.domain d.val
    let r := plausible x.last (rs.take 4)
    let b := if x.base.isEmpty then r.1 else x.base
    ∃ t, exec (.canarySample d rs) s = .next t ∧
      t.domain d.val = { x with base := b, last := r.1, drifts := (driftPpm b r.1 :: x.drifts).take 3 } ∧
      (r.2 = false → look false t.faults.sticky 0x6C7 = true)) ∧
  (∀ (d : Fin 80) (tj : Int) (mv : Nat) (s : State), s.domActive d.val = true →
    ∃ t, exec (.stressAccrue d tj mv) s = .next t ∧ t = { s with pwr := { s.pwr with domains := t.pwr.domains } } ∧
      (t.domain d.val).poweredMin = (s.domain d.val).poweredMin + 1 ∧
      (t.domain d.val).tempSum = (s.domain d.val).tempSum + tj ∧ (t.domain d.val).measured = mv ∧
      (s.domain d.val).stress ≤ (t.domain d.val).stress ∧ ∀ e ≠ d.val, t.domain e = s.domain e) ∧
  (∀ (cause : BitVec 8) (pred slope leak dyn : Tab Nat) (s : State), cause.toNat < 2 ∨ cause.toNat = 3 →
    s.pwr.planDue = some cause.toNat → s.ctl.fwReady = true →
    ∃ t p, exec (.vintagePlan cause pred slope leak dyn) s = .next t ∧ t.pwr.plan = some p ∧ t.pwr.planDue = none ∧
      p.number = s.pwr.vintage + 1 ∧ t.pwr.vintage = s.pwr.vintage ∧ (p.cause = cause.toNat ∨ p.cause = 4) ∧
      (p.cause = 4 → look false t.faults.sticky 0x6C6 = true)) ∧
  (∀ (p : Plan) (s : State), s.pwr.plan = some p → s.ctl.fwReady = true →
    ∃ t, exec (.vintageAdopt true true) s = .next t ∧ t.pwr.vintage = s.pwr.vintage + 1 ∧ t.pwr.cause = p.cause ∧
      t.pwr.plan = none ∧
      ∀ e, p.doms.filter (fun x => x.domain = e) = [] → (t.domain e).assured = (s.domain e).assured))

/-- The queries of the device change nothing and reply with what they ask for (R317): identity, link and fault status, a scan's
counts, a press's context, book records and the state of a guarantee. ADMIT_CHECK: a dry run leaves the device as it is (R299),
and mode 1 admits a guarantee at risk again when it passes beside those that stand (R299, R303). -/
def Obligations.QueriesReplyWithTheState : Prop :=
  (∀ (h : SpHdr) (s : State),
    let answers := fun (c : Cmd) (i : Instr) (ps : List (Nat × Nat)) =>
      Applies s c → ∃ t, exec i s = .next t ∧ OnlyReplied s t ∧
        (Answerable s h (plenOf (ps.map Prod.fst)) → Answered t h (okReply s h ps))
    answers (cmdDevIdentify h s) (.devIdentify h)
      [(64, s.ident.serial.toNat), (32, s.fw.version.toNat), (16, s.ident.stepping.toNat), (8, s.ident.gradeFused),
       (8, s.gradePinned), (8, s.lcState), (32, s.fnaField), (64, s.pwr.vintage), (256, s.fw.features.toNat)] ∧
    (∀ p : BitVec 8, answers (cmdLinkStatus h p s) (.linkStatus h p)
      ((List.range 4).flatMap fun i =>
        let k := s.link (s.linkOfLane (4 * p.toNat + i))
        let x := s.lane (4 * p.toNat + i)
        [(8, State.linkCode k.st), (8, k.width), (8, k.rate), (16, x.fom), (64, x.corrected.toNat), (64, x.bad.toNat),
         (32, x.retryTx.toNat), (32, x.retryRx.toNat), (64, x.replayed.toNat), (32, x.rmDeleted.toNat), (32, 0)])) ∧
    (∀ (l m : BitVec 8) (a n : BitVec 16), answers (cmdLinkEyescanRead h l m a n s) (.linkEyescanRead h l m a n)
      ((List.range n.toNat).map fun i => (32, look 0 (s.lane l.toNat).counts (a.toNat + i)))) ∧
    (∀ a n : BitVec 16, answers (cmdFaultQuery h a n s) (.faultQuery h a n)
      (((List.range (ceilDiv n.toNat 64)).map fun k => (64, ((List.range (min 64 (n.toNat - 64 * k))).map fun i =>
        b01 (look false s.faults.sticky (a.toNat + 64 * k + i)) * 2 ^ i).sum)) ++
        (List.range n.toNat).map fun i => (8, s.severity (a.toNat + i)))) ∧
    (∀ p c : BitVec 8, answers (cmdPressQuery h p c s) (.pressQuery h p c)
      (let x := s.ctx p.toNat c.toNat
       [(8, State.ctxCode x.st), (8, x.cause), (8, x.fstream), (32, x.fpc), (40, x.faddr)] ++
        (((List.range 4).flatMap fun e =>
          let k := s.streamOf p.toNat c.toNat e
          [(8, k.flags.toNat), (32, k.sat), (32, k.inexact)]) ++ [(8, 0), (32, 0), (32, 0)]))) ∧
    (∀ (a : BitVec 64) (n : BitVec 16), answers (cmdBookRead h a n s) (.bookRead h a n)
      ((List.range n.toNat).map fun i => (1024, s.bookAt (a.toNat + i)))) ∧
    (∀ (m : BitVec 8) (g : BitVec 16), answers (cmdAdmitReport h m g) (.admitCheckReport h m g)
      (let st := s.gstateOf g.toNat
       s.report (if st = 1 ∨ st = 2 then 0 else 0x0304) st g.toNat s.reportEntries))) ∧
  ((∀ (h : SpHdr) (i : Instr) (s : State), Applies s (cmdAdmitDryRun h i s) →
    ∃ t, exec (.admitCheckDryRun h i) s = .next t ∧ OnlyReplied s t) ∧
  (∀ (h : SpHdr) (g : BitVec 16) (r : Guarantee) (s : State), Applies s (cmdAdmitReadmit h g) →
    s.adm.records.find? (fun x => x.gid = g.toNat) = some r → r.st = .atRisk →
    s.failsWith (s.adm.records.filter fun x => x.st = .admitted) r = [] →
    ∃ t, exec (.admitCheckReadmit h g) s = .next t ∧
      t.adm = { s.adm with records := s.adm.records.map fun x => if x.gid = g.toNat then { x with st := .admitted } else x }) ∧
  (∀ (h : SpHdr) (g : BitVec 16) (r : Guarantee) (s : State), Applies s (cmdAdmitReadmit h g) →
    s.adm.records.find? (fun x => x.gid = g.toNat) = some r → r.st = .admitted →
    ∃ t, exec (.admitCheckReadmit h g) s = .next t ∧ OnlyReplied s t))

/-- The link and QoS settings take effect as commanded and change nothing else (R89, R92, R142, R148-R153, R317). LINK_CONFIG
gives the port its split and rate, its lanes equalise automatically again (R31), and its links train again, unless nothing changes
(R62); its expert form may return a failed lane to service (R94); QOS_PROFILE sets every parameter of its function, the queues,
policers and gates among them, and the buffer's division (R31, R132, R139; that a PROFILE code stands for the defaults is the
model's choice, log 132); QOS_GATES leaves the list pending for its take-over time (R155). -/
def Obligations.LinkAndQosSettingsTake : Prop :=
  (∀ (h : SpHdr) (s : State),
    let sets := fun (c : Cmd) (i : Instr) (u : State) => Applies s c → ∃ t, exec i s = .next t ∧ OnlyReplied u t
    (∀ (p : BitVec 8) (en : Bool) (d : BitVec 16), sets (cmdLinkIdle h p en d s) (.linkIdle h p en d)
      (s.setPort p.toNat { s.port p.toNat with idleEn := en, idleDelay := d.toNat })) ∧
    (∀ l d : BitVec 8, sets (cmdLinkEyescanStart h l d s) (.linkEyescanStart h l d)
      (s.setLane l.toNat { s.lane l.toNat with scan := true, scanD := d.toNat, scanFor := some h })) ∧
    (∀ p : LinkCfgX, p.ret = false ∨ (s.lane p.lane.toNat).failed = false → sets (cmdLinkConfigExpert h p s) (.linkConfigExpert h p)
      (let x := s.lane p.lane.toNat
       s.setLane p.lane.toNat { x with
         eqFixed := if p.eqMode = 0xFF then x.eqFixed else decide (p.eqMode = 1)
         taps := if p.eqMode = 1 then p.taps else x.taps
         fomMin := if p.fomMin = 0 then x.fomMin else p.fomMin.toNat })) ∧
    (∀ p : QosQueueP, sets (cmdQosQueue h p s) (.qosQueue h p)
      (let k := p.link.toNat * 8 + p.cls.toNat
       s.setQueue k { s.queue k with weight := p.weight.toNat, ovh := p.ovh.toNat, markDepth := p.markDepth.toNat })) ∧
    (∀ p : BucketP, sets (cmdQosShaper h p s) (.qosShaper h p)
      (let k := p.link.toNat * 8 + p.cls.toNat
       s.setQueue k { s.queue k with
         rate := p.rate.toNat
         burst := p.burst.toNat
         tokens := if p.resetTo then 0 else ((p.burst.toNat * 1024 * 8000 : Nat) : Int)
         tokenAt := s.ns })) ∧
    (∀ p : BucketP, sets (cmdQosPolicer h p s) (.qosPolicer h p)
      (let k := p.link.toNat * 8 + p.cls.toNat
       s.setPolicer k { s.policer k with
         enable := p.enable
         rate := p.rate.toNat
         burst := p.burst.toNat
         tokens := if p.resetTo then 0 else ((p.burst.toNat * 1024 * 8000 : Nat) : Int)
         tokenAt := s.ns }))) ∧
  ((∀ (h : SpHdr) (p sp r : BitVec 8) (s : State), Applies s (cmdLinkConfig h p sp r s) →
    let rate := if r = 0xFF then 3 else r.toNat
    ∃ t, exec (.linkConfig h p sp r) s = .next t ∧ (t.port p.toNat).split = sp.toNat ∧ (t.port p.toNat).rate = rate ∧
      (∀ i < 4, let x := t.lane (4 * p.toNat + i)
        x.eqFixed = false ∧ x.taps = 0 ∧ x.fomMin = 3072) ∧
      ((s.port p.toNat).split = sp.toNat → (s.port p.toNat).rate = rate →
        OnlyReplied { s with links := { s.links with lanes := t.links.lanes } } t) ∧
      ((s.port p.toNat).rate ≠ rate → ∀ l ∈ t.linksOf p.toNat, (t.link l).st = .detect ∧
        (t.link l).width = t.splitWidth p.toNat ∧ (t.link l).tryRate = rate)) ∧
  (∀ (h : SpHdr) (p : LinkCfgX) (s : State), p.ret = true → Applies s (cmdLinkConfigExpert h p s) →
    ∃ t, exec (.linkConfigExpert h p) s = .next t ∧ (t.lane p.lane.toNat).failed = false) ∧
  (∀ (h : SpHdr) (p : QosProfileP) (s : State), Applies s (cmdQosProfile h p s) →
    ∃ t, exec (.qosProfile h p) s = .next t ∧ t.sw.profile = p.profile.toNat ∧ t.sw.ageing = p.ageing.toNat ∧
      t.sw.lees = p.lees.toNat ∧ t.sw.limits = p.account.map (fun e => (e.1.toNat, e.2.toNat)) ∧
      t.sw.aiShift = (if p.aiShift = 0 then 8 else p.aiShift.toNat) ∧ t.sw.pools = t.division ∧
      (∀ q, let x := t.queue q
        x.aLane = (s.queue q).aLane ∧ x.eLane = (s.queue q).eLane ∧ x.weight = 64 ∧ x.ovh = 0 ∧ x.markDepth = 64 ∧
          ((∀ l ∈ s.guaranteedLinks, q ≠ l * 8 + 7) → x.rate = 0)) ∧
      (∀ q, (t.policer q).enable = false) ∧ t.sw.gates = [] ∧ t.sw.casks = s.sw.casks ∧ t.links = s.links ∧ t.fab = s.fab) ∧
  (∀ (h : SpHdr) (p : GatesP) (s : State), Applies s (cmdQosGates h p s) →
    ∃ t at_, exec (.qosGates h p) s = .next t ∧ (t.gate p.link.toNat).live = (s.gate p.link.toNat).live ∧
      (t.gate p.link.toNat).next = some ({ entries := p.entries.map (fun e => (e.1.toNat, e.2.toNat)), guardBand := p.guardBand }, at_) ∧
      (p.guardBand = false → (s.link p.link.toNat).zp5208 = false → at_ = h.time.toNat)))

/-- R141: QOS_PROFILE puts the G and C of every account in force at once, and every packet is admitted by those then in force;
casks and what they are charged stay; an account above its ceiling admits nothing. -/
def Obligations.AccountLimitsChangeAtOnce : Prop :=
  (∀ (h : SpHdr) (p : QosProfileP) (s : State), Applies s (cmdQosProfile h p s) →
    ∃ t : State, exec (.qosProfile h p) s = .next t ∧ t.sw.casks = s.sw.casks ∧ t.sw.accounts = s.sw.accounts ∧
      t.sw.shared = s.sw.shared ∧
      ∀ a, t.acctLimits a = (let e := p.account.getD (if a < 2048 then 0 else a - 2047) (0, 0)
        (e.1.toNat * 4096, e.2.toNat * 4096))) ∧
  (∀ (a b c : Nat) (s : State), s.admitTest a b = .cask c →
    (s.account a).used + caskSize (caskPool c) ≤ (s.acctLimits a).2 ∧
    ((s.sw.shared + (((s.account a).used + caskSize (caskPool c) - (s.acctLimits a).1) - ((s.account a).used - (s.acctLimits a).1)) : Nat) : Int)
      ≤ s.sharedPool) ∧
  (∀ (a b c : Nat) (s : State), (s.acctLimits a).2 < (s.account a).used → s.admitTest a b ≠ .cask c)

/-- DEV_NEGOTIATE replaces the source's agreed set with HOST_FEATURES ∩ FW_FEATURES and returns both sets (R326). Harvest and
fault configuration, the arbiters and the power cap (R277, R348, R383, R418): each command sets its parameters, with or without an
earlier setting, and leaves the rest. TIME_SET and TIME_ALARM (R393, R394): a step waits for RACK_PPS where that is valid and
otherwise applies at once, a slew begins without a jump, and the alarm takes its time and action, or is cleared. FAULT_INJECT:
level 0 forces a source for COUNT microseconds (R355), level 1 starts an injection (R356). -/
def Obligations.ManagementSettingsTake : Prop :=
  (∀ (h : SpHdr) (v : BitVec 8) (f : BitVec 256) (s : State), Applies s (cmdDevNegotiate h v f s) →
    ∃ t, exec (.devNegotiate h v f) s = .next t ∧ OnlyReplied s t ∧
      (t.source h.src).agreed = f &&& s.fw.features ∧ (t.source h.src).hostFeatures = f ∧
      (∀ k ≠ h.src, (t.source k).agreed = (s.source k).agreed) ∧
      (Answerable s h 64 → Answered t h (okReply s h [(256, s.fw.features.toNat), (256, (f &&& s.fw.features).toNat)]))) ∧
  (∀ (h : SpHdr) (s : State),
    let sets := fun (c : Cmd) (i : Instr) (u : State) => Applies s c → ∃ t, exec i s = .next t ∧ OnlyReplied u t
    (∀ iv : BitVec 32, sets (cmdHarvestCfg h iv s) (.harvestCfg h iv)
      { s with tele := { s.tele with interval := iv.toNat, select := 0x85, vector := 8 } }) ∧
    (∀ (iv : BitVec 32) (sel : BitVec 256) (v : BitVec 8), sets (cmdHarvestCfgExpert h iv sel v s) (.harvestCfgExpert h iv sel v)
      { s with tele := { s.tele with interval := iv.toNat, select := sel, vector := v.toNat } }) ∧
    (∀ (a n : BitVec 16) (sev : List (BitVec 8)), sev.length = n.toNat → Applies s (cmdFaultCfg h a n sev s) →
      ∃ t, exec (.faultCfg h a n sev) s = .next t ∧ OnlyReplied { s with faults := { s.faults with sev := t.faults.sev } } t ∧
        ∀ k, t.severity k =
          if a.toNat ≤ k ∧ k < a.toNat + n.toNat ∧ faultDefault k ≠ none then ((sev.getD (k - a.toNat) 0).toNat) else s.severity k) ∧
    (∀ (st rq lv qt : BitVec 8) (pre : Bool), Applies s (cmdCelArb h st.toNat rq.toNat lv.toNat qt.toNat pre s) →
      ∃ t, exec (.celArb h st rq lv qt pre) s = .next t ∧
        OnlyReplied { s with cel := { s.cel with staves := t.cel.staves } } t ∧
        ∀ n, if n < 64 ∧ (st = 0xFF ∨ n = st.toNat) then
            look none (t.stave n).lvl rq.toNat = some lv.toNat ∧ look none (t.stave n).quota rq.toNat = some qt.toNat ∧
            look none (t.stave n).preempt rq.toNat = some pre ∧ (t.stave n).wait = (s.stave n).wait ∧
            ∀ q ≠ rq.toNat, look none (t.stave n).lvl q = look none (s.stave n).lvl q
          else t.stave n = s.stave n) ∧
    (∀ cap : BitVec 32, Applies s (cmdPwrCap h cap s) → s.freeGid ≠ s.pwr.capGid →
      ∃ t, exec (.pwrCap h cap) s = .next t ∧ t.pwr = { s.pwr with cap := cap.toNat, capGid := t.pwr.capGid, capPace := none } ∧
        t.adm.capAside = false ∧ (cap = 0 → t.pwr.capGid = 0xFFFF) ∧
        (cap ≠ 0 → ∃ r ∈ t.adm.records, r.gid = t.pwr.capGid ∧ r.claim = .power cap.toNat ∧ r.st = .admitted) ∧
        OnlyReplied { s with pwr := t.pwr, adm := t.adm } t)) ∧
  (∀ (h : SpHdr) (s : State),
    (∀ (m : BitVec 8) (x : BitVec 80), m = 0 → Applies s (cmdTimeSetStep h m x s) →
      ∃ t, exec (.timeSetStep h m x) s = .next t ∧
        (s.time.ppsValid = true → t.time = { s.time with stepDue := some (timeOf x) }) ∧
        (s.time.ppsValid = false → t.time.now = timeOf x ∧ t.time.timeSet = true ∧ t.time.quality = 2 ∧
          State.mono t = State.mono s)) ∧
    (∀ x : BitVec 80, Applies s (cmdTimeSetSlew h x s) →
      ∃ t, exec (.timeSetSlew h x) s = .next t ∧ t.time.now = s.time.now ∧
        t.time.slewLeft = (timeOf x : Int) - s.time.now ∧ t.time.timeSet = true ∧ t.time.quality = 2) ∧
    (∀ (a : BitVec 64) (k : BitVec 8), k ≠ 0 → Applies s (cmdTimeAlarmSet h a k s) →
      ∃ t, exec (.timeAlarmSet h a k) s = .next t ∧
        OnlyReplied (s.setTime { s.time with alarm := a.toNat, alarmAction := k.toNat }) t) ∧
    (∀ a : BitVec 64, Applies s (cmdTimeAlarmCancel h a s) →
      ∃ t, exec (.timeAlarmCancel h a) s = .next t ∧ OnlyReplied (s.setTime { s.time with alarm := 0, alarmAction := 0 }) t)) ∧
  (∀ (h : SpHdr) (s : State),
    (∀ (l : BitVec 8) (src n : BitVec 16), l = 0 → n ≠ 0 → Applies s (cmdFaultInjectLevel0 h l src n s) →
      ∃ t, exec (.faultInjectLevel0 h l src n) s = .next t ∧ look false t.faults.force src.toNat = true ∧
        look 0 t.faults.forceTime src.toNat = State.mono s + n.toNat * 1000 ∧
        (look false s.faults.force src.toNat = false → look false t.faults.sticky src.toNat = true) ∧
        ∀ k ≠ src.toNat, look false t.faults.force k = look false s.faults.force k) ∧
    (∀ (l : BitVec 8) (src : BitVec 16), l = 0 → Applies s (cmdFaultInjectLevel0 h l src 0 s) →
      ∃ t, exec (.faultInjectLevel0 h l src 0) s = .next t ∧ look false t.faults.force src.toNat = false ∧
        t.faults.sticky = s.faults.sticky) ∧
    (∀ g n : BitVec 16, n ≠ 0 → Applies s (cmdFaultInjectLevel1 h g n s) →
      ∃ t, exec (.faultInjectLevel1 h g n) s = .next t ∧ look 0 t.faults.injCount (g.toNat % 128) = n.toNat ∧
        look false t.faults.injDouble (g.toNat % 128) = bit g.toNat 7 ∧ t.faults.sticky = s.faults.sticky))

/-- Power and resets (R22, R317, R332, R350, R366, R373-R376, R413, R414): a domain takes its floor and begins its transition; a
profile is in force; a device reset replies first; a control-complex reset and a station's are asked of CC4, their units fenced; a
pin is kept in the control record. -/
def Obligations.PowerAndResetCommandsTake : Prop :=
  (∀ (h : SpHdr) (d k : BitVec 8) (f : BitVec 16) (s : State), Applies s (cmdPwrProfileExpert h d k f s) →
    canon ({} : Domain) s.pwr.domains = true → (d.toNat < 12 ∨ 16 ≤ d.toNat) →
    ∃ t : State, exec (.pwrProfileExpert h d k f) s = .next t ∧ OnlyReplied (s.setDomain d.toNat { s.domain d.toNat with
      floor := f.toNat
      floorAside := false
      going := if (s.domain d.toNat).st = domStateOf k.toNat then none else some (domStateOf k.toNat) }) t) ∧
  (∀ (h : SpHdr) (k : BitVec 8) (s : State), k.toNat < 2 →
    ∀ (c : Cmd) (i : Instr), (c, i) ∈ [(cmdPwrProfile h k s, Instr.pwrProfile h k), (cmdDevProfile h k s, Instr.devProfile h k)] →
      Applies s c → ∃ t : State, exec i s = .next t ∧ t.ctl = { s.ctl with profile := k.toNat } ∧
        (∀ n < 64, let x := t.domain (16 + n)
          let on := k = 0 ∧ s.pressEnabled n = true
          (¬ on → x.st = .off ∨ x.going = some .off) ∧ (on → x.st = .active ∨ x.going = some .active)) ∧
        (i = .devProfile h k → t.sw.profile = k.toNat ∧ t.sw.ageing = 10 ∧ t.sw.lees = 200 ∧ t.cel.plan = [16, 96, 128, 0])) ∧
  (∀ (h : SpHdr) (u : BitVec 8) (s : State), Applies s (cmdDevReset h 0 u s) →
    ∃ v : State, exec (.devReset h 0 u) s = .next v.fullReset ∧ OnlyReplied s v ∧ (Answerable s h 0 → Answered v h (okReply s h []))) ∧
  (∀ (h : SpHdr) (u : BitVec 8) (s : State), Applies s (cmdDevResetControlComplex h u s) → s.domActive 1 = true →
    ∃ t : State, exec (.devResetControlComplex h u) s = .next t ∧ t.ctl.cmdPaused = true ∧ t.ctl.fwReady = false ∧
      t.faults.resetDue = s.faults.resetDue ++ [(0xFFFF, .core 0)] ∧ t.press = s.press ∧ t.cel = s.cel) ∧
  (∀ (h : SpHdr) (n : Fin 64) (s : State), Applies s (cmdDevResetUnit h (BitVec.ofNat 8 (12 + n.val)) s) →
    ∃ t : State, exec (.devResetUnit h (BitVec.ofNat 8 (12 + n.val))) s = .next t ∧ (t.pr n.val).fenced = true ∧
      t.faults.resetDue = s.faults.resetDue ++ [(0xFFFF, .press n.val)] ∧ (∀ c < 8, (t.ctx n.val c).st = .running →
        bit (s.ctx n.val c).set.toNat n.val = false)) ∧
  (∀ (h : SpHdr) (g : BitVec 8) (s : State), Applies s (cmdGradePin h g s) →
    ∃ t : State, exec (.gradePin h g) s = .next t ∧ t.gradePinned = g.toNat ∧ (t.ctlNow.bind CtlRec.pin) = some g.toNat ∧
      t.ident.gradeFused = s.ident.gradeFused ∧
      ∀ n, s.pressEnabled n = true → t.pressEnabled n = false → t.pr n = { fenced := (s.pr n).fenced })

/-- The FAB commands (R101, R105, R107, R108, R112, R113, R124-R127, R309, R321): discovery starts at INIT; an epoch session
copies the live bank, its edits touch the other bank alone, and a commit waits for its time; FAB_ENDPOINT sets its port. The
dimensions of the basic FAB_DISCOVER are free (log 65). -/
def Obligations.FabricCommandsTake : Prop :=
  (∀ (h : SpHdr) (b : BitVec 8) (s : State), Applies s (cmdFabDiscover h b s) → s.svc.phased = none →
    ∃ t : State, exec (.fabDiscover h b) s = .next t ∧ t.fab.discFor = some h ∧ t.fab.twisted = false ∧ t.fab.marked = false ∧
      t.fab.map = bundleMap t.fab.ndim b.toNat ∧ t.fab.ndim ≤ 18 ∧ t.fab.ndim * b.toNat ≤ 64 ∧ t.fab.holes = []) ∧
  (∀ (h : SpHdr) (p : DiscoverX) (s : State), Applies s (cmdFabDiscoverExpert h p s) → s.svc.phased = none →
    ∃ t : State, exec (.fabDiscoverExpert h p) s = .next t ∧ t.fab.discFor = some h ∧ t.fab.ndim = p.ndim.toNat ∧
      t.fab.twisted = p.twisted ∧ t.fab.marked = p.marked ∧ t.fab.map = discoverMap p.map ∧ t.fab.holes = []) ∧
  (∀ (h : SpHdr) (m v : BitVec 18) (s : State), Applies s (cmdFabEpochStage h m v s) → s.named m.toNat v.toNat = true →
    ∃ t : State, exec (.fabEpochStage h m v) s = .next t ∧ t.fab.session = true ∧ t.fab.live = s.fab.live ∧
      t.bank (!s.fab.live) = s.bank s.fab.live ∧ t.bank s.fab.live = s.bank s.fab.live) ∧
  (∀ (h : SpHdr) (m v : BitVec 18) (f : Bool) (s : State), Applies s (cmdFabEpochCommit h m v f s) → s.named m.toNat v.toNat = true →
    State.ns s ≤ h.time.toNat →
    ∃ t : State, exec (.fabEpochCommit h m v f) s = .next t ∧ t.fab.commit = some (h.time.toNat, f) ∧ t.fab.live = s.fab.live ∧
      t.fab.bank0 = s.fab.bank0 ∧ t.fab.bank1 = s.fab.bank1) ∧
  (∀ (h : SpHdr) (k : BitVec 8) (s : State), Applies s (cmdFabRoute h k s) →
    ∃ t : State, exec (.fabRoute h k) s = .next t ∧ OnlyReplied (s.setBank (!s.fab.live)
      (let b := s.bank (!s.fab.live)
       { b with
         pins := if k.getLsbD 0 then [] else b.pins
         partitions := if k.getLsbD 1 then [] else b.partitions
         redirects := if k.getLsbD 2 then [] else b.redirects })) t) ∧
  (∀ (h : SpHdr) (p : RouteX) (s : State), Applies s (cmdFabRouteExpert h p s) →
    ∃ t : State, exec (.fabRouteExpert h p) s = .next t ∧ t.bank s.fab.live = s.bank s.fab.live ∧
      let b := s.bank (!s.fab.live)
      let n := t.bank (!s.fab.live)
      (p.kind = 1 → n = { b with partitions := b.partitions ++ [(p.mask.toNat, p.value.toNat)] }) ∧
      (p.kind = 2 → look [] n.pins (p.dstFna.toNat * 8 + p.cls.toNat) = (p.seq.take p.hops.toNat).map BitVec.toNat ∧
        n.partitions = b.partitions ∧ n.redirects = b.redirects) ∧
      (p.kind = 3 → look none n.redirects p.dst.toNat = some p.toFna.toNat ∧ n.pins = b.pins ∧ n.partitions = b.partitions) ∧
      (p.kind = 4 → n.explicit = true ∧ (∀ k (hk : k < p.entries.length),
        look none n.table (p.first.toNat + k) = some p.entries[k]) ∧ n.pins = b.pins ∧ n.partitions = b.partitions)) ∧
  (∀ (h : SpHdr) (p : EndpointP) (s : State), Applies s (cmdFabEndpoint h p s) → p.port2 = 0xFF → State.fna2Of p = none →
    ∃ t : State, exec (.fabEndpoint h p) s = .next t ∧ (∀ l ∈ s.linksNamed p, (t.slot l).draining = h.drain) ∧
      (t.port p.port.toNat).auth = (if p.portAuth = 0xFF then (s.port p.port.toNat).auth else some p.portAuth.toNat) ∧
      (∀ q, q ≠ p.port.toNat → t.port q = s.port q) ∧ (∀ l, (t.slot l).identity = (s.slot l).identity) ∧ t.fab.map = s.fab.map) ∧
  (∀ (h : SpHdr) (m v : BitVec 18) (a : BitVec 2) (p : WindowP) (s : State), Applies s (cmdFabWindow h m v a p s) →
    (s.named m.toNat v.toNat = false → ∃ t : State, exec (.fabWindow h m v a p) s = .next t ∧ t.cel = s.cel ∧ t.adm = s.adm) ∧
    (s.named m.toNat v.toNat = true → a = 2 → ∃ t : State, exec (.fabWindow h m v a p) s = .next t ∧
      (t.window p.window.toNat).exists_ = false ∧ ∀ w, w ≠ p.window.toNat → t.window w = s.window w))

/-- The COLL commands and SYNC_OPEN (R162, R163, R166, R167, R185, R196, R318): an open contract stands with its parameters, those
of the expert form at their defaults under the basic opcode; a closed one stands no more, the lead's part once every other device
has closed its own; a query reports it; an identifier is bound with its operator and its step count, and unbound. -/
def Obligations.CollectiveCommandsTake : Prop :=
  (∀ (h : SpHdr) (p : CollP) (s : State), Applies s (cmdCollOpen h p s) →
    ∃ t : State, exec (.collOpen h p) s = .next t ∧ t.contract p.ckey.toNat = some (s.contractOf h (basicPar p)) ∧
      (∀ k, k ≠ p.ckey.toNat → t.contract k = s.contract k) ∧
      t.cel.decanted = s.cel.decanted + imageBytes (s.contractOf h (basicPar p)) ∧ t.press = s.press) ∧
  (∀ (h : SpHdr) (p : CollP) (s : State), Applies s (cmdCollOpenExpert h p s) → p.pin = 0xFF →
    ∃ t : State, exec (.collOpenExpert h p) s = .next t ∧
      ∃ g, t.contract p.ckey.toNat = some { s.contractOf h p with gid := g } ∧
        (p.deadline = 0 → g = 0xFFFF) ∧ (p.deadline ≠ 0 → ∃ r ∈ t.adm.records, r.gid = g ∧
          r.claim = .contract p.ckey.toNat p.deadline.toNat ∧ r.st = .admitted)) ∧
  (∀ (h : SpHdr) (p : CollP) (s : State), Applies s (cmdCollOpenExpert h p s) → p.pin ≠ 0xFF →
    ∃ t : State, exec (.collOpenExpert h p) s = .next t ∧ (t.vat p.pin.toNat).pinned = true ∧
      ((s.vat p.pin.toNat).key = none → (t.vat p.pin.toNat).key = some p.ckey.toNat)) ∧
  (∀ (h : SpHdr) (k : BitVec 32) (s : State), Applies s (cmdCollClose h k s) →
    (∀ c, s.contract k.toNat = some c → c.pending = [] ∧ c.rounds = []) →
    (State.forwarded h = true ∨ s.contractOthers k.toNat = [] →
      ∃ t : State, exec (.collClose h k) s = .next t ∧ t.contract k.toNat = none ∧ (∀ j, j ≠ k.toNat → t.contract j = s.contract j)) ∧
    (State.forwarded h = false → s.contractOthers k.toNat ≠ [] → s.svc.phased = none →
      ∃ t : State, exec (.collClose h k) s = .next t ∧ (t.contract k.toNat).map Contract.closing = some true ∧
        ∀ f ∈ s.contractOthers k.toNat, Out.forward f h [] ∈ t.out)) ∧
  (∀ (h : SpHdr) (k a : BitVec 32) (n : BitVec 16) (c : Contract) (s : State), Applies s (cmdCollQuery h k a n s) →
    s.contract k.toNat = some c →
    ∃ t : State, exec (.collQuery h k a n) s = .next t ∧ t.vats = s.vats ∧
      (State.forwarded h = true → OnlyReplied s t ∧
        (Answerable s h (plenOf ((s.queryRecord c).map Prod.fst)) → Answered t h (okReply s h (s.queryRecord c))))) ∧
  (∀ (h : SpHdr) (p : SyncOpenP) (s : State), p.syncOp ≠ 0 → p.deadline = 0 → Applies s (cmdSyncOpen h p s) →
    let here := s.named p.devMask.toNat p.devValue.toNat
    ∃ t : State, exec (.syncOpen h p) s = .next t ∧ t.counter p.syncId.toNat =
      { op := p.syncOp.toNat, devMask := p.devMask.toNat, devValue := p.devValue.toNat,
        steps := s.diameter p.devMask.toNat p.devValue.toNat, relay := !here,
        holesAt := s.cubeHoles p.devMask.toNat p.devValue.toNat,
        slots := if here then p.slots else 0, presses := if here then p.presses else 0 } ∧
      ∀ k, k ≠ p.syncId.toNat → t.counter k = s.counter k) ∧
  (∀ (h : SpHdr) (p : SyncOpenP) (s : State), Applies s (cmdSyncUnbind h p s) →
    ∃ t : State, exec (.syncUnbind h p) s = .next t ∧ t.counter p.syncId.toNat = ({} : Counter) ∧
      ∀ k, k ≠ p.syncId.toNat → k ≠ State.syncPastOf p.syncId.toNat → t.counter k = s.counter k)

/-- R174: the FORMAT codes are those listed, of the widths and kinds of their formats, and COLL_OPEN with any other code is
refused as malformed. -/
def Obligations.OtherFormatCodesAreMalformed : Prop :=
  (∀ f : Nat, formatOk f = true ↔
    f ∈ [0x01, 0x02, 0x03, 0x10, 0x11, 0x12, 0x13, 0x20, 0x21, 0x22, 0x23, 0x28, 0x29, 0x2A, 0x2B, 0x30, 0x31]) ∧
  [0x01, 0x02, 0x03].map fmtBits = [4, 8, 16] ∧ [0x10, 0x11, 0x12, 0x13].map fmtBits = [16, 16, 32, 64] ∧
  [0x20, 0x21, 0x22, 0x23].map fmtBits = [8, 16, 32, 64] ∧ [0x28, 0x29, 0x2A, 0x2B].map fmtBits = [8, 16, 32, 64] ∧
  (∀ f : Nat, (fmtLg f = true ↔ f ∈ [1, 2, 3]) ∧ (fmtIeee f = true ↔ f ∈ [0x10, 0x11, 0x12, 0x13]) ∧
    (fmtInt f = true ↔ f ∈ [0x20, 0x21, 0x22, 0x23, 0x28, 0x29, 0x2A, 0x2B]) ∧ (fmtAcc f = true ↔ f ∈ [0x30, 0x31])) ∧
  (∀ (h : SpHdr) (p : CollP) (s : State), s.serving h = true → s.mustWait h = false → (h.src < 4 → s.otherTarget h = none) →
    (formatOk p.format.toNat = false → ∃ f : Fail, exec (.collOpen h p) s = .next (s.refuse h f) ∧ f.status / 256 = 1) ∧
    ((∃ g ∈ segsOf p, formatOk g.format.toNat = false) →
      ∃ f : Fail, exec (.collOpenExpert h p) s = .next (s.refuse h f) ∧ f.status / 256 = 1))

/-- A good flit with the expected SEQ is accepted whole: expected SEQ advances, the receiver is NORMAL again, its sync slot is
handed on, its payload lands against one credit, and the credits it returns are added (R75, R78, R79, R133). With any other SEQ
only its ACK is used (R75). One that fails its CRC is a bad flit (R70, R72). Retry (R75, R76): a bad flit in NORMAL asks for a
retry that names the expected SEQ; the timer asks again up to four times and then the link retrains, as it does at the eighth bad
flit in a row (R90); during bring-up it ends a run of good TRAINING flits (R85); a RETRY_REQ replays from the SEQ it names, and
none for the next SEQ; an ACK that has stood for 10 us replays all. -/
def Obligations.FlitsAreAcceptedInOrderOrRetried : Prop :=
  ((∀ (l : Fin 256) (f : Flit) (c : Tab Nat) (s : State), (s.link l.val).st = .active → (s.link l.val).rxLow = false →
    goodCrc f = true → f.ftype = 1 → f.seq = (s.link l.val).rxSeq →
    let k := s.link l.val
    let v := f.pvc.toNat
    let r := landSlots f.slots (look 0 k.rxLeft v) false
    r.2.2 = false → (r.1 ≠ [] → 0 < look 0 k.farCredits v) →
    ∃ t, exec (.sequencedFlitReceive l f c) s = .next t ∧ (t.link l.val).rxSeq = k.rxSeq + 1 ∧ (t.link l.val).requests = 0 ∧
      (t.link l.val).st = .active ∧ (f.sync.op ≠ 0 → .handedSync l.val f.sync ∈ t.out) ∧
      look [] (t.link l.val).landing v = look [] k.landing v ++ (if r.1 = [] then [] else [r.1]) ∧
      look 0 (t.link l.val).farCredits v = look 0 k.farCredits v - (if r.1 = [] then 0 else 1) ∧
      ∀ n < 16, look 0 (t.link l.val).credits n =
        look 0 k.credits n + ((f.credits.filter fun e => e.1 = n).map Prod.snd).sum) ∧
  (∀ (l : Fin 256) (f : Flit) (c : Tab Nat) (s : State), (s.link l.val).st = .active → (s.link l.val).rxLow = false →
    goodCrc f = true → f.ftype = 1 → f.seq ≠ (s.link l.val).rxSeq →
    ∃ t, exec (.sequencedFlitReceive l f c) s = .next t ∧ (t.link l.val).rxSeq = (s.link l.val).rxSeq ∧
      (t.link l.val).landing = (s.link l.val).landing ∧ (t.link l.val).credits = (s.link l.val).credits) ∧
  (∀ (l : Fin 256) (f : Flit) (c : Tab Nat) (s : State), (s.link l.val).st = .active → (s.link l.val).rxLow = false →
    goodCrc f = false →
    ∀ i ∈ [Instr.sequencedFlitReceive l f c, .nullFlitReceive ⟨l, c⟩ f, .retryReqReceive ⟨l, c⟩ f, .idleEntryReceive ⟨l, c⟩ f],
      exec i s = exec (.badFlitReceive ⟨l, c⟩) s) ∧
  (∀ (l : Fin 256) (f : Flit) (c : Tab Nat) (s : State), (s.link l.val).st = .active → (s.link l.val).rxLow = false →
    goodCrc f = true →
    let k := s.link l.val
    let acked := linkAfter f.ack k.lastAck && k.replay.any (fun r => r.flit.seq = f.ack)
    ∃ t, exec (.nullFlitReceive ⟨l, c⟩ f) s = .next t ∧ (t.link l.val).lastAck = (if acked then f.ack else k.lastAck) ∧
      (t.link l.val).replay = (if acked then k.replay.filter (fun r => linkAfter r.flit.seq f.ack) else k.replay) ∧
      (t.link l.val).rxSeq = k.rxSeq ∧ (t.link l.val).badRun = 0) ∧
  (∀ (l : Fin 256) (f : Flit) (c : Tab Nat) (s : State), (s.link l.val).st = .active → (s.link l.val).rxLow = false →
    goodCrc f = true →
    ∃ t, exec (.idleEntryReceive ⟨l, c⟩ f) s = .next t ∧ (t.link l.val).rxLow = true ∧ (t.link l.val).rxSeq = (s.link l.val).rxSeq)) ∧
  ((∀ (l : Fin 256) (c : Tab Nat) (s : State), (s.link l.val).st = .active → (s.link l.val).rxLow = false →
    (s.link l.val).badRun < 7 →
    ∃ t, exec (.badFlitReceive ⟨l, c⟩) s = .next t ∧ (t.link l.val).rxSeq = (s.link l.val).rxSeq ∧
      (t.link l.val).badRun = (s.link l.val).badRun + 1 ∧
      ((s.link l.val).requests = 0 →
        (t.link l.val).requests = 1 ∧ (t.link l.val).reqDue = (s.link l.val).reqDue ++ [(s.link l.val).rxSeq]) ∧
      (0 < (s.link l.val).requests → (t.link l.val).requests = (s.link l.val).requests) ∧
      (t.lane (s.lowLane l.val)).bad = satAdd 64 (s.lane (s.lowLane l.val)).bad 1) ∧
  (∀ (l : Fin 256) (c : Tab Nat) (s : State), (s.link l.val).st = .active → (s.link l.val).rxLow = false → 7 ≤ (s.link l.val).badRun →
    ∃ t, exec (.badFlitReceive ⟨l, c⟩) s = .next t ∧ (Mild s (4 * (l.val / 4) + 1) → (t.link l.val).st = .lock) ∧ (t.link l.val).replay = [] ∧
      (t.link l.val).landing = [] ∧ (t.link l.val).credits = [] ∧ (t.link l.val).rxSeq = 0 ∧ (t.link l.val).txSeq = 0) ∧
  (∀ (l : Fin 256) (c : Tab Nat) (s : State), (s.link l.val).st ∈ [LinkState.base, .eq, .lock, .param] → (s.link l.val).rxLow = false →
    ∃ t, exec (.badFlitReceive ⟨l, c⟩) s = .next t ∧ (t.link l.val).goodTraining = 0 ∧ (t.link l.val).st = (s.link l.val).st ∧
      (t.lane (s.lowLane l.val)).bad = satAdd 64 (s.lane (s.lowLane l.val)).bad 1) ∧
  (∀ (l : Fin 256) (s : State), (s.link l.val).st = .active → 0 < (s.link l.val).requests → (s.link l.val).requests < 4 →
    exec (.retryTimerExpiry l) s = .next (s.setLink l.val { s.link l.val with
      requests := (s.link l.val).requests + 1
      reqDue := (s.link l.val).reqDue ++ [(s.link l.val).rxSeq] })) ∧
  (∀ (l : Fin 256) (s : State), (s.link l.val).st = .active → 4 ≤ (s.link l.val).requests →
    ∃ t, exec (.retryTimerExpiry l) s = .next t ∧ (Mild s (4 * (l.val / 4) + 1) → (t.link l.val).st = .lock) ∧ (t.link l.val).replay = []) ∧
  (∀ (l : Fin 256) (f : Flit) (c : Tab Nat) (s : State), (s.link l.val).st = .active → (s.link l.val).rxLow = false →
    goodCrc f = true →
    let k := s.link l.val
    let acked := linkAfter f.ack k.lastAck && k.replay.any (fun r => r.flit.seq = f.ack)
    let kept := fun (rs : List Replay) => if acked then rs.filter (fun r => linkAfter r.flit.seq f.ack) else rs
    let seq := BitVec.ofNat 12 (leNat ((f.slots.headD []).take 2))
    (seq = k.txSeq ∨ (kept k.replay).any (fun r => r.flit.seq = seq) = true) →
    ∃ t, exec (.retryReqReceive ⟨l, c⟩ f) s = .next t ∧ (t.link l.val).st = .active ∧ (t.link l.val).replay = kept k.replay ∧
      (t.lane (s.lowLane l.val)).retryRx = satAdd 32 (s.lane (s.lowLane l.val)).retryRx 1 ∧
      (t.link l.val).resend = if seq = k.txSeq then kept k.resend else (kept k.replay).dropWhile (fun r => r.flit.seq ≠ seq)) ∧
  (∀ (l : Fin 256) (s : State), (s.link l.val).st = .active → (s.link l.val).replay ≠ [] →
    (s.link l.val).ackAt + 10000 ≤ State.mono s →
    exec (.ackStallReplay l) s = .next (s.setLink l.val { s.link l.val with
      resend := (s.link l.val).replay
      ackAt := State.mono s })))

/-- What an ACTIVE transmitter sends (R65, R66, R68, R75, R76): a RATE_MATCH flit after 1,023 others, a RETRY_REQ that is due,
with the SEQ that was expected when it was asked for, buffered flits while a replay runs, a NULL flit when it has nothing, and a
SEQUENCED flit with the next SEQ for a waiting sync slot, which the replay buffer keeps (R74). Each carries the ACK of the last
flit received in order, and its CRC (R70). Electrical idle (R89): four IDLE_ENTRY flits, with a RATE_MATCH among them where one is
due (R65), and then idle, once the conditions have held for the delay; a wake sends the burst and at least one RELOCK flit; the
far burst ends the receiver's low power. -/
def Obligations.TransmittersFollowTheirQueues : Prop :=
  ((∀ (l : Fin 256) (s : State), (s.link l.val).st = .active → (s.link l.val).txIdle = false → (s.link l.val).relock = none →
    (1023 ≤ (s.link l.val).sinceRm → exec (.flitSend l) s = exec (.rateMatchSend l) s) ∧
    ∃ t f, exec (.rateMatchSend l) s = .next t ∧ t.out = .flit l.val f none :: s.out ∧ f.ftype = 3 ∧
      f.slots = List.replicate 37 (List.replicate 16 0xA5) ∧ f.timeTx = BitVec.allOnes 64 ∧ goodCrc f = true ∧
      t = { s.setLink l.val { s.link l.val with sinceRm := 0 } with out := t.out }) ∧
  (∀ (l : Fin 256) (s : State), (s.link l.val).st = .active → (s.link l.val).txIdle = false → (s.link l.val).relock = none →
    (s.link l.val).sinceRm < 1023 → (s.link l.val).reqDue = [] → (s.link l.val).resend = [] → (s.link l.val).syncOut = [] →
    (s.link l.val).owed = [] → (s.link l.val).txSlots = [] →
    ∃ t f, exec (.flitSend l) s = .next t ∧ t.out = .flit l.val f none :: s.out ∧ f.ftype = 0 ∧ f.slots = [] ∧ f.sync = {} ∧
      goodCrc f = true ∧
      f.ack = (s.link l.val).rxSeq - 1 ∧
      (f.timeTx = if (s.link l.val).zp5208 then BitVec.allOnes 64 else s.timeTx) ∧
      (t.link l.val).txSeq = (s.link l.val).txSeq ∧ (t.link l.val).replay = (s.link l.val).replay) ∧
  (∀ (l : Fin 256) (x : SyncSlot) (xs : List SyncSlot) (s : State), (s.link l.val).st = .active → (s.link l.val).txIdle = false →
    (s.link l.val).relock = none → (s.link l.val).sinceRm < 1023 → (s.link l.val).reqDue = [] → (s.link l.val).resend = [] →
    (s.link l.val).syncOut = x :: xs → (s.link l.val).replay.length < s.replayDepth l.val →
    ∃ t f i, exec (.flitSend l) s = .next t ∧ .flit l.val f i ∈ t.out ∧ f.ftype = 1 ∧ f.sync = x ∧
      f.seq = (s.link l.val).txSeq ∧ f.ack = (s.link l.val).rxSeq - 1 ∧ (t.link l.val).syncOut = xs ∧
      (t.link l.val).txSeq = (s.link l.val).txSeq + 1 ∧ (t.link l.val).replay.length = (s.link l.val).replay.length + 1) ∧
  (∀ (l : Fin 256) (r : Replay) (rs : List Replay) (s : State), (s.link l.val).st = .active → (s.link l.val).txIdle = false →
    (s.link l.val).relock = none → (s.link l.val).sinceRm < 1023 → (s.link l.val).reqDue = [] →
    (s.link l.val).resend = r :: rs →
    ∃ t f i, exec (.flitSend l) s = .next t ∧ .flit l.val f i ∈ t.out ∧ f.seq = r.flit.seq ∧ f.slots = r.flit.slots ∧
      f.sync = r.flit.sync ∧ f.ack = (s.link l.val).rxSeq - 1 ∧ (t.link l.val).resend = rs ∧
      (t.link l.val).txSeq = (s.link l.val).txSeq) ∧
  (∀ (l : Fin 256) (q : BitVec 12) (qs : List (BitVec 12)) (s : State), (s.link l.val).st = .active → (s.link l.val).txIdle = false →
    (s.link l.val).relock = none → (s.link l.val).sinceRm < 1023 → (s.link l.val).reqDue = q :: qs →
    ∃ t f, exec (.flitSend l) s = .next t ∧ .flit l.val f none ∈ t.out ∧ f.ftype = 2 ∧
      f.slots = [leBytes 2 q.toNat ++ List.replicate 14 0] ∧
      (s.severity (4 * (l.val / 4) + 3) ≤ 2 → (t.link l.val).reqDue = qs ∧
        (t.lane (s.lowLane l.val)).retryTx = satAdd 32 (s.lane (s.lowLane l.val)).retryTx 1)) ∧
  (∀ (l : Fin 256) (early : Bool) (c : Tab Nat) (s : State), (s.link l.val).st = .active → (s.link l.val).rxLow = false →
    ∃ t, exec (.rateMatchReceive ⟨l, c⟩ early) s = .next t ∧ (t.link l.val) = { s.link l.val with badRun := 0 } ∧
      (t.lane (s.lowLane l.val)).rmDeleted =
        if early then satAdd 32 (s.lane (s.lowLane l.val)).rmDeleted 1 else (s.lane (s.lowLane l.val)).rmDeleted)) ∧
  ((∀ (l : Fin 256) (s : State), (s.link l.val).st = .active → (s.link l.val).txIdle = false →
    (s.port (l.val / 4)).idleEn = true → s.idleOk l.val = true →
    (s.link l.val).lastSeq + (s.port (l.val / 4)).idleDelay * 1000 ≤ State.mono s →
    ∃ t fs, exec (.idleDelayExpiry l) s = .next t ∧ (t.link l.val).txIdle = true ∧ t.out = .electricalIdle l.val :: fs ++ s.out ∧
      (∀ o ∈ fs, ∃ f, o = .flit l.val f none ∧ (f.ftype = 4 ∨ f.ftype = 3)) ∧
      ((s.link l.val).sinceRm < 1020 → fs.length = 4 ∧ ∀ o ∈ fs, ∃ f, o = .flit l.val f none ∧ f.ftype = 4)) ∧
  (∀ (l : Fin 256) (s : State), (s.link l.val).st = .active → (s.link l.val).txIdle = true → s.idleOk l.val = false →
    ∃ t x, exec (.idleWake l) s = .next t ∧ (t.link l.val).txIdle = false ∧ .wakeBurst l.val ∈ t.out ∧
      .training l.val x ∈ t.out ∧ x.tphase = 5) ∧
  (∀ (l : Fin 256) (s : State),
    exec (.wakeBurstReceive l) s = .next (s.setLink l.val { s.link l.val with rxLow := false })))

/-- Bring-up (R85, R87, R88): lanes found present start BASE; a BASE flit that shares a rate and a width starts EQ at the highest
of each; the sixteenth good TRAINING flit in LOCK starts PARAM; a timeout falls back as the table says. Lanes (R92, R93): a signal
lost fails its lane with LANE_DEGRADED; FOM is min(65535, 1536 x the smallest eye height); a scan's end leaves its counts. -/
def Obligations.BringUpFollowsItsStates : Prop :=
  ((∀ (l : Fin 256) (s : State), (s.link l.val).st = .detect → (s.port (l.val / 4)).held = false →
    s.domActive (4 + l.val / 32) = true → l.val ∈ s.linksOf (l.val / 4) → (∀ i < 4, s.healthy l.val i = true) →
    ∃ t, exec (.laneDetect l 15) s = .next t ∧ (t.link l.val).st = .base ∧ (t.link l.val).rate = 0 ∧
      (t.link l.val).width = s.splitWidth (l.val / 4) ∧ (t.link l.val).tryRate = (s.port (l.val / 4)).rate) ∧
  (∀ (l : Fin 256) (x : Training) (c : Tab Nat) (r w : Nat) (s : State), (s.link l.val).st = .base → x.tphase = 1 →
    commonRate (s.link l.val).tryRate x.rates (x.mode = 1) = some r → commonWidth (s.link l.val).width x.widths = some w →
    ∃ t, exec (.trainingFlitReceive ⟨l, c⟩ x) s = .next t ∧ ((t.link l.val).st = .eq ∨ (t.link l.val).st = .lock) ∧
      (t.link l.val).rate = r ∧ (t.link l.val).width = w ∧ (t.link l.val).zp5208 = decide (x.mode = 1)) ∧
  (∀ (l : Fin 256) (x : Training) (c : Tab Nat) (s : State), (s.link l.val).st = .lock →
    ∃ t, exec (.trainingFlitReceive ⟨l, c⟩ x) s = .next t ∧ (t.link l.val).goodTraining = (s.link l.val).goodTraining + 1 ∧
      (t.link l.val).st = if 15 ≤ (s.link l.val).goodTraining then .param else .lock) ∧
  (∀ (l : Fin 256) (s : State),
    ((s.link l.val).st = .base → exec (.bringupTimeout l) s = .next (s.setLink l.val { s.link l.val with st := .detect })) ∧
    ((s.link l.val).st = .eq → 0 < (s.link l.val).tryRate →
      exec (.bringupTimeout l) s = .next (s.setLink l.val { s.link l.val with
        st := .base
        tryRate := (s.link l.val).tryRate - 1
        rate := 0 })) ∧
    ((s.link l.val).st = .eq → (s.link l.val).tryRate = 0 →
      ∃ t, exec (.bringupTimeout l) s = .next t ∧ (Mild s (4 * (l.val / 4) + 1) → (t.link l.val).st = .down) ∧ look false t.faults.level (4 * (l.val / 4) + 1) = true) ∧
    ((s.link l.val).st = .lock → ∃ t, exec (.bringupTimeout l) s = .next t ∧ (t.link l.val).st = .eq) ∧
    ((s.link l.val).st = .param → ∃ t, exec (.bringupTimeout l) s = .next t ∧ (t.link l.val).st = .lock)) ∧
  (∀ (l : Fin 256) (s : State), (s.link l.val).st = .param → 3 ≤ (s.link l.val).paramSent → 1 ≤ (s.link l.val).paramRecv →
    (s.link l.val).sinceRm < 1023 →
    ∃ t x, exec (.flitSend l) s = .next t ∧ (t.link l.val).st = .active ∧ .training l.val x ∈ t.out ∧ x.tphase = 4 ∧
      (t.link l.val).credits = (s.link l.val).credits)) ∧
  ((∀ (n : Fin 256) (s : State), (s.lane n.val).failed = false →
    ∃ t, exec (.lossOfSignal n) s = .next t ∧ (t.lane n.val).failed = true ∧ look false t.faults.level (4 * (n.val / 4)) = true ∧
      ∀ m ≠ n.val, t.lane m = s.lane m) ∧
  (∀ (n : Fin 256) (height : Nat) (s : State), (s.lane n.val).failed = false → (s.lane n.val).scan = false →
    (s.link (s.linkOfLane n.val)).st = .active → (s.lane n.val).fomMin ≤ min 65535 (1536 * height) →
    ∃ t, exec (.fomSample n height 0 1) s = .next t ∧
      t.lane n.val = { s.lane n.val with fom := min 65535 (1536 * height), lowSince := none }) ∧
  (∀ (n : Fin 256) (cs : List Nat) (s : State), (s.lane n.val).scan = true →
    ∃ t, exec (.eyescanDone n cs) s = .next t ∧ OnlyReplied { s with links := t.links } t ∧ (t.lane n.val).scan = false ∧
      (∀ i < 8192, look 0 (t.lane n.val).counts i = min (2 ^ 32 - 1) (cs.getD i 0)) ∧
      (∀ h, (s.lane n.val).scanFor = some h → Answerable s h 0 → Answered t h (s.message h true 0))))

/-- R87: of the rates that this link may try and that the far end supports the highest is taken from BASE to EQ, 448 Gb/s not in
ZP5208 mode (R95); when EQ fails at 56 Gb/s the link stays down and FS 4p + 1 is set. -/
def Obligations.HigherRatesAreTriedFirst : Prop :=
  (∀ (l : Fin 256) (x : Training) (c : Tab Nat) (q w : Nat) (s : State), (s.link l.val).st = .base → x.tphase = 1 →
    let both := fun r : Nat => r ≤ 3 ∧ r ≤ (s.link l.val).tryRate ∧ x.rates.getLsbD r = true ∧ ¬(x.mode = 1 ∧ r = 3)
    both q → commonWidth (s.link l.val).width x.widths = some w →
    ∃ (t : State) (r : Nat), exec (.trainingFlitReceive ⟨l, c⟩ x) s = .next t ∧ (t.link l.val).rate = r ∧ (t.link l.val).tryRate = r ∧
      both r ∧ ∀ k, both k → k ≤ r) ∧
  (∀ (l : Fin 256) (s : State), (s.link l.val).st = .eq → (s.link l.val).rate = 0 → (s.link l.val).tryRate = (s.link l.val).rate →
    ∃ t : State, exec (.bringupTimeout l) s = .next t ∧ (Mild s (4 * (l.val / 4) + 1) → (t.link l.val).st = .down) ∧
      look false t.faults.level (4 * (l.val / 4) + 1) = true ∧ look false t.faults.sticky (4 * (l.val / 4) + 1) = true)

/-- The header takes the lowest-numbered free cask of the smallest pool that holds the packet and has one (R135, R136). Admission
(R133, R135, R139, R140): a packet whose account and the shared pool have room takes its cask, grows U by the cask's size and SU
by the part above the guarantee, and leaves the landing FIFO; any other stays there and nothing is discarded. -/
def Obligations.PacketsAreAdmittedByTheirAccount : Prop :=
  (∀ (s : State) (b c : Nat), (∀ k < 4, s.poolCasks k ≤ 2 ^ 20) → s.findCask b = some c →
    poolFor b ≤ caskPool c ∧ caskPool c < 4 ∧ look false s.sw.closed (caskPool c) = false ∧
    c % 2 ^ 20 < s.poolCasks (caskPool c) ∧ (s.cask c).alloc = false ∧
    ∀ k i, poolFor b ≤ k → k < 4 → look false s.sw.closed k = false → i < s.poolCasks k → k * 2 ^ 20 + i < c →
      (s.cask (k * 2 ^ 20 + i)).alloc = true) ∧
  ((∀ (l : Fin 256) (vc : Fin 16) (p : Packet) (n d c : Nat) (s : State), HeadPacket s l.val vc.val n p → Transit s l.val d p →
    let a := l.val * 8 + State.cls p
    let z := caskSize (caskPool c)
    s.findCask (storedLen p) = some c → (s.account a).used + z ≤ (s.acctLimits a).2 →
    ((s.sw.shared + s.drawnPart a z : Nat) : Int) ≤ s.sharedPool →
    ∃ u : State, exec (.packetHeaderArrive l vc) s = .next (u.onward c) ∧
      exec (.admissionRetry l vc) s = .next ((u.onward c).drainOrigin) ∧
      (u.cask c).alloc = true ∧ (u.cask c).pkt = some p ∧ (u.cask c).acct = a ∧ (u.cask c).stamp = State.mono s ∧
      (u.account a).used = (s.account a).used + z ∧ u.sw.shared = s.sw.shared + s.drawnPart a z ∧
      look [] (u.link l.val).landing vc.val = (takeSlots n (look [] (s.link l.val).landing vc.val)).1 ∧
      look 0 (u.link l.val).owed vc.val =
        look 0 (s.link l.val).owed vc.val + (takeSlots n (look [] (s.link l.val).landing vc.val)).2) ∧
  (∀ (l : Fin 256) (vc : Fin 16) (p : Packet) (n d : Nat) (s : State), HeadPacket s l.val vc.val n p → Transit s l.val d p →
    (∀ c, s.admitTest (l.val * 8 + State.cls p) (storedLen p) ≠ .cask c) →
    ∃ t : State, exec (.packetHeaderArrive l vc) s = .next t ∧ t.links = s.links ∧
      (Mild s 0x100 → Mild s 0x101 → t.sw = s.sw) ∧
      (s.findCask (storedLen p) = none → look false t.faults.sticky 0x100 = true)) ∧
  (∀ (l k : Fin 256) (vc : Fin 16) (p : Packet) (c : Nat) (s : State),
    (look [] (s.link l.val).landing vc.val).flatten.length < 2 → s.sw.originWait = [([k.val], p)] →
    (s.link k.val).st = .active → s.admitTest 2049 (storedLen p) = .cask c →
    ∃ (t : State) (e : QEntry), exec (.admissionRetry l vc) s = .next t ∧ t.sw.originWait = [] ∧ e.cask = c ∧ e.dst = p.dst ∧
      (t.queue (k.val * 8 + State.cls p)).aLane = (s.queue (k.val * 8 + State.cls p)).aLane ++ [e]))

/-- A packet that waits for a channel goes when it is offered one, with the EPOCH that R113 gives it, or once its pace allows it,
its round trip measured from then (R109, R113, R122, R123); at the end of its escape wait it is discarded with FS 0x240 (R110).
The scheduler (R147-R149, R151): of the eligible queues TC7 goes first, otherwise the least start tag, the lower class on a tie;
its head leaves, the tag moves by L x 1024 / w as a 64-bit number, V takes the tag the head had, the bucket pays for L, and the
packet's slots wait for flits. That the tags wrap as V does, and that TC7 moves neither, is the model's choice (log 71). Gate
lists (R154-R156): the mask in force is that of the entry in which this time falls, cycle after cycle; a pending list takes over
at its time and runs from there. -/
def Obligations.TheScheduledHeadLeaves : Prop :=
  ((∀ (c l : Nat) (esc : Bool) (p : Packet) (s : State), (s.cask c).paceAt = none → (s.cask c).escapeSince ≠ none →
    (s.cask c).pkt = some p → (s.epochBank p.epoch).2.2 = false →
    s.choose (s.bank (s.epochBank p.epoch).1) ((s.cask c).toward.getD (State.routeTo (s.bank (s.epochBank p.epoch).1) p)) (State.cls p)
      = .take l esc →
    ∃ (t : State) (e : QEntry), exec (.packetChannelGrant c) s = .next t ∧ e.cask = c ∧ e.dst = p.dst ∧
      (t.cask c).escapeSince = none ∧ (t.cask c).pkt = some { p with epoch := (s.epochBank p.epoch).2.1, esc := esc } ∧
      (if esc then (t.queue (l * 8 + State.cls p)).eLane = (s.queue (l * 8 + State.cls p)).eLane ++ [e]
        else (t.queue (l * 8 + State.cls p)).aLane = (s.queue (l * 8 + State.cls p)).aLane ++ [e])) ∧
  (∀ (c x : Nat) (p : Packet) (s : State), (s.cask c).paceAt = some x → x ≤ State.mono s → (s.cask c).pkt = some p →
    exec (.packetChannelGrant c) s = .next
      (((s.setCask c { s.cask c with paceAt := none }).markSent (s.inKey p false) p.dcseq.toNat).onward c)) ∧
  (∀ (c x : Nat) (s : State), (s.cask c).escapeSince = some x → x + 20000 ≤ State.mono s → (s.cask c).refs = 1 →
    (s.cask c).retired = false → (s.cask c).uncharged = false →
    ∃ t : State, exec (.escapeWaitExpiry c) s = .next t ∧ (t.cask c).alloc = false ∧
      (t.account (s.cask c).acct).used = (s.account (s.cask c).acct).used - caskSize (caskPool c) ∧
      t.sw.shared = s.sw.shared - (s.cask c).drawn ∧ look false t.faults.sticky 0x240 = true)) ∧
  (∀ (l : Fin 256) (k : Nat) (e : QEntry) (esc : Bool) (p : Packet) (s : State),
    let q := l.val * 8 + k
    let u := Refilled s l.val
    k < 8 → (s.link l.val).st = .active → s.sw.originWait = [] →
    (∀ j < 8, ∀ x ∈ (s.queue (l.val * 8 + j)).eLane.take 1 ++ (s.queue (l.val * 8 + j)).aLane.take 1,
      s.aged x.cask = false ∧ ∀ y, (s.cask x.cask).pkt = some y → s.gateUnfit l.val j y = false) →
    u.eligible l.val k = some (e, esc) → (k < 7 → u.eligible l.val 7 = none) →
    (∀ j < 7, k < 7 → j ≠ k → u.eligible l.val j ≠ none →
      (s.queue q).tag < (s.queue (l.val * 8 + j)).tag ∨ ((s.queue q).tag = (s.queue (l.val * 8 + j)).tag ∧ k < j)) →
    (s.cask e.cask).pkt = some p → (s.cask e.cask).err = 0 → 1 ≤ (s.cask e.cask).refs →
    ∃ t : State, exec (.egressSelect l) s = .next t ∧
      (t.queue q).aLane = (s.queue q).aLane.erase e ∧ (t.queue q).eLane = (s.queue q).eLane.erase e ∧
      (t.queue q).tag =
        (if k = 7 then (s.queue q).tag
          else ((s.queue q).tag + (storedLen p + (s.queue q).ovh) * 1024 / (s.queue q).weight) % 2 ^ 64) ∧
      (t.link l.val).vtime = (if k = 7 then (s.link l.val).vtime else (s.queue q).tag) ∧
      ((s.queue q).rate ≠ 0 → (t.queue q).tokens = (u.queue q).tokens - (((storedLen p + (s.queue q).ovh) * 8000 : Nat) : Int)) ∧
      ∃ x : TxPacket, look [] (t.link l.val).txSlots (State.vcOf k esc) = look [] (s.link l.val).txSlots (State.vcOf k esc) ++ [x] ∧
        x.slots = packetSlots { u.leaving l.val e p with esc := esc } ∧ x.enq = some e.enq) ∧
  ((∀ (l : Fin 256) (pre post : List (Nat × Nat)) (m d n x : Nat) (s : State),
    let g := s.gate l.val
    let T := (g.live.entries.map fun e => e.2 * 10).sum
    g.live.entries = pre ++ (m, d) :: post → x < d * 10 →
    State.ns s = g.live.start + n * T + (pre.map fun e => e.2 * 10).sum + x →
    exec (.gateTransition l) s = .next (s.setGate l.val { g with mask := m })) ∧
  (∀ (l : Fin 256) (g : GateList) (x : Nat) (s : State), (s.gate l.val).next = some (g, x) → x ≤ State.ns s →
    ∃ m, exec (.gateListTakeover l) s = .next (s.setGate l.val { live := { g with start := x }, mask := m, next := none }) ∧
      (State.ns s = x → ∀ e es, g.entries = e :: es → 0 < e.2 → m = e.1)))

/-- Discards from egress queues: a head beyond the ageing limit (R146), the lees of a multicast packet (R144), and the whole queue
of an endpoint that has lacked credit beyond the ageing limit, each named to its ingress device (R129). The audit (R145): an
unreferenced cask that was taken before it began is a candidate, then freed; a referenced one that is marked free is taken again.
The scrub (R134): a corrected error is counted; an uncorrectable one retires the cask and takes it out of every queue and of its
account. -/
def Obligations.QueuesDiscardWhatIsTooOld : Prop :=
  ((∀ (l : Fin 256) (k : Fin 8) (e : QEntry) (es : List QEntry) (s : State),
    (s.queue (l.val * 8 + k.val)).eLane = [] → (s.queue (l.val * 8 + k.val)).aLane = e :: es →
    State.mono s > (s.cask e.cask).stamp + s.sw.ageing * 100000 → e.chan = none →
    ∃ t : State, exec (.ageingHeadSweep l k) s = .next t ∧ (t.queue (l.val * 8 + k.val)).aLane.length ≤ es.length ∧
      (s.queue (l.val * 8 + k.val)).aged + 1 ≤ (t.queue (l.val * 8 + k.val)).aged ∧ look false t.faults.sticky 0x120 = true) ∧
  (∀ (c x : Nat) (s : State), (s.cask c).firstLeft = some x → x + s.sw.lees * 1000 ≤ State.mono s →
    ∃ t : State, exec (.leesDiscard c) s = .next t ∧
      ∀ q, (t.queue q).aLane = (s.queue q).aLane.filter (fun e => e.cask ≠ c) ∧
        (t.queue q).eLane = (s.queue q).eLane.filter (fun e => e.cask ≠ c)) ∧
  (∀ (l : Fin 256) (k : Fin 8) (x : Nat) (s : State), (s.queue (l.val * 8 + k.val)).lackSince = some x →
    x + s.sw.ageing * 100000 < State.mono s →
    ∃ t : State, exec (.endpointQueueDiscard l k) s = .next t ∧ (t.queue (l.val * 8 + k.val)).aLane = [] ∧
      (t.queue (l.val * 8 + k.val)).eLane = [] ∧ (t.slot l.val).unresponsive = some k.val ∧
      look false t.faults.sticky 0x250 = true ∧
      ∀ e ∈ (s.queue (l.val * 8 + k.val)).eLane ++ (s.queue (l.val * 8 + k.val)).aLane, ∀ f n, e.chan = some (f, n) →
        ∃ on p, (on, p) ∈ t.sw.originWait ∧ p.ty = 0x07 ∧ p.tspec.take 5 = leBytes 4 n ++ [3])) ∧
  ((∀ (c : Nat) (s : State), canon ({} : Cask) s.sw.casks = true → (s.cask c).retired = false →
    let g := decide ((s.sw.audit + 1) % 2 = 1)
    ∃ t : State, exec .leakAudit s = .next t ∧ t.sw.audit = s.sw.audit + 1 ∧
      ((s.cask c).alloc = true → (s.cask c).gen = g → t.cask c = s.cask c) ∧
      ((s.cask c).alloc = true → (s.cask c).gen ≠ g → c ∉ s.referenced → (s.cask c).candidate = false →
        t.cask c = { s.cask c with candidate := true, gen := g }) ∧
      ((s.cask c).alloc = true → (s.cask c).gen ≠ g → c ∉ s.referenced → (s.cask c).candidate = true →
        t.cask c = {} ∧ look false t.faults.sticky 0x110 = true) ∧
      ((s.cask c).alloc = true → (s.cask c).gen ≠ g → c ∈ s.referenced →
        t.cask c = { s.cask c with candidate := false, gen := g }) ∧
      ((s.cask c).alloc = false → c ∈ s.referenced → (t.cask c).alloc = true ∧ look false t.faults.sticky 0x111 = true)) ∧
  (∀ (c : Nat) (s : State), (s.cask c).alloc = true → (s.cask c).retired = false → (s.cask c).err ≠ 2 →
    ∃ t : State, exec (.pbScrub c 1) s = .next t ∧ t.cask c = { s.cask c with err := 0 } ∧
      t.sw.pbCorrected = s.sw.pbCorrected + 1 ∧ look false t.faults.sticky 0x150 = true) ∧
  (∀ (c : Nat) (s : State), (s.cask c).err = 0 →
    ∃ t : State, exec (.pbScrub c 0) s = .next t ∧ t.sw.casks = s.sw.casks ∧ t.sw.queues = s.sw.queues) ∧
  (∀ (c : Nat) (s : State), (s.cask c).alloc = true → (s.cask c).retired = false → (s.cask c).uncharged = false →
    ∃ t : State, exec (.pbScrub c 2) s = .next t ∧ t.cask c = { alloc := true, retired := true } ∧
      t.sw.retiredBytes = s.sw.retiredBytes + caskSize (caskPool c) ∧
      (t.account (s.cask c).acct).used = (s.account (s.cask c).acct).used - caskSize (caskPool c) ∧
      t.sw.shared = s.sw.shared - (s.cask c).drawn ∧ look false t.faults.sticky 0x151 = true ∧
      ∀ q, (t.queue q).aLane = (s.queue q).aLane.filter (fun e => e.cask ≠ c)))

/-- A packet's slots give back its header and payload (R69, R82), whatever its fields. A flit's 640 bytes give back its fields
(R66), whatever they hold, and what leaves the transmitter with its CRC is good (R70, R72). -/
def Obligations.PacketSlotsReadBack : Prop :=
  (∀ p : Packet, p.tspec.length = 16 → p.payload.length ≤ 16352 →
    parseHeader ((packetSlots p).take 2).flatten = ({ p with payload := [] }, p.payload.length) ∧
    ((packetSlots p).drop 2).flatten.take p.payload.length = p.payload ∧
    (packetSlots p).length = 2 + ceilDiv p.payload.length 16 ∧ ∀ x ∈ packetSlots p, x.length = 16) ∧
  (∀ f : Flit, f.slots.length = 37 → (∀ x ∈ f.slots, x.length = 16) → canon 0 f.credits = true →
    (∀ e ∈ f.credits, e.1 < 16 ∧ e.2 < 64) →
    (flitBytes f).length = 640 ∧ flitOfBytes (flitBytes f) = f ∧ goodCrc (flitOfBytes (flitBytes (sealFlit f))) = true ∧
    (flitBytes f).drop 624 = leBytes 8 f.crc.toNat ++ leBytes 8 f.timeTx.toNat)

/-- The egress side of a channel. The reorder window (R117): a later number of the window is held, a number below it is a
duplicate that makes an EDGE_ACK due, any other draws SEQ_RANGE with EXPECTED and the number concerned (R120). BASE sets EXPECTED
and is confirmed with COUNT 0 and one number below (R121). The EDGE_ACK that is due reports the jump of ACKED (R119), and one GAP
names an EXPECTED that stays missing (R117). -/
def Obligations.TheEgressSideOrdersAndAcknowledges : Prop :=
  (∀ (f c : Nat) (p : Packet) (s : State), (s.cask c).pkt = some p → (s.egCh f).live = true → (s.egCh f).takeover = none →
    let h := s.egCh f
    let q := p.dcseq.toNat
    (0 < seqDiff q h.expected → seqDiff q h.expected < 4096 → look none h.held q = none → look none h.held h.expected = none →
      look none ((s.arrive f c).egCh f).held q = some c ∧ ((s.arrive f c).egCh f).expected = h.expected) ∧
    (2 ^ 32 - 4096 ≤ seqDiff q h.expected → q ∉ h.lost →
      (s.arrive f c) = (s.decRef c).setEgCh f { h with ackDue := true }) ∧
    (4096 ≤ seqDiff q h.expected → seqDiff q h.expected < 2 ^ 32 - 4096 →
      (s.arrive f c) = (s.decRef c).nackDevice (h.ackTo.getD f) 5 q h.expected p.ty)) ∧
  (∀ (f : BitVec 18) (e : BitVec 32) (s : State),
    ∃ (t : State) (p : Packet), exec (.edgeNackBaseReceive f e) s = .next t ∧
      t.egCh f.toNat = { live := true, expected := e.toNat, acked := e.toNat, ackTo := (s.egCh f.toNat).ackTo } ∧
      ([256], p) ∈ t.sw.originWait ∧ p.ty = 0x06 ∧ p.devt = true ∧ dstFna p = (s.egCh f.toNat).ackTo.getD f.toNat % 2 ^ 18 ∧
      p.tspec = leBytes 4 ((e.toNat + 2 ^ 32 - 1) % 2 ^ 32) ++ leBytes 12 0) ∧
  (∀ (f : BitVec 18) (s : State), (s.egCh f.toNat).ackDue = true →
    let h := s.egCh f.toNat
    let a := State.ackedPoint h
    let n := seqDiff a h.acked
    ∃ t : State, exec (.edgeAckTimer f) s = .next t ∧ (t.egCh f.toNat).acked = a ∧ (t.egCh f.toNat).ackDue = false ∧
      (t.egCh f.toNat).count = 0 ∧ (t.egCh f.toNat).expected = h.expected ∧
      (n ≤ 64 → ∃ p : Packet, t.sw.originWait = s.sw.originWait ++ [([256], p)] ∧ p.ty = 0x06 ∧ p.tc = 7 ∧
        p.tspec = leBytes 4 ((h.acked + (n + 2 ^ 32 - 1)) % 2 ^ 32) ++ leBytes 2 n ++ [0, 0] ++
          leBytes 8 (State.marksOf h ((h.acked + (n + 2 ^ 32 - 1)) % 2 ^ 32) n))) ∧
  (∀ (f : BitVec 18) (s : State), (s.egCh f.toNat).live = true → (s.egCh f.toNat).held ≠ [] →
    (s.egCh f.toNat).gapSent ≠ some (s.egCh f.toNat).expected →
    ∃ (t : State) (p : Packet), exec (.gapTimer f) s = .next t ∧
      (t.egCh f.toNat).gapSent = some (s.egCh f.toNat).expected ∧ t.sw.originWait = s.sw.originWait ++ [([256], p)] ∧
      p.ty = 0x07 ∧ p.tspec = leBytes 4 (s.egCh f.toNat).expected ++ [1, 0, 0, 0] ++ leBytes 8 0 ∧
      exec (.gapTimer f) t = .next t)

/-- The ingress side of a channel. An EDGE_ACK releases every packet up to ACK_SEQ and measures the round trip (R119, R122); COUNT
0 confirms a BASE, after which the packets kept go again in order (R121), and otherwise changes nothing (R119). SEQ_RANGE is
answered with BASE naming the oldest packet (R121), GAP with that packet (R122). An expiry resends the oldest packet and doubles
RTO up to 500 us, and the 16th fails the channel with FS 0x242 (R122). Endpoint holds (R129): a packet refused by an unresponsive
endpoint joins the hold of its endpoint outside the channel, in the order of admission, a probe at its head; the oldest held
packet goes as a probe with the channel's next number. Rate limiters (R123): each 4 us without a mark adds RATE_AI, up to
RATE_LINE; a limiter that has been at RATE_LINE for 1 ms with no mark is as at the start. Mirrors (R125): the secondary stores a
copy and confirms it; the primary then lets the packet go. -/
def Obligations.TheIngressSideRetainsAndRecovers : Prop :=
  ((∀ (e : BitVec 18) (q : BitVec 32) (n : Fin 65) (m : BitVec 64) (s : State), 0 < n.val →
    let k := s.chanOf e.toNat q.toNat
    let c := s.inCh k
    let gone := c.kept.filter (fun r => !seqAfter r.seq q.toNat)
    gone ≠ [] → (∀ r ∈ gone, r.relay = none) → look [] s.fab.takeover k = [] →
    (∀ h ∈ s.fab.holds, ∀ r ∈ gone, h.2.probe ≠ some r.seq) →
    (∀ h ∈ s.fab.holds, (s.hold h.1).marked = true ∨ (s.hold h.1).packets = []) → (∀ m ∈ s.fab.relayWait, m.1 ≠ e.toNat) →
    ∃ t : State, exec (.edgeAckReceive e q n m) s = .next t ∧
      (t.inCh k).kept = c.kept.filter (fun r => seqAfter r.seq q.toNat) ∧ (t.inCh k).expiries = 0 ∧
      (t.inCh k).next = c.next ∧ t.cel.retained = s.cel.retained - (gone.map fun r => storedLen r.pkt).sum ∧
      ((∀ r ∈ gone, r.again = true) → (t.inCh k).rto = c.rto) ∧
      (∀ r, gone = [r] → r.again = false → c.srtt = none →
        let x := (State.mono s - r.sentAt) * 65536
        (t.inCh k).srtt = some x ∧ (t.inCh k).rttvar = x / 2 ∧ (t.inCh k).rto = max 4000 ((x + 4 * (x / 2)) / 65536))) ∧
  (∀ (e : BitVec 18) (q : BitVec 32) (m : BitVec 64) (s : State),
    (s.fab.inCh.find? (fun x => State.keyEgress x.1 = e.toNat && x.2.base.isSome) = none →
      exec (.edgeAckReceive e q 0 m) s = .next s) ∧
    (∀ k c, s.fab.inCh.find? (fun x => State.keyEgress x.1 = e.toNat && x.2.base.isSome) = some (k, c) →
      (∀ r ∈ c.kept, r.cask = none ∧ r.relay = none ∧ s.mirrorPending e.toNat r.seq = false) →
      ∃ t : State, exec (.edgeAckReceive e q 0 m) s = .next t ∧ (t.inCh k).base = none ∧ (t.inCh k).baseSent = 0 ∧
        (t.inCh k).kept.map (fun r => r.pkt) = c.kept.map (fun r => r.pkt) ∧
        t.sw.originWait = s.sw.originWait ++ c.kept.map (fun r => ([257], r.pkt)))) ∧
  (∀ (e : BitVec 18) (x : BitVec 32) (s : State), (s.inCh e.toNat).live = true →
    let c := s.inCh e.toNat
    let b := ((c.kept.head?).map Retained.seq).getD c.next
    ∃ (t : State) (p : Packet), exec (.edgeNackSeqRangeReceive e x) s = .next t ∧
      t.inCh e.toNat = { c with base := some b, baseSent := c.baseSent + 1 } ∧
      t.sw.originWait = s.sw.originWait ++ [([256], p)] ∧ p.ty = 0x07 ∧ p.devt = true ∧
      p.tspec = leBytes 4 0 ++ [7, 0, 0, 0] ++ leBytes 4 b ++ leBytes 4 0) ∧
  (∀ (e : BitVec 18) (q : BitVec 32) (r : Retained) (s : State),
    let k := s.chanOf e.toNat q.toNat
    (s.inCh k).kept.find? (fun x => x.seq = q.toNat) = some r → (s.inCh k).base = none → r.unsent = false →
    ∃ t : State, exec (.edgeNackGapReceive e q) s = .next t ∧
      t.sw.originWait = s.sw.originWait ++ [([if r.relay.isSome then 258 + State.keyEgress k else 257], r.pkt)] ∧
      (t.inCh k).rto = (s.inCh k).rto ∧ (t.inCh k).kept.map (fun x => x.pkt) = (s.inCh k).kept.map (fun x => x.pkt)) ∧
  (∀ (e : BitVec 18) (k : Nat) (r : Retained) (rs : List Retained) (s : State),
    s.fab.inCh.filter (fun x => State.keyEgress x.1 = e.toNat && x.2.live) = [(k, s.inCh k)] →
    (s.inCh k).base = none → (s.inCh k).kept = r :: rs → r.unsent = false →
    ((s.inCh k).expiries < 15 →
      ∃ t : State, exec (.rtoExpiry e) s = .next t ∧ (t.inCh k).rto = min 500000 (2 * (s.inCh k).rto) ∧
        (t.inCh k).expiries = (s.inCh k).expiries + 1 ∧
        t.sw.originWait = s.sw.originWait ++ [([if r.relay.isSome then 258 + e.toNat else 257], r.pkt)]) ∧
    (15 ≤ (s.inCh k).expiries →
      ∃ t : State, exec (.rtoExpiry e) s = .next t ∧ t.inCh k = {} ∧ look false t.faults.sticky 0x242 = true))) ∧
  ((∀ (e : BitVec 18) (q : BitVec 32) (r : Retained) (s : State),
    let k := s.chanOf e.toNat q.toNat
    let a := r.pkt.dst.toNat
    (s.inCh k).kept.find? (fun x => x.seq = q.toNat) = some r → r.relay = none → storedLen r.pkt ≤ s.cel.retained →
    ∃ t : State, exec (.edgeNackUnresponsiveReceive e q) s = .next t ∧ (t.hold a).marked = true ∧
      ((s.hold a).probe = some r.seq → (t.hold a).packets = ((s.hold a).probePkt.getD r.pkt) :: (s.hold a).packets) ∧
      ((s.hold a).probe ≠ some r.seq → ∃ pre post, (s.hold a).packets = pre ++ post ∧ (t.hold a).packets = pre ++ r.pkt :: post ∧
        pre.length ≤ (s.hold a).nacked ∧ (∀ x ∈ pre, seqAfter x.dcseq.toNat r.pkt.dcseq.toNat = false) ∧
        ∀ x, (post.take ((s.hold a).nacked - pre.length)).head? = some x → seqAfter x.dcseq.toNat r.pkt.dcseq.toNat = true) ∧
      (t.inCh k).kept = (s.inCh k).kept.filter (fun x => x.seq ≠ q.toNat) ∧ t.cel.retained = s.cel.retained) ∧
  (∀ (a : BitVec 26) (p : Packet) (ps : List Packet) (s : State),
    let k := s.inKey p (!fromEndpoint p)
    (s.hold a.toNat).packets = p :: ps → (s.hold a.toNat).marked = true → (s.hold a.toNat).probe = none →
    (s.inCh k).live = true → (s.inCh k).base = none → (s.inCh k).next < 2 ^ 32 → (s.inCh k).kept.length < 4096 →
    storedLen p ≤ s.cel.retained →
    let x := { p with dcseq := BitVec.ofNat 32 (s.inCh k).next, epoch := s.fab.live }
    ∃ t : State, exec (.unresponsiveProbe a) s = .next t ∧ (t.hold a.toNat).packets = ps ∧
      (t.hold a.toNat).probe = some (s.inCh k).next ∧ (t.inCh k).next = seqAdd (s.inCh k).next 1 ∧
      t.cel.retained = s.cel.retained ∧ (s.mirrorOf p = none → t.sw.originWait = s.sw.originWait ++ [([257], x)]) ∧
      ∀ g, s.mirrorOf p = some g → t.sw.originWait = s.sw.originWait ∧ .mirror g x ∈ t.out)) ∧
  ((∀ (n : BitVec 16) (r : BitVec 64) (s : State), (s.limiter n.toNat).rate = some r →
    (∀ x, (s.limiter n.toNat).lastMark = some x → x + 4000 ≤ State.mono s) →
    let y := State.f64Add r.toNat (State.f64Div (State.f64 (s.limiter n.toNat).line) (State.f64 (2 ^ s.sw.aiShift)))
    let below := State.f64Less y (State.f64 (s.limiter n.toNat).line)
    exec (.rateLimiterTick n) s = .next (s.setLimiter n.toNat { s.limiter n.toNat with
      rate := if below then some (BitVec.ofNat 64 y) else none
      lineAt := if below then none else some ((s.limiter n.toNat).lineAt.getD (State.mono s)) })) ∧
  (∀ (n : BitVec 16) (s : State), (s.limiter n.toNat).rate = none →
    (∀ x, (s.limiter n.toNat).lastMark = some x → x + 1000000 ≤ State.mono s) →
    (∀ x, (s.limiter n.toNat).lineAt = some x → x + 1000000 ≤ State.mono s) →
    exec (.rateLimiterTick n) s =
      .next (s.setLimiter n.toNat { line := (s.limiter n.toNat).line, nextAt := (s.limiter n.toNat).nextAt })) ∧
  (∀ (e : BitVec 18) (q : BitVec 32) (p : Packet) (s : State), s.retentionRoom (storedLen p) = true →
    ∃ t : State, exec (.mirrorConfirm e q (some p)) s = .next t ∧ .mirrorAck e.toNat (dstFna p) q.toNat ∈ t.out ∧
      p ∈ look [] t.fab.mirrors ((e.toNat + 1) * 2 ^ 18 + dstFna p)) ∧
  (∀ (e : BitVec 18) (q : BitVec 32) (c : Nat) (p : Packet) (s : State),
    s.fab.mirrorWait.find? (fun m => m.1 = e.toNat && m.2.1 = q.toNat) = some (e.toNat, q.toNat, some c) →
    (s.inCh (s.chanOf e.toNat q.toNat)).base = none → (s.cask c).pkt = some p → (s.limiter (State.limiterOf p)).rate = none →
    exec (.mirrorConfirm e q none) s =
      .next (((s.setFab { s.fab with mirrorWait := s.fab.mirrorWait.erase (e.toNat, q.toNat, some c) }).markSent
        (s.inKey p false) p.dcseq.toNat).onward c)))

/-- Discovery (R104-R106): HELLO on each dimension port; a HELLO that agrees with the map is recorded and one that does not marks
the link miswired with FS 0x200; INIT ends when every port is heard or excluded (FS 0x204), ELECT at the root with its own FNA and
elsewhere with the first held COORD of the elected root, ASSIGN at its timeout in FAILED, which is replied with 0x0601 and DETAIL
2. ROOT and COORD (R106): a better candidate is taken and flooded on; two marked devices set FS 0x202; a COORD of the elected root
gives the FNA, one that comes early is held, and one that implies another FNA, held or later, marks its link miswired with FS
0x201. -/
def Obligations.DiscoveryPassesItsStates : Prop :=
  ((∀ s : State, ∃ t : State, exec .helloTimer s = .next t ∧
    t = { s with sw := t.sw } ∧ t.sw.originWait = s.sw.originWait ++
      ((s.dimPorts.filter fun p => (s.link (p * 4)).st = .active).map fun p =>
        ([p * 4], ({ ty := 0x09, tc := 7, devt := true, dst := 0, src := s.ownAddr,
                     payload := State.discBytes { s.discMsg 1 with
                       dim := BitVec.ofNat 8 ((look none s.fab.map (p * 4 / 4)).getD (0xFF, 0)).1
                       member := BitVec.ofNat 8 ((look none s.fab.map (p * 4 / 4)).getD (0xFF, 0)).2 } } : Packet)))) ∧
  (∀ (p : Fin 64) (m : DiscMsg) (d k : Nat) (s : State), m.msg = 1 → s.portDim p.val = some (d, k) → s.fab.disc ≠ .init →
    (m.dim.toNat = d → m.member.toNat = k → m.twisted = s.fab.twisted → m.ndim.toNat = s.fab.ndim → (s.dim d).down = false →
      exec (.helloReceive p m) s = .next ((s.setPort p.val { s.port p.val with hello := true }).setDim d
        { s.dim d with helloAt := some (State.mono s), serial := m.serial })) ∧
    ((m.dim.toNat ≠ d ∨ m.member.toNat ≠ k ∨ m.twisted ≠ s.fab.twisted ∨ m.ndim.toNat ≠ s.fab.ndim) →
      ∃ (t : State) (far : Nat), exec (.helloReceive p m) s = .next t ∧ (t.dim d).miswired = true ∧
        look false t.faults.sticky 0x200 = true ∧ t.fab.log = s.fab.log ++ [(s.ident.serial, m.serial, p.val, far)])) ∧
  (∀ s : State, s.fab.disc = .init →
    ∃ t : State, exec .initTimeout s = .next t ∧ t.fab.disc = .elect ∧
      ∀ p ∈ s.dimPorts, (s.link (p * 4)).st = .active → (s.port p).hello = false →
        (t.port p).excluded = true ∧ look false t.faults.sticky 0x204 = true) ∧
  (∀ s : State, s.fab.disc = .elect → (∀ d < s.fab.ndim, s.dimUp d = true) →
    (s.fab.root.1 = s.ident.serial →
      ∃ t : State, exec .electQuiet s = .next t ∧ t.fab.fna = some s.fab.rootFna ∧ t.fab.disc = .ready) ∧
    (∀ pre p m post d k, s.fab.root.1 ≠ s.ident.serial → s.fab.coords = pre ++ (p, m) :: post →
      (∀ c ∈ pre, c.2.rootSerial ≠ s.fab.root.1) → m.rootSerial = s.fab.root.1 → s.portDim p = some (d, k) →
      (s.dim d).miswired = false →
      ∃ t : State, exec .electQuiet s = .next t ∧ t.fab.fna = some (s.partner m.fna.toNat d) ∧ t.fab.disc = .ready ∧
        ∀ x ∈ post, ∀ e j, x.2.rootSerial = s.fab.root.1 → s.portDim x.1 = some (e, j) →
          s.partner x.2.fna.toNat e ≠ s.partner m.fna.toNat d → (t.dim e).miswired = true) ∧
    (s.fab.root.1 ≠ s.ident.serial → (∀ c ∈ s.fab.coords, c.2.rootSerial ≠ s.fab.root.1) →
      exec .electQuiet s = .next (s.setFab { s.fab with disc := .assign, coords := [] }))) ∧
  (∀ (h : SpHdr) (s : State), s.fab.disc = .assign → s.fab.discFor = some h →
    Answerable s h (plenOf [32, 8, 64, 32]) →
    ∃ t : State, exec .assignTimeout s = .next t ∧ t.fab.disc = .failed ∧ t.fab.fna = none ∧ t.fab.discFor = none ∧
      look false t.faults.sticky 0x204 = true ∧
      Answered t h { (s.setFab { s.fab with fna := none }).message h false 0x0601 with
        detail := 2
        params := [(32, 0), (8, s.fab.ndim), (64, s.fab.root.1.toNat), (32, (s.fab.holes.filter Prod.snd).length)] })) ∧
  ((∀ (p : Fin 64) (m : DiscMsg) (s : State), m.msg = 2 → s.portDim p.val ≠ none → s.fab.disc = .init ∨ s.fab.disc = .elect →
    s.fab.marked = false →
    (State.betterRoot (m.rootSerial, m.rootMarked) (s.fab.root.1, s.fab.root.2.1) = true →
      ∃ t : State, exec (.rootReceive p m) s = .next t ∧ t.fab.root = (m.rootSerial, m.rootMarked, m.rootHops + 1) ∧
        t.fab.disc = s.fab.disc ∧
        ∀ q ∈ s.fab.map.filterMap (fun e => e.2.map fun _ => e.1), q ≠ p.val →
          ∃ on x, (on, x) ∈ t.sw.originWait ∧ q * 4 ∈ on ∧ p.val * 4 ∉ on ∧ x.ty = 0x09 ∧
            x.payload.getD 0 0 = 2 ∧ (x.payload.drop 20).take 8 = leBytes 8 m.rootSerial.toNat) ∧
    (State.betterRoot (m.rootSerial, m.rootMarked) (s.fab.root.1, s.fab.root.2.1) = false →
      (m.rootMarked = true → m.rootSerial ∈ s.fab.seenMarked) → exec (.rootReceive p m) s = .next s)) ∧
  (∀ (p : Fin 64) (m : DiscMsg) (s : State), m.msg = 2 → s.portDim p.val ≠ none → s.fab.disc ≠ .idle → s.fab.marked = true →
    m.rootMarked = true → m.rootSerial ≠ s.ident.serial →
    ∃ t : State, exec (.rootReceive p m) s = .next t ∧ look false t.faults.sticky 0x202 = true) ∧
  (∀ (p : Fin 64) (m : DiscMsg) (d k : Nat) (s : State), m.msg = 3 → m.fnaValid = true → s.portDim p.val = some (d, k) →
    (s.dim d).miswired = false →
    (s.fab.disc = .init ∨ s.fab.disc = .elect → exec (.coordReceive p m) s =
      .next (s.setFab { s.fab with coords := s.fab.coords ++ [(p.val, m)] })) ∧
    (s.fab.disc = .assign → m.rootSerial = s.fab.root.1 → (∀ d < s.fab.ndim, s.dimUp d = true) →
      ∃ t : State, exec (.coordReceive p m) s = .next t ∧ t.fab.fna = some (s.partner m.fna.toNat d) ∧ t.fab.disc = .ready) ∧
    (s.fab.disc = .ready → m.rootSerial = s.fab.root.1 → s.partner m.fna.toNat d ≠ s.own →
      ∃ t : State, exec (.coordReceive p m) s = .next t ∧ (t.dim d).miswired = true ∧ t.fab.fna = s.fab.fna ∧
        look false t.faults.sticky 0x201 = true)))

/-- Holes (R100): 3 ms without HELLO, or every bundle member down, makes the partner a hole with FS 0x210; a notice makes a hole
of its subject with FS 0x211, or clears it; a device that hears that it is a hole denies it. Every change makes the table's
recomputation due (R108). Endpoints (R124, R126): the first ANNOUNCE of an identity is answered with ASSIGN, at once in READY and
later otherwise; a second port with it that is not one of a configured pair is quarantined with FS 0x2C0. A partner of a failed
position enters a REDIRECT in both banks; a TAKEOVER is passed on once, and the egress device whose channel it continues keeps its
number. Epochs (R112, R113): at the commit time the staged bank is live; the old
one is freed 50 us later. -/
def Obligations.HolesEndpointsAndEpochsFollowTheirRules : Prop :=
  ((∀ (d : Fin 18) (x u : Nat) (s : State), s.fab.fna = some u → (s.dim d.val).down = false →
    ((s.dim d.val).helloAt = some x → x + 3000000 ≤ State.mono s →
      ∃ t : State, exec (.helloTimeout d) s = .next t ∧ (t.dim d.val).down = true ∧
        look false t.fab.holes (s.partner u d.val) = true ∧ look false t.faults.sticky 0x210 = true) ∧
    (s.bundle d.val ≠ [] → (∀ p ∈ s.bundle d.val, (s.link (p * 4)).st ≠ .active) →
      ∃ t : State, exec (.bundleDown d) s = .next t ∧ (t.dim d.val).down = true ∧
        look false t.fab.holes (s.partner u d.val) = true ∧ look false t.faults.sticky 0x210 = true)) ∧
  (∀ (p : Fin 64) (m : DiscMsg) (s : State), m.msg = 4 → s.portDim p.val ≠ none → m.subject.toNat < 2 ^ s.fab.ndim →
    (m.value.getLsbD 0 = false → s.fab.fna ≠ some m.subject.toNat → look false s.fab.holes m.subject.toNat = false →
      ∃ t : State, exec (.holeReceive p m) s = .next t ∧ look false t.fab.holes m.subject.toNat = true ∧
        t.fab.recompute = true ∧ look false t.faults.sticky 0x211 = true) ∧
    (m.value.getLsbD 0 = true → look false s.fab.holes m.subject.toNat = true →
      ∃ t : State, exec (.holeReceive p m) s = .next t ∧ look false t.fab.holes m.subject.toNat = false ∧
        t.fab.recompute = true) ∧
    (m.value.getLsbD 0 = false → s.fab.fna = some m.subject.toNat → s.ctl.quiesced = false →
      exec (.holeReceive p m) s = .next (s.floodDisc 64 (s.holeMsg m.subject.toNat true)))) ∧
  (∀ s : State, s.fab.recompute = true →
    ∃ t : State, exec .tableRecomputeDone s = .next t ∧ t.fab.recompute = false ∧ ∀ e,
      t.bank e = { s.bank e with holes :=
        if (s.bank e).explicit = false ∧ (e = s.fab.live ∨ s.fab.session = true) then s.fab.holes else (s.bank e).holes })) ∧
  ((∀ (l : Fin 256) (m : DiscMsg) (s : State), m.msg = 5 → s.linkDim l.val = none → (s.slot l.val).quarantined = false →
    (s.port (l.val / 4)).quarantined = false → m.serial ≠ 0 →
    ((∀ e ∈ s.fab.slots, e.1 ≠ l.val → e.2.identity ≠ some m.serial) →
      (s.fab.disc = .ready → ∀ a, ({ s with fab := { s.fab with slots := put {} s.fab.slots l.val { s.slot l.val with
            identity := some m.serial } } } : State).slotAddress l.val = some a →
        ∃ (t : State) (p : Packet), exec (.announceReceive l m) s = .next t ∧ (t.slot l.val).assigned = true ∧
          (t.slot l.val).identity = some m.serial ∧ t.sw.originWait = s.sw.originWait ++ [([l.val], p)] ∧ p.ty = 0x09 ∧
          p.devt = false ∧ p.dst = BitVec.ofNat 26 a ∧ p.payload.getD 0 0 = 6) ∧
      (s.fab.disc ≠ .ready →
        ∃ t : State, exec (.announceReceive l m) s = .next t ∧ (t.slot l.val).held = true ∧
          (t.slot l.val).identity = some m.serial ∧ t.sw = s.sw)) ∧
    (∀ e ∈ s.fab.slots, e.1 ≠ l.val → e.2.identity = some m.serial → e.2.quarantined = false →
      (∀ x, look none s.fab.dual m.serial.toNat = some x → l.val / 4 ∉ s.pairPorts x) →
      ∃ t : State, exec (.announceReceive l m) s = .next t ∧ (t.slot l.val).quarantined = true ∧
        (t.slot l.val).assigned = false ∧ look false t.faults.sticky 0x2C0 = true ∧ (Mild s 0x2C0 → t.sw = s.sw))) ∧
  (∀ (p : Fin 64) (m : DiscMsg) (d : Nat) (s : State), m.msg = 7 → s.portDim p.val ≠ none → d < s.fab.ndim →
    s.partner s.own d = m.subject.toNat / 256 → s.own ≠ m.fna.toNat → (7, m.subject.toNat, m.fna.toNat) ∉ s.fab.seen →
    ∃ t : State, exec (.redirectReceive p m) s = .next t ∧
      look none t.fab.bank0.redirects m.subject.toNat = some m.fna.toNat ∧
      look none t.fab.bank1.redirects m.subject.toNat = some m.fna.toNat) ∧
  (∀ (p : Fin 64) (m : DiscMsg) (s : State), m.msg = 8 → s.portDim p.val ≠ none →
    let f := m.subject.toNat
    let h := s.egCh f
    ((8, f, m.value.toNat) ∈ s.fab.seen → exec (.takeoverReceive ⟨p, m⟩) s = .next s) ∧
    ((8, f, m.value.toNat) ∉ s.fab.seen →
      ∃ t : State, exec (.takeoverReceive ⟨p, m⟩) s = .next t ∧
        t.egCh f = (if s.takeoverFits f m.value.toNat then { h with takeover := some m.value.toNat, ackTo := some m.fna.toNat } else h) ∧
        ∀ q ∈ s.fab.map.filterMap (fun e => e.2.map fun _ => e.1), q ≠ p.val →
          ∃ on x, (on, x) ∈ t.sw.originWait ∧ q * 4 ∈ on ∧ p.val * 4 ∉ on ∧ x.ty = 0x09 ∧ x.payload.getD 0 0 = 8)) ∧
  (∀ (x : Nat) (f : Bool) (s : State), s.fab.commit = some (x, f) →
    (x ≤ State.ns s → ∃ t : State, exec .epochCommitTime s = .next t ∧ t.fab.live = !s.fab.live ∧ t.fab.oldHeld = true ∧
      t.fab.commit = none ∧ t.fab.session = false ∧ t.fab.bank0 = s.fab.bank0 ∧ t.fab.bank1 = s.fab.bank1) ∧
    (State.ns s < x → exec .epochCommitTime s = .next s)) ∧
  (∀ s : State, s.fab.oldHeld = true → s.fab.commitAt + 50000 ≤ State.mono s → s.fab.commitFor = [] →
    exec .epochBankFree s = .next (s.setFab { s.fab with oldHeld := false, commitFor := [] })))

/-- The partner of a partner is the position itself, in both variants, and crossing dimension d changes bit d and no bit below it
(R99). -/
def Obligations.PartnersAreMutual : Prop :=
  ∀ (twisted : Bool) (n u d : Nat), d < n →
    State.partnerOf twisted n (State.partnerOf twisted n u d) d = u ∧
    bit (State.partnerOf twisted n u d) d = !bit u d ∧
    (∀ k < d, bit (State.partnerOf twisted n u d) k = bit u k) ∧
    (u < 2 ^ n → State.partnerOf twisted n u d < 2 ^ n)

/-- A CONTRIB or RESULT packet carries the contribution it was made from: its fields read back, its data padded to whole slots
(R169). -/
def Obligations.ContributionsReadBack : Prop :=
  ∀ (r : Bool) (tc : Nat) (dst src : BitVec 26) (x : ContribP) (ch : Option (Nat × Nat)),
    contribOf (pourPacket r tc dst src x) ch =
      { x with chan := ch, data := x.data ++ List.replicate (ceilDiv x.data.length 16 * 16 - x.data.length) 0 }

/-- Judging a contribution (R167, R170, R171): to no contract FS 0x600, malformed FS 0x601, a repeated one is counted; one that
can be taken enters its pour's bitmap, a new pour's with a cask reserved on the VAT account (R172), an exact partial once its last
packet is here; one beyond the window waits. That an exact partial may take several packets is the model's choice (log 31).
Contributions that wait (R170): each is tried again in order, and one older than the ageing limit is discarded with FS 0x120. -/
def Obligations.ContributionsCountOnce : Prop :=
  ((∀ (x : ContribP) (s : State), s.contract x.ckey.toNat = none →
    ∃ t : State, exec (.contribReceive x) s = .next t ∧ t.vats = s.vats ∧ look false t.faults.sticky 0x600 = true) ∧
  (∀ (x : ContribP) (c : Contract) (s : State), s.contract x.ckey.toNat = some c → c.failed = false → s.contribBad c x = true →
    ∃ t : State, exec (.contribReceive x) s = .next t ∧ t.vats = s.vats ∧ look false t.faults.sticky 0x601 = true) ∧
  (∀ (x : ContribP) (c : Contract) (s : State), s.contract x.ckey.toNat = some c → c.failed = false → s.contribBad c x = false →
    x.phase = 0 →
    (State.pourOf c x.round.toNat x.pour.toNat).done = true ∨
      (State.pourOf c x.round.toNat x.pour.toNat).bitmap.getLsbD (contribBit x) = true →
    ∃ t : State, exec (.contribReceive x) s = .next t ∧ t.contract x.ckey.toNat = some { c with duplicates := c.duplicates + 1 }) ∧
  (∀ (x : ContribP) (c : Contract) (g : Geo) (s : State), Takeable s c x → geoOf c x.pour.toNat = some g →
    let p := State.pourOf c x.round.toNat x.pour.toNat
    let whole := g.elems * exactSize g.seg.format.toNat
    let data := if State.exactPiece g x then
        ((((look none p.inputs (contribBit x)).map ContribP.data).getD []) ++ x.data).take whole else x.data
    let bits := if State.exactPiece g x ∧ data.length < whole then p.bitmap
      else p.bitmap ||| BitVec.ofNat 384 (2 ^ contribBit x)
    (p.bitmap ≠ 0 →
      ∃ (t : State) (d : Contract), exec (.contribReceive x) s = .next t ∧ t.contract x.ckey.toNat = some d ∧
        (State.pourOf d x.round.toNat x.pour.toNat).bitmap = bits ∧
        look none (State.pourOf d x.round.toNat x.pour.toNat).inputs (contribBit x) = some { x with chan := none, data := data } ∧
        d.duplicates = c.duplicates ∧ d.nextRound = c.nextRound) ∧
    (∀ k, p.bitmap = 0 → p.out = none → p.inputs = [] → c.par.tapMode ≠ 1 → s.admitTest 2048 4096 = .cask k →
      (x.round.toNat + 65536 - c.nextRound) % 65536 * roundPours c + x.pour.toNat < State.lowestOpen c + c.window →
      ∃ (t : State) (d : Contract), exec (.contribReceive x) s = .next t ∧ t.contract x.ckey.toNat = some d ∧
        (State.pourOf d x.round.toNat x.pour.toNat).bitmap = bits ∧
        (State.pourOf d x.round.toNat x.pour.toNat).out = some k) ∧
    (p.bitmap = 0 → p.out = none → p.inputs = [] →
      State.lowestOpen c + c.window ≤ (x.round.toNat + 65536 - c.nextRound) % 65536 * roundPours c + x.pour.toNat →
      exec (.contribReceive x) s =
        .next (s.setContract x.ckey.toNat (some { c with pending := c.pending ++ [(x, State.mono s)] }))))) ∧
  ((∀ (k : BitVec 32) (c : Contract) (x : ContribP) (n : Nat) (u : State) (s : State), s.contract k.toNat = some c →
    c.pending = [(x, n)] → (s.setContract k.toNat (some { c with pending := [] })).contribTry x = (true, u) →
    exec (.pendingContribRetry k) s = .next u) ∧
  (∀ (k : BitVec 32) (c : Contract) (s : State), s.contract k.toNat = some c →
    let old := fun (e : ContribP × Nat) => e.1.chan.isSome && decide (s.sw.ageing * 100000 < State.mono s - e.2)
    ∃ t : State, exec (.pendingContribAgeing k) s = .next t ∧
      t.contract k.toNat = some { c with pending := c.pending.filter fun e => !old e } ∧
      ((∃ e ∈ c.pending, old e = true) → look false t.faults.sticky 0x120 = true)))

/-- A pour goes on as far as it can (R172, R177, R180): EMPTY yields the other operand unchanged; in ordered mode the local
contributions that are there are folded from the left in contributor index order; and a formed pour that waits for no tap becomes
complete and is counted. The vats' scheduler (R186, R187): the highest-ranked ready contract takes the lowest free vat, by a
refill of its image when it has one; when none is free a vat is decanted for it. A decant leaves an image and frees the vat; a
refill ends it. The tap (R190, R191), settlement (R168, R192) and the vats' scrub (R195, R349): a formed pour is written to the
pad of a press once FREE allows and FILL is signalled; one that waits too long sets FS 0x618; a round whose settlement identifier
has given its result is settled: it is gone, its retention and mirrors are freed, and a missed deadline sets FS 0x608; an
uncorrectable error in an idle vat sets FS 0x611, a corrected one is counted. -/
def Obligations.PoursAreFoldedInVats : Prop :=
  ((∀ (c : Contract) (r : Nat) (g : Geo) (p e : Part), e.empty = true → e.missing = false → e.replay = false →
    (p.empty = false → joinPart c r g e p = (p, false)) ∧ joinPart c r g p e = (p, false)) ∧
  (∀ (k : BitVec 32) (r p : BitVec 16) (s : State),
    (s.pourStep k.toNat r.toNat p.toNat = none → exec (.pourCombineDone k r p) s = .next s) ∧
    (∀ u, s.pourStep k.toNat r.toNat p.toNat = some u →
      exec (.pourCombineDone k r p) s = .next (u.pourWork k.toNat r.toNat p.toNat 999))) ∧
  (∀ (k r p : Nat) (c : Contract) (g : Geo) (s : State), s.contract k = some c → geoOf c p = some g →
    let x := State.pourOf c r p
    (State.roundOf c r).isSome = true → x.done = false → x.bitmap ≠ 0 → s.resident c = true → x.targets = [] →
    x.formed = false → x.localDone = false → x.folded = 0 → orderFree g.seg = false → exactSeg g.seg = false →
    localParts c ≠ [] → (∀ i ∈ localParts c, look none x.inputs i ≠ none) → look 0 s.faults.injLeft (State.injKey 0x43 0) = 0 →
    ∃ (u : State) (d : Contract), s.pourStep k r p = some u ∧ u.contract k = some d ∧
      (State.pourOf d r p).localDone = true ∧
      pourPart (State.pourOf d r p) = (let q := (localParts c).foldl (fun (a : Part) i =>
          (joinPart c r g a (partOf g ((look none x.inputs i).getD (pourContrib c r p g {} 0 0)))).1) (pourPart x)
        { q with ieee := q.ieee % 32 })) ∧
  (∀ (k r p : Nat) (c : Contract) (g : Geo) (s : State), s.contract k = some c → geoOf c p = some g →
    let x := State.pourOf c r p
    x.done = false → x.bitmap ≠ 0 → s.resident c = true → x.targets = [] → x.formed = true → x.tapLeft = 0 →
    x.out = none → c.pending = [] → c.settleId = none → (c.par.deadline = 0) → c.par.ckey.toNat = k →
    (State.roundOf c r).isSome = true → x.missing = false →
    ∃ (u : State) (d : Contract), s.pourStep k r p = some u ∧ u.contract k = some d ∧ d.pours = c.pours + 1 ∧
      d.quanta = c.quanta + 1)) ∧
  ((∀ (k v : Nat) (c : Contract) (s : State), (∀ e ∈ s.vats.contracts, ∀ d, e.2 = some d → d.replayDue = false) →
    (k, some c) ∈ s.vats.contracts → s.contract k = some c → c.ready ≠ none → c.vat = none → c.failed = false →
    s.awaitsPin c.par.pin.toNat c = false →
    (∀ e ∈ s.vats.contracts, ∀ d, e.2 = some d → d.ready ≠ none → d.vat = none → d.failed = false → (e.1, d) ≠ (k, c) →
      State.rankLess (s.rankKey c) (s.rankKey d) = true) →
    let free := fun w : Nat => (s.vat w).key = none ∧ (s.vat w).pinned = false ∧ (s.vat w).contained = false ∧
      (s.vat w).decanting = false ∧ (s.vat w).refilling = none
    (v < 60 → free v → (∀ w < v, ¬ free w) →
      (c.image = true → s.planChanging = false →
        ∃ t : State, exec .vatSchedule s = .next t ∧
          t.contract k = some { c with vat := some v, ready := none, quanta := 0 } ∧ (t.vat v).key = some k ∧
          (t.vat v).refilling = some k) ∧
      (c.image = false → c.pending = [] →
        ∃ t : State, exec .vatSchedule s = .next t ∧
          t.contract k = some { c with vat := some v, ready := none, quanta := 0 } ∧ (t.vat v).key = some k ∧
          (t.vat v).refilling = none)) ∧
    ((∀ w < 60, ¬ free w) → s.planChanging = false → s.victim c = some v →
      ∃ t : State, exec .vatSchedule s = .next t ∧ t.vats = (s.setVat v { s.vat v with decanting := true }).vats)) ∧
  (∀ (v : Fin 64) (k : Nat) (c : Contract) (s : State), (s.vat v.val).key = some k → s.contract k = some c →
    (s.vat v.val).decanting = true → (s.vat v.val).pinned = false → (s.vat v.val).refilling = none → s.tiersActive = true →
    s.vatDraws v.val = false →
    ∃ t : State, exec (.decantDone v) s = .next t ∧ (t.vat v.val).key = none ∧ (t.vat v.val).decanting = false ∧
      ∃ n, t.contract k = some { c with vat := none, image := true, decants := c.decants + 1, ready := n } ∧
        (c.pending = [] → n = c.ready) ∧ (c.pending ≠ [] → n ≠ none)) ∧
  (∀ (v : Fin 64) (k : Nat) (c : Contract) (s : State), (s.vat v.val).refilling = some k → s.contract k = some c →
    c.pending = [] → s.tiersActive = true → s.vatDraws v.val = false →
    ∃ t : State, exec (.refillDone v) s = .next t ∧ (t.vat v.val).refilling = none ∧
      t.contract k = some { c with image := false, refills := c.refills + 1, pending := [] })) ∧
  ((∀ (k : BitVec 32) (n : Fin 64) (c : Contract) (r q : Nat) (p : Pour) (rest : List (Nat × Nat × Pour)) (s : State),
    s.contract k.toNat = some c → (s.pr n.val).fenced = false →
    (c.rounds.flatMap fun r => (r.pours.filter fun p => p.2.formed && p.2.tapLeft.getLsbD n.val).map fun p => (r.no, p))
      = (r, q, p) :: rest →
    s.semWaiters false n.val c.par.free.toNat = [] → 1 ≤ s.semCount false n.val c.par.free.toNat →
    c.par.fill ≠ c.par.free → s.semCount false n.val c.par.fill.toNat < 65535 →
    ∃ t : State, exec (.tapWrite k n) s = .next t ∧
      readMem t.press.pad (n.val * 2 ^ 21 + c.par.tapBase.toNat + 4096 * (q % c.par.tapSlots.toNat)) p.data.length = p.data ∧
      t.semCount false n.val c.par.free.toNat = s.semCount false n.val c.par.free.toNat - 1 ∧
      t.semCount false n.val c.par.fill.toNat = s.semCount false n.val c.par.fill.toNat + 1) ∧
  (∀ (k : BitVec 32) (n : Fin 64) (c : Contract) (r q : Nat) (p : Pour) (rest : List (Nat × Nat × Pour)) (s : State),
    s.contract k.toNat = some c →
    (c.rounds.flatMap fun r => (r.pours.filter fun p => p.2.formed && p.2.tapLeft.getLsbD n.val && !p.2.stalled &&
      decide (s.sw.ageing * 100000 < State.mono s - p.2.formedAt)).map fun p => (r.no, p)) = (r, q, p) :: rest →
    ∃ t : State, exec (.tapStallTimer k n) s = .next t ∧ look false t.faults.sticky 0x618 = true ∧
      (Mild s 0x618 → t.press = s.press)) ∧
  (∀ (k : BitVec 32) (r : BitVec 16) (i : Nat) (x : BitVec 64) (xs : List (BitVec 64)) (c : Contract) (o : Round) (s : State),
    s.contract k.toNat = some c → c.settleId = some i → (s.counter i).settled = x :: xs →
    c.nextRound = r.toNat → State.roundOf c r.toNat = some o → o.settling = true → c.pending = [] →
    ∃ t : State, exec (.roundSettle k r x) s = .next t ∧ (t.counter i).settled = xs ∧
      t.contract k.toNat = some { c with
        rounds := c.rounds.filter (fun y => y.no ≠ r.toNat)
        nextRound := (c.nextRound + 1) % 65536
        pending := [] } ∧
      t.cel.retained = s.cel.retained - (o.kept.map fun y => y.data.length).sum -
        (s.fab.mirrors.map fun e => ((e.2.filter fun m => m.ty = 0x04 && tsp m 16 4 = k.toNat && tsp m 28 2 = r.toNat).map
          storedLen).sum).sum ∧
      (c.par.deadline ≠ 0 → x.toNat + c.par.deadline.toNat * 10 < o.lastOut → look false t.faults.sticky 0x608 = true)) ∧
  (∀ (v : Fin 64) (s : State), (s.vat v.val).key = none →
    (∃ t : State, exec (.vatScrub v false) s = .next t ∧ t.vats.corrected = s.vats.corrected + 1 ∧
      look false t.faults.sticky 0x610 = true) ∧
    (s.severity 0x611 = 3 → look false s.faults.sticky 0x611 = false →
      ∃ t : State, exec (.vatScrub v true) s = .next t ∧ (t.vat v.val).contained = true ∧
        look false t.faults.sticky 0x611 = true)))

/-- Sync slots (R196-R199): a reserved operator, an unbound counter or another operator than the bound one is discarded with FS
0x630, as is a second contribution of a participant within one use; a contribution is folded into the counter; the last one of a
collective within this device sends the result to every participating endpoint and begins the next use. -/
def Obligations.SyncSlotsAreFolded : Prop :=
  (∀ (n : Fin 320) (x : SyncSlot) (s : State), x.op ≠ 0 →
    ((s.counter x.syncId.toNat).op = 0 ∧ (s.counter x.syncId.toNat).relay = false ∨ x.op = 0xD ∨ x.op = 0xE ∨
      (x.op ≠ 0xF ∧ x.op.toNat ≠ (s.counter x.syncId.toNat).op)) →
    (s.counter x.syncId.toNat).heldSlots = [] → (s.counter (State.syncPastOf x.syncId.toNat)).heldSlots = [] →
    s.faults.syncFenced = false →
    ∃ t : State, exec (.syncSlotReceive n x) s = .next t ∧ look false t.faults.sticky 0x630 = true ∧ t.links = s.links ∧
      ∀ i, t.counter i = s.counter i) ∧
  (∀ (n : Fin 320) (x : SyncSlot) (s : State),
    let c := s.counter x.syncId.toNat
    x.op.toNat = c.op → 1 ≤ c.op → c.op ≤ 12 → c.heldSlots = [] → x.step = 0xFF → n.val ∈ State.syncLocals c →
    (256 ≤ n.val ∨ s.linkDim n.val = none) → x.flags.getLsbD 7 = c.parity →
    (s.counter (State.syncPastOf x.syncId.toNat)).heldSlots = [] → s.faults.syncFenced = false →
    (n.val ∈ c.got →
      ∃ t : State, exec (.syncSlotReceive n x) s = .next t ∧ look false t.faults.sticky 0x630 = true ∧
        ∀ i, t.counter i = s.counter i) ∧
    (n.val ∉ c.got → c.step = none → (∃ y ∈ State.syncLocals c, y ≠ n.val ∧ y ∉ c.got) →
      ∃ t : State, exec (.syncSlotReceive n x) s = .next t ∧ t.links = s.links ∧
        t.counter x.syncId.toNat =
          { State.syncFold c x.payload x.loc (if c.op = 8 then exactAdd 0x13 {} x.payload.toNat else {}) with
            got := c.got ++ [n.val], locals := c.locals ++ [{ sender := n.val, slot := x }] }) ∧
    (n.val ∉ c.got → c.step = none → c.op ≠ 8 → (∀ y ∈ State.syncLocals c, y = n.val ∨ y ∈ c.got) → s.syncSteps c = 0 →
      s.syncNeighbours c = [] → (∀ l ∈ members 256 c.slots.toNat, s.slotLink l = l) →
      ∃ t : State, exec (.syncSlotReceive n x) s = .next t ∧ (t.counter x.syncId.toNat).parity = !c.parity ∧
        (t.counter x.syncId.toNat).got = [] ∧ (t.counter x.syncId.toNat).empty = true ∧
        ∀ l ∈ members 256 c.slots.toNat, ∃ y, (t.link l).syncOut = (s.link l).syncOut ++ [y] ∧ y.step = 0xFE ∧
          y.syncId = x.syncId ∧ y.op = x.op ∧ y.payload = (State.syncFold c x.payload x.loc {}).val))

/-- ALU, the immediate operations, LI, LUI, SHI and TIME write rd, which is ignored when it is s0 (R252, R254). A press row acts
only when the instruction that the press is at is its own (the model's reading, log 40). -/
def Obligations.CpArithmeticWritesItsResult : Prop :=
  ∀ (p : Fin 64) (c w : Nat) (s : State), CpAt s p.val c w → FetchCalm s p.val →
    let r := fun n => (s.pr p.val).cp.reg n
    let a := r (fRs1 w)
    let b := r (fRs2 w)
    let i := BitVec.ofInt 64 (fImm16 w)
    r 0 = 0 ∧
    (w / 2 ^ 24 = 0x01 → reservedZero w 0xFF0 = true → ∀ v,
      (bits w 3 0 = 0 ∧ v = a + b ∨ bits w 3 0 = 1 ∧ v = a - b ∨ bits w 3 0 = 2 ∧ v = a &&& b ∨ bits w 3 0 = 3 ∧ v = a ||| b ∨
        bits w 3 0 = 4 ∧ v = a ^^^ b ∨ bits w 3 0 = 5 ∧ v = a <<< (b.toNat % 64) ∨ bits w 3 0 = 6 ∧ v = a >>> (b.toNat % 64) ∨
        bits w 3 0 = 7 ∧ v = a.sshiftRight (b.toNat % 64) ∨ bits w 3 0 = 8 ∧ v = (if a.slt b then 1 else 0) ∨
        bits w 3 0 = 9 ∧ v = (if a.ult b then 1 else 0) ∨ bits w 3 0 = 10 ∧ v = a * b ∨
        bits w 3 0 = 11 ∧ v = BitVec.ofNat 64 (a.toNat * b.toNat / 2 ^ 64) ∨
        bits w 3 0 = 12 ∧ v = (if b = 0 then BitVec.allOnes 64 else a / b) ∨ bits w 3 0 = 13 ∧ v = a % b) →
      ∃ t : State, exec (.alu p) s = .next t ∧ CpWrote s t p.val (fRd w) v) ∧
    (w / 2 ^ 24 = 0x02 → ∃ t : State, exec (.addi p) s = .next t ∧ CpWrote s t p.val (fRd w) (a + i)) ∧
    (w / 2 ^ 24 = 0x03 → ∃ t : State, exec (.andi p) s = .next t ∧ CpWrote s t p.val (fRd w) (a &&& i)) ∧
    (w / 2 ^ 24 = 0x04 → ∃ t : State, exec (.ori p) s = .next t ∧ CpWrote s t p.val (fRd w) (a ||| i)) ∧
    (w / 2 ^ 24 = 0x05 → ∃ t : State, exec (.xori p) s = .next t ∧ CpWrote s t p.val (fRd w) (a ^^^ i)) ∧
    (w / 2 ^ 24 = 0x06 → bits w 15 8 = 0 →
      (bits w 7 6 = 0 → ∃ t : State, exec (.shi p) s = .next t ∧ CpWrote s t p.val (fRd w) (a <<< bits w 5 0)) ∧
      (bits w 7 6 = 1 → ∃ t : State, exec (.shi p) s = .next t ∧ CpWrote s t p.val (fRd w) (a >>> bits w 5 0)) ∧
      (bits w 7 6 = 2 → ∃ t : State, exec (.shi p) s = .next t ∧ CpWrote s t p.val (fRd w) (a.sshiftRight (bits w 5 0)))) ∧
    (w / 2 ^ 24 = 0x07 → fRs1 w = 0 → ∃ t : State, exec (.li p) s = .next t ∧ CpWrote s t p.val (fRd w) i) ∧
    (w / 2 ^ 24 = 0x08 → fRs1 w = 0 → ∃ t : State, exec (.lui p) s = .next t ∧ CpWrote s t p.val (fRd w) (i <<< 16)) ∧
    (w / 2 ^ 24 = 0x09 → ∃ t : State, exec (.slti p) s = .next t ∧ CpWrote s t p.val (fRd w) (if a.slt i then 1 else 0)) ∧
    (w / 2 ^ 24 = 0x3A → reservedZero w 0xFFFFF = true →
      ∃ t : State, exec (.time p) s = .next t ∧ CpWrote s t p.val (fRd w) (BitVec.ofNat 64 (State.ns s)))

/-- Loads read 8, 4, 2 or 1 bytes of CP data memory, or of instruction memory through its alias, zero-extended; stores write rs2
there (R252, R254). A press row acts only when the instruction that the press is at is its own (the model's reading, log 40). A
branch goes to its target when its comparison holds and to the next instruction otherwise; JAL and JALR write the address of the
next instruction first; FENCEIF fetches again (R253, R254, R256). -/
def Obligations.CpMemoryAndBranchesReachTheirTarget : Prop :=
  (∀ (p : Fin 64) (c w : Nat) (s : State), CpAt s p.val c w → FetchCalm s p.val → s.press.dmemErr = [] →
    s.press.imemErr = [] →
    let a := s.cpAddr p.val w
    let v := ((s.pr p.val).cp.reg (fRd w)).toNat
    ∀ (n o : Nat) (m : State.Mem), s.cpData p.val c a n n = .ok (m, o) →
      (a + n ≤ 2 ^ 18 → m = .dmem ∧ o = a) ∧ (2 ^ 20 ≤ a → m = .imem ∧ o = a - 2 ^ 20) ∧
      (∀ (op : Nat) (i : Instr), (op, n, i) ∈ [(0x10, 8, Instr.ld p), (0x11, 4, Instr.lw p), (0x12, 2, Instr.lh p), (0x13, 1, Instr.lb p)] →
        w / 2 ^ 24 = op →
        ∃ t : State, exec i s = .next t ∧
          CpWrote s t p.val (fRd w) (BitVec.ofNat 64 (leNat (readMem (s.memOf m) (p.val * State.memSize m + o) n)))) ∧
      (∀ (op : Nat) (i : Instr), (op, n, i) ∈ [(0x14, 8, Instr.sd p), (0x15, 4, Instr.sw p), (0x16, 2, Instr.sh p), (0x17, 1, Instr.sb p)] →
        w / 2 ^ 24 = op → look 0 s.faults.injLeft (State.injKey 0x45 p.val) = 0 →
        ∃ t : State, exec i s = .next t ∧
          t.memOf m = writeMem (s.memOf m) (p.val * State.memSize m + o) (leBytes n v) ∧
          (∀ k, k ≠ m → t.memOf k = s.memOf k) ∧ (t.pr p.val).cp.regs = (s.pr p.val).cp.regs ∧
          (t.pr p.val).cp.pc = ((s.pr p.val).cp.pc + 4) % 2 ^ 32 ∧ (t.pr p.val).streams = (s.pr p.val).streams ∧
          ∀ q, q ≠ p.val → t.pr q = s.pr q)) ∧
  (∀ (p : Fin 64) (c w : Nat) (s : State), CpAt s p.val c w → FetchCalm s p.val →
    let k := (s.pr p.val).cp
    let a := k.reg (fRd w)
    let b := k.reg (fRs1 w)
    let target := (((k.pc : Int) + 4 * fImm16 w) % 2 ^ 32).toNat
    (∀ (op : Nat) (i : Instr) (taken : Bool),
      (op, i, taken) ∈ [(0x20, Instr.beq p, decide (a = b)), (0x21, Instr.bne p, decide (a ≠ b)), (0x22, Instr.blt p, a.slt b),
        (0x23, Instr.bge p, b.sle a), (0x24, Instr.bltu p, a.ult b), (0x25, Instr.bgeu p, b.ule a)] → w / 2 ^ 24 = op →
      (taken = true → ∃ t : State, exec i s = .next t ∧ CpJumped s t p.val c target k) ∧
      (taken = false → ∃ t : State, exec i s = .next t ∧ CpWrote s t p.val 0 0)) ∧
    (w / 2 ^ 24 = 0x28 → ∃ t : State, exec (.jal p) s = .next t ∧
      CpJumped s t p.val c (((k.pc : Int) + 4 * fImm20 w) % 2 ^ 32).toNat
        (k.setReg (fRd w) (BitVec.ofNat 64 ((k.pc + 4) % 2 ^ 32)))) ∧
    (w / 2 ^ 24 = 0x29 → ∃ t : State, exec (.jalr p) s = .next t ∧
      CpJumped s t p.val c (s.cpAddr p.val w % 2 ^ 32 / 4 * 4) (k.setReg (fRd w) (BitVec.ofNat 64 ((k.pc + 4) % 2 ^ 32)))) ∧
    (w / 2 ^ 24 = 0x32 → reservedZero w 0xFFFFFF = true →
      ∃ t : State, exec (.fenceif p) s = .next t ∧ CpJumped s t p.val c ((k.pc + 4) % 2 ^ 32) k))

/-- The CP and the engines' queues (R204, R239, R240, R254, R255): QPUSH copies its descriptor, at once or when an entry is free;
SYNCIQ discards what a FETCH-mode queue has not begun and fetches again from there; ESTAT reads a status record and ECLR clears
it; EWAIT goes on when the engines are idle; HALT stops the CP. A press row acts only when the instruction that the press is at is
its own (the model's reading, log 40). What ends a wait of the CP (R204, R208, R254): room in the queue, idle engines, or the
count of the first waiter's semaphore. Semaphores and sync contributions of the CP (R208, R212, R254, R257): SEMWAIT takes its
count when it is there and nothing waits before it, otherwise it waits; SEMSIG adds its count; SEMREAD leaves the count; SYNCC
contributes its descriptor's value; a result is written to CP data memory and its local semaphore signalled. -/
def Obligations.CpServesQueuesSemaphoresAndSync : Prop :=
  (∀ (p : Fin 64) (c w : Nat) (s : State), CpAt s p.val c w → FetchCalm s p.val → s.press.dmemErr = [] →
    let a := s.cpAddr p.val w
    let pc := ((s.pr p.val).cp.pc + 4) % 2 ^ 32
    (w / 2 ^ 24 = 0x30 → bits w 23 22 = 0 → s.cpData p.val c a 32 32 = .ok (.dmem, a) →
      let e := bits w 21 20
      let k := s.streamOf p.val c e
      k.fetch = false →
      (k.queue.length < 32 → ∃ t : State, exec (.qpush p) s = .next t ∧ (t.pr p.val).cp.pc = pc ∧
        (t.streamOf p.val c e).queue = k.queue ++ [{ pc := a, bytes := readMem s.press.dmem (p.val * 2 ^ 18 + a) 32 }]) ∧
      (32 ≤ k.queue.length → ∃ t : State, exec (.qpush p) s = .next t ∧ (t.pr p.val).cp.wait = .queue e a ∧
        (t.pr p.val).cp.pc = (s.pr p.val).cp.pc ∧ t.streamOf p.val c e = k)) ∧
    (w / 2 ^ 24 = 0x31 → reservedZero w 0xFFFFF0 = true → ∃ t : State, exec (.synciq p) s = .next t ∧
      (t.pr p.val).cp.pc = pc ∧ ∀ e < 4, let k := s.streamOf p.val c e
        (bit w e = false ∨ k.fetch = false → t.streamOf p.val c e = k) ∧
        (bit w e = true → k.fetch = true → State.headBegun k = false →
          (t.streamOf p.val c e).queue = [] ∧ (t.streamOf p.val c e).fetching = true ∧
          (t.streamOf p.val c e).fp = (k.queue.head?.map QMacro.pc).getD k.pc ∧ (t.streamOf p.val c e).st = .idle)) ∧
    (w / 2 ^ 24 = 0x37 → reservedZero w 0xCFFF0 = true → ∀ v,
      let k := s.streamOf p.val c (bits w 17 16)
      (bits w 3 0 = 0 ∧ v = k.flags.toNat ∨ bits w 3 0 = 1 ∧ v = k.sat ∨ bits w 3 0 = 2 ∧ v = k.inexact ∨
        bits w 3 0 = 3 ∧ v = k.pc ∨ bits w 3 0 = 4 ∧ v = k.queue.length ∨
        bits w 3 0 = 5 ∧ v = (match k.st with | .idle => 0 | .waiting => 1 | .busy => 2 | .stalled => 3)) →
      ∃ t : State, exec (.estat p) s = .next t ∧ CpWrote s t p.val (fRd w) (BitVec.ofNat 64 v)) ∧
    (w / 2 ^ 24 = 0x38 → reservedZero w 0xFFFFF0 = true → ∃ t : State, exec (.eclr p) s = .next t ∧
      (t.pr p.val).cp.pc = pc ∧ ∀ e < 4, t.streamOf p.val c e = if bit w e then
        { s.streamOf p.val c e with flags := 0, sat := 0, inexact := 0 } else s.streamOf p.val c e) ∧
    (w / 2 ^ 24 = 0x39 → reservedZero w 0xFFFFF0 = true →
      (s.enginesIdle p.val c (bits w 3 0) = true → ∃ t : State, exec (.ewait p) s = .next t ∧ CpWrote s t p.val 0 0) ∧
      (s.enginesIdle p.val c (bits w 3 0) = false → ∃ t : State, exec (.ewait p) s = .next t ∧
        (t.pr p.val).cp = { (s.pr p.val).cp with wait := .engines (bits w 3 0) })) ∧
    (w / 2 ^ 24 = 0x3F → reservedZero w 0xFFFFFF = true → ∃ t : State, exec (.halt p) s = .next t ∧
      (t.pr p.val).cp.running = false ∧ (t.pr p.val).cp.halted = true)) ∧
  ((∀ (p : Fin 64) (c e a : Nat) (s : State), s.issuing p.val = some c → (s.pr p.val).cp.wait = .queue e a → e < 4 →
    (s.streamOf p.val c e).queue.length < 32 → s.press.dmemErr = [] → FetchCalm s p.val →
    ∃ t : State, exec (.qpushEnter p) s = .next t ∧ (t.pr p.val).cp.wait = .none ∧
      (t.pr p.val).cp.pc = ((s.pr p.val).cp.pc + 4) % 2 ^ 32 ∧
      (t.streamOf p.val c e).queue =
        (s.streamOf p.val c e).queue ++ [{ pc := a, bytes := readMem s.press.dmem (p.val * 2 ^ 18 + a) 32 }]) ∧
  (∀ (p : Fin 64) (c m : Nat) (s : State), s.issuing p.val = some c → (s.pr p.val).cp.wait = .engines m →
    s.enginesIdle p.val c m = true → FetchCalm s p.val →
    ∃ t : State, exec (.ewaitRelease p) s = .next t ∧ (t.pr p.val).cp.wait = .none ∧
      (t.pr p.val).cp.pc = ((s.pr p.val).cp.pc + 4) % 2 ^ 32) ∧
  (∀ (p : Fin 64) (who : Fin 5) (g : Bool) (n : Nat) (h : SemWaiter) (s : State),
    (s.metSem p.val fun h => h.press = p.val && h.who = who.val) = some (g, n, h) → h.ctx = (s.pr p.val).cur →
    (s.semWaiters g p.val n).head? = some h → h.need ≤ s.semCount g p.val n → FetchCalm s p.val →
    ∃ t : State, exec (.semWaitRelease p who) s = .next t ∧ t.semCount g p.val n = s.semCount g p.val n - h.need ∧
      t.semWaiters g p.val n = (s.semWaiters g p.val n).tail ∧
      (who.val = 4 → (t.pr p.val).cp.wait = .none ∧ (t.pr p.val).cp.pc = ((s.pr p.val).cp.pc + 4) % 2 ^ 32) ∧
      (who.val < 4 → (t.streamOf p.val h.ctx who.val).waited = true ∧ (t.streamOf p.val h.ctx who.val).st = .idle))) ∧
  ((∀ (p : Fin 64) (c w : Nat) (g : Bool) (n : Nat) (s : State), CpAt s p.val c w → FetchCalm s p.val →
    let k := ((s.pr p.val).cp.reg (fRd w)).toNat
    let v := s.semCount g p.val n
    (s.cpSem p.val c w (some k) = .ok (g, n) → w / 2 ^ 24 = 0x33 →
      (s.semWaiters g p.val n = [] → k ≤ v → ∃ t : State, exec (.semwait p) s = .next t ∧ t.semCount g p.val n = v - k ∧
        (t.pr p.val).cp.pc = ((s.pr p.val).cp.pc + 4) % 2 ^ 32 ∧ (t.pr p.val).cp.regs = (s.pr p.val).cp.regs) ∧
      (v < k → { press := p.val, ctx := c, who := 4, need := k } ∉ s.semWaiters g p.val n →
        ∃ t : State, exec (.semwait p) s = .next t ∧ (t.pr p.val).cp.wait = .sem g n k ∧ t.semCount g p.val n = v ∧
          t.semWaiters g p.val n = s.semWaiters g p.val n ++ [{ press := p.val, ctx := c, who := 4, need := k }])) ∧
    (s.cpSem p.val c w (some k) = .ok (g, n) → w / 2 ^ 24 = 0x34 → v + k ≤ State.semMax g →
      ∃ t : State, exec (.semsig p) s = .next t ∧ t.semCount g p.val n = v + k ∧
        (t.pr p.val).cp.pc = ((s.pr p.val).cp.pc + 4) % 2 ^ 32) ∧
    (s.cpSem p.val c w none = .ok (g, n) → w / 2 ^ 24 = 0x35 →
      ∃ t : State, exec (.semread p) s = .next t ∧ CpWrote s t p.val (fRd w) (BitVec.ofNat 64 v))) ∧
  (∀ (p : Fin 64) (c w : Nat) (s : State), CpAt s p.val c w → s.press.dmemErr = [] → w / 2 ^ 24 = 0x36 → bits w 23 20 = 0 →
    let a := s.cpAddr p.val w
    let y := (s.ctx p.val c).lay
    let m := readMem s.press.dmem (p.val * 2 ^ 18 + a) 32
    let id := leNat ((m.drop 12).take 2)
    let ls := leNat ((m.drop 14).take 1)
    let res := leNat ((m.drop 16).take 4)
    let k := s.counter id
    s.cpData p.val c a 32 8 = .ok (.dmem, a) → id < 4096 → ls < 64 → m.getD 15 0 = 0 → m.drop 20 = List.replicate 12 0 →
    res % 16 = 0 → State.within y.dmemBase y.dmemSize res 16 = true → res + 16 ≤ 2 ^ 18 →
    State.within y.lsFirst y.lsCount ls 1 = true → k.op ≠ 0 → k.relay = false → k.presses.getLsbD p.val = true →
    (k.waiters.filter fun v => v.1 = p.val).length < 2 → (256 + p.val) ∉ k.got →
    exec (.syncc p) s = .next (((s.setCounter id { k with waiters := k.waiters ++ [(p.val, ls, res)] }).syncSlot (256 + p.val)
      { syncId := BitVec.ofNat 12 id
        op := BitVec.ofNat 4 k.op
        step := 0xFF
        flags := if k.parity then 128 else 0
        loc := if State.syncHasLoc k.op then BitVec.ofNat 32 (leNat ((m.drop 8).take 4)) else 0
        payload := BitVec.ofNat 64 (leNat (m.take 8)) }).cpAdvance p.val c)) ∧
  (∀ (p : Fin 64) (i : BitVec 12) (d : SyncDue) (s : State), (s.counter i.toNat).due.find? (fun d => d.press = p.val) = some d →
    s.semCount false p.val d.ls < 65535 →
    ∃ t : State, exec (.syncResultWrite p i) s = .next t ∧ t.semCount false p.val d.ls = s.semCount false p.val d.ls + 1 ∧
      t.press.dmem = writeMem s.press.dmem (p.val * 2 ^ 18 + d.addr)
        (leBytes 8 d.value.toNat ++ leBytes 4 d.loc.toNat ++ leBytes 1 d.flags ++ [0, 0, 0]) ∧
      (t.counter i.toNat).due = (s.counter i.toNat).due.erase d))

/-- An instruction that the CP may not execute stops its launch (R229-R231, R259, R260): an unlisted opcode is ILLEGAL; a load or
store that is not aligned, reaches no memory, or leaves its partition records ALIGN, UNMAPPED or RANGE with the address. What a
macro-instruction may not be (R231, R234, R237, R260): an opcode that the engine does not accept, a reserved WAIT_SEM bit, or an
AREG with a reserved field or a loop faults the launch as ILLEGAL; an AREG base that is no multiple of 32 as ALIGN, with the base;
a cause that the fetch met is raised at the head, with the entry's address. -/
def Obligations.FaultingInstructionsStopTheLaunch : Prop :=
  (∀ (p : Fin 64) (c w : Nat) (s : State), CpAt s p.val c w → Mild s (0x400 + p.val) → bit (s.ctx p.val c).set.toNat p.val = true →
    (s.ctx p.val c).stopFor = none →
    (cpOpcodes.contains (w / 2 ^ 24) = false →
      ∃ t : State, exec (.alu p) s = .next t ∧ Faulted s t p.val c 4 (s.pr p.val).cp.pc 0x01 0) ∧
    (w / 2 ^ 24 = 0x01 → 13 < bits w 3 0 →
      ∃ t : State, exec (.alu p) s = .next t ∧ Faulted s t p.val c 4 (s.pr p.val).cp.pc 0x01 0) ∧
    (∀ e, w / 2 ^ 24 = 0x10 → s.cpData p.val c (s.cpAddr p.val w) 8 8 = .error e →
      (∃ t : State, exec (.ld p) s = .next t ∧ Faulted s t p.val c 4 (s.pr p.val).cp.pc e (State.cpFaultAddr (s.cpAddr p.val w))) ∧
      (s.cpAddr p.val w % 8 ≠ 0 → e = 0x02) ∧
      (s.cpAddr p.val w % 8 = 0 → 2 ^ 18 ≤ s.cpAddr p.val w → s.cpAddr p.val w < 2 ^ 20 → e = 0x03)) ∧
    (∀ e, w / 2 ^ 24 = 0x14 → s.cpData p.val c (s.cpAddr p.val w) 8 8 = .error e →
      ∃ t : State, exec (.sd p) s = .next t ∧ Faulted s t p.val c 4 (s.pr p.val).cp.pc e (State.cpFaultAddr (s.cpAddr p.val w)))) ∧
  (∀ (p : Fin 64) (e : Fin 4) (c : Nat) (q : QMacro) (s : State), s.issuing p.val = some c →
    (s.streamOf p.val c e.val).st = .idle → (s.streamOf p.val c e.val).queue.head? = some q → Mild s (0x400 + p.val) →
    bit (s.ctx p.val c).set.toNat p.val = true → (s.ctx p.val c).stopFor = none →
    (q.cause ≠ 0 → ∃ t : State, exec (.nop p e) s = .next t ∧ Faulted s t p.val c e.val q.pc q.cause (2 ^ 30 + q.pc)) ∧
    (q.cause = 0 → engineAccepts e.val (mOpc q.bytes) = false →
      ∃ t : State, exec (.nop p e) s = .next t ∧ Faulted s t p.val c e.val q.pc 0x01 0) ∧
    (q.cause = 0 → mOpc q.bytes = 0 → 8192 ≤ mField q.bytes 2 2 →
      ∃ t : State, exec (.nop p e) s = .next t ∧ Faulted s t p.val c e.val q.pc 0x01 0) ∧
    (q.cause = 0 → mOpc q.bytes = 0 → s.headerCheck p.val c e.val q.bytes = none → noLoop q.bytes = false →
      ∃ t : State, exec (.nop p e) s = .next t ∧ Faulted s t p.val c e.val q.pc 0x01 0) ∧
    (q.cause = 0 → mOpc q.bytes = 1 → s.headerCheck p.val c e.val q.bytes = none →
      mAdv q.bytes = 0 → noLoop q.bytes = true → mBits q.bytes 21 3 3 = 0 → mField q.bytes 22 2 = 0 →
      mField q.bytes 16 5 % 32 ≠ 0 →
      ∃ t : State, exec (.areg p e) s = .next t ∧ Faulted s t p.val c e.val q.pc 0x02 (mField q.bytes 16 5)))

/-- The wait of a macro-instruction (R208, R233, R237): NOP and END run at once when they wait for nothing or have waited; when
their semaphore's count suffices and nothing waits before them they take it and run; otherwise they wait behind the others, once.
A stream row acts only on the opcode that is its own (the model's reading, log 40). STREAM_FETCH reads one entry from CP data
memory into the queue, or the cause that its address meets, and stops after an END (R204, R238); AREG loads one address register
with its base and its strides in units of 2^U × 32 bytes (R235). -/
def Obligations.InstructionsWaitThenRun : Prop :=
  (∀ (p : Fin 64) (e : Fin 4) (c : Nat) (q : QMacro) (s : State), HeadAt s p.val c e.val q →
    ∀ (op : Nat) (i : Instr), (op, i) ∈ [(0, Instr.nop p e), (2, Instr.endStream p e)] → mOpc q.bytes = op →
    (op = 0 → noLoop q.bytes = true) →
    let g := mWaitG q.bytes
    let n := mWaitSem q.bytes
    let w : SemWaiter := { press := p.val, ctx := c, who := e.val, need := mWaitK q.bytes }
    let v := s.semCount g p.val n
    (((s.streamOf p.val c e.val).waited = true ∨ mWaitK q.bytes = 0) →
      ∃ t : State, exec i s = .next t ∧ Runs s t p.val c e.val ∧ t.press.pad = s.press.pad ∧ t.press.gs = s.press.gs) ∧
    ((s.streamOf p.val c e.val).waited = false → 0 < mWaitK q.bytes →
      (s.semWaiters g p.val n = [] → mWaitK q.bytes ≤ v →
        ∃ t : State, exec i s = .next t ∧ Runs s t p.val c e.val ∧ t.press.pad = s.press.pad ∧
          t.semCount g p.val n = v - mWaitK q.bytes) ∧
      (v < mWaitK q.bytes → w ∉ s.semWaiters g p.val n →
        ∃ t : State, exec i s = .next t ∧ t.streamOf p.val c e.val = { s.streamOf p.val c e.val with st := .waiting } ∧
          t.semCount g p.val n = v ∧ t.semWaiters g p.val n = s.semWaiters g p.val n ++ [w] ∧ t.press.pad = s.press.pad ∧
          ∀ j, j ≠ p.val → t.pr j = s.pr j))) ∧
  ((∀ (p : Fin 64) (e : Fin 4) (c : Nat) (s : State), s.issuing p.val = some c →
    let k := s.streamOf p.val c e.val
    let y := (s.ctx p.val c).lay
    let b := readMem s.press.dmem (p.val * 2 ^ 18 + k.fp) 32
    k.fetch = true → k.fetching = true → k.queue.length < 32 → s.press.dmemErr = [] →
    (State.within y.dmemBase y.dmemSize k.fp 32 = true →
      ∃ t : State, exec (.streamFetch p e) s = .next t ∧ t.streamOf p.val c e.val = { k with
        queue := k.queue ++ [{ pc := k.fp, bytes := b }]
        pc := if k.queue = [] then k.fp else k.pc
        fp := k.fp + 32
        fetching := decide (mOpc b ≠ 2) } ∧ ∀ j, j ≠ p.val → t.pr j = s.pr j) ∧
    (State.within y.dmemBase y.dmemSize k.fp 32 = false →
      ∃ t : State, exec (.streamFetch p e) s = .next t ∧
        (t.streamOf p.val c e.val).queue = k.queue ++ [{ pc := k.fp, bytes := [], cause := 0x04 }])) ∧
  (∀ (p : Fin 64) (e : Fin 4) (c : Nat) (q : QMacro) (s : State), HeadReady s p.val c e.val q → mOpc q.bytes = 1 →
    mAdv q.bytes = 0 → noLoop q.bytes = true → mBits q.bytes 21 3 3 = 0 → mField q.bytes 22 2 = 0 → mField q.bytes 16 5 % 32 = 0 →
    let unit : Int := (2 ^ (mBits q.bytes 21 7 4 + 5) : Nat)
    ∃ t : State, exec (.areg p e) s = .next t ∧ Runs s t p.val c e.val ∧ t.press.pad = s.press.pad ∧
      look {} (t.streamOf p.val c e.val).areg (mBits q.bytes 21 2 0) =
        { cur := mField q.bytes 16 5
          s0 := signed 16 (mField q.bytes 24 2) * unit
          s1 := signed 16 (mField q.bytes 26 2) * unit
          s2 := signed 16 (mField q.bytes 28 2) * unit
          s3 := signed 16 (mField q.bytes 30 2) * unit } ∧
      ∀ r, r ≠ mBits q.bytes 21 2 0 →
        look {} (t.streamOf p.val c e.val).areg r = look {} (s.streamOf p.val c e.val).areg r))

/-- The vector instructions that work element by element (R245, R247): VBIN, VUN, VFMA, VCVT and VLUT write, for every iteration,
the vector of the results of their operation on the elements of their operands, B being one element where BCAST is set. Its
corners are those of logs 14, 15 and 120. What an instruction in progress elsewhere has written but not signalled is read, in each
aligned 32-byte unit, as the old or as the new content (R206). The vector instructions with another result (R43, R245, R247,
R248): VRED one value, or a value with its index; VSCALE one scale; VTOPK the first K of the elements in rank order; VRNG bits,
uniform numbers or Gumbel noise of its counter. -/
def Obligations.VectorsAreWritten : Prop :=
  (∀ p : Fin 64,
    let els := fun (b : List Byte) (i : Nat) (bs : List (List Byte)) => unpackElems (vSfmt b) (bs.getD i []) (vLen b)
    let elB := fun (b : List Byte) (bs : List (List Byte)) =>
      if vBcast b then List.replicate (vLen b) (getElem (vSfmt b) (bs.getD 1 []) 0) else els b 1 bs
    let src := fun (b : List Byte) => packedLen (vSfmt b) (vLen b)
    let srcB := fun (b : List Byte) => packedLen (vSfmt b) (if vBcast b then 1 else vLen b)
    let dst := fun (b : List Byte) => packedLen (vDfmt b) (vLen b)
    VectorRuns p 0x20 (.vbin p)
      (fun b => vSub b ≤ 13 && (if 11 ≤ vSub b then vDfmt b = 0x20 else vDfmt b = vSfmt b) &&
        (vSub b < 6 || 10 < vSub b || fmtInt (vSfmt b)))
      dst (fun b => [(vA b, src b), (vB b, srcB b)])
      (fun b _ bs => vPack (vDfmt b) (((els b 0 bs).zip (elB b bs)).map fun x => elemBin (vSub b) (vSfmt b) (vSat b) x.1 x.2)) ∧
    VectorRuns p 0x21 (.vun p)
      (fun b => vSub b ≤ 7 && vDfmt b = vSfmt b && (vSub b ≤ 2 || !fmtInt (vSfmt b)))
      dst (fun b => [(vA b, src b)])
      (fun b _ bs => vPack (vDfmt b) ((els b 0 bs).map (elemUn (vSub b) (vSfmt b) (vSat b)))) ∧
    VectorRuns p 0x22 (.vfma p)
      (fun b => vSub b = 0 && vDfmt b = vSfmt b)
      dst (fun b => [(vA b, src b), (vB b, srcB b), (vC b, src b)])
      (fun b _ bs => vPack (vDfmt b) ((((els b 0 bs).zip (elB b bs)).zip (els b 2 bs)).map fun x =>
        elemFma (vSfmt b) (vSat b) x.1.1 x.1.2 x.2)) ∧
    VectorRuns p 0x23 (.vcvt p)
      (fun b => vSub b = 0)
      dst (fun b => (vA b, src b) :: (if vScaleEn b then [(vC b, 2)] else []))
      (fun b _ bs =>
        let scale := if vScaleEn b then signed 16 (mField (bs.getD 1 []) 0 2) else signed 16 (vImm b % 65536)
        vPack (vDfmt b) ((els b 0 bs).map (elemConvert (vSfmt b) (vDfmt b) scale (vTrunc b) (vSat b)))) ∧
    VectorRuns p 0x26 (.vlut p)
      (fun b => vSub b = 0 && [0x20, 0x21, 0x28, 0x29].contains (vSfmt b))
      dst (fun b => [(vA b, src b), (vB b, packedLen (vDfmt b) (vAux b + 1))])
      (fun b _ bs => vPack (vDfmt b) ((els b 0 bs).map fun a =>
        let i := intOf (vSfmt b) a
        if 0 ≤ i ∧ i ≤ (vAux b : Int) then (getElem (vDfmt b) (bs.getD 1 []) i.toNat, 0)
        else (getElem (vDfmt b) (bs.getD 1 []) (vAux b), flInvalid)))) ∧
  (∀ p : Fin 64,
    let els := fun (b : List Byte) (bs : List (List Byte)) => unpackElems (vSfmt b) (bs.getD 0 []) (vLen b)
    let src := fun (b : List Byte) => packedLen (vSfmt b) (vLen b)
    let isArg := fun (b : List Byte) => vSub b = 3 || vSub b = 4
    VectorRuns p 0x24 (.vred p)
      (fun b => vSub b ≤ 5 && vDfmt b = vSfmt b)
      (fun b => if isArg b then argLen (vSfmt b) else packedLen (vSfmt b) 1)
      (fun b => [(vA b, src b)])
      (fun b _ bs =>
        if isArg b then { bytes := argBytes (vSfmt b) (argReduce (vSfmt b) (vSub b = 3) (vImm b) (els b bs)).1 }
        else vPack (vSfmt b) [elemReduce (vSub b) (vSfmt b) (vSat b) (vExact b) (els b bs)]) ∧
    VectorRuns p 0x25 (.vscale p)
      (fun b => vSub b = 0 && (vDfmt b = vSfmt b || vDfmt b = 0x21) && fmtLg (vImm b % 256))
      (fun _ => 2) (fun b => [(vA b, src b)])
      (fun b _ bs => { bytes := leBytes 2 (unsigned 16 (vscaleOf (vSfmt b) (vImm b % 256) (els b bs))) }) ∧
    VectorRuns p 0x27 (.vtopk p)
      (fun b => vSub b ≤ 1 && vDfmt b = vSfmt b && 1 ≤ vAux b && vAux b ≤ 256 && vAux b ≤ vLen b)
      (fun b => vAux b * argLen (vSfmt b)) (fun b => [(vA b, src b)])
      (fun b _ bs =>
        let best := topK (vSfmt b) (vSub b = 0) (vAux b) ((els b bs).zipIdx.map fun x => (x.1, (vImm b + x.2) % 2 ^ 32))
        { bytes := best.flatMap fun x =>
            argBytes (vSfmt b) (if (decodeVal (vSfmt b) x.1).isNan then canonicalNan (vSfmt b) else x.1, x.2) }) ∧
    VectorRuns p 0x28 (.vrng p)
      (fun b => vSub b ≤ 2 && vDfmt b = vSfmt b && vDfmt b = (if vSub b = 0 then 0x2A else 0x12))
      (fun b => if vSub b = 0 then 16 * vLen b else 4 * vLen b) (fun b => [(vA b, 16), (vB b, 16)])
      (fun b j bs =>
        let words := fun n => tcg (leNat (bs.getD 0 []))
          (mField (bs.getD 1 []) 0 8 * 2 ^ 64 + vImm b * 2 ^ 32 + (mField (bs.getD 1 []) 8 4 + j * vLen b + n) % 2 ^ 32)
        if vSub b = 0 then
          { bytes := (List.range (vLen b)).flatMap fun n => (words n).flatMap fun x => leBytes 4 x.toNat }
        else vPack 0x12 ((List.range (vLen b)).map fun n =>
          let w := ((words n).getD 0 0).toNat
          if vSub b = 1 then uniform32 w else gumbelNoise (2 * w + 1)))) ∧
  (∀ (p c e a u : Nat) (bs : List Byte) (s : State),
    let r := (s.unordered p c e a bs).1
    let old := fun i => State.byteBefore ((s.unorderedWrites p c e).filter fun w => a < w.1 + w.2.length && w.1 < a + bs.length)
      (a + i) (bs.getD i 0)
    r.length = bs.length ∧
      ((∀ i < bs.length, (a + i) / 32 = u → r.getD i 0 = bs.getD i 0) ∨ (∀ i < bs.length, (a + i) / 32 = u → r.getD i 0 = old i)))

/-- Integer elements (R43, R44, R47, R247): addition, subtraction and multiplication wrap modulo 2^width, or saturate under SAT
with the invalid flag; minimum, maximum, the bitwise operations and the comparisons are those of the format's integers. The sums
of the tensor engine (R49-R55): a product's log is the sum of its operands' logs and scales, its addend T[f] shifted to the
anchor; sums outside the accumulator clamp and set the overflow flag, and stay; NaN, infinity times zero and opposite infinities
give NaN; the anchor rises to the largest sum of a tile's greatest logs. -/
def Obligations.ElementSumsFollowTheirFormats : Prop :=
  (∀ (f w : Nat) (sg : Bool), (f, w, sg) ∈ [(0x20, 8, true), (0x21, 16, true), (0x22, 32, true), (0x23, 64, true), (0x28, 8, false),
      (0x29, 16, false), (0x2A, 32, false), (0x2B, 64, false)] →
    ∀ a b : Nat, a < 2 ^ w → b < 2 ^ w →
    let v := fun (x : Nat) => if sg then signed w x else (x : Int)
    let lo : Int := if sg then -(2 ^ (w - 1) : Nat) else 0
    let hi : Int := if sg then (2 ^ (w - 1) : Nat) - 1 else (2 ^ w : Nat) - 1
    elemBin 0 f false a b = ((a + b) % 2 ^ w, 0) ∧ elemBin 1 f false a b = ((a + 2 ^ w - b) % 2 ^ w, 0) ∧
    elemBin 2 f false a b = (a * b % 2 ^ w, 0) ∧
    (∀ (k : Nat) (x : Int), (k, x) ∈ [(0, v a + v b), (1, v a - v b), (2, v a * v b)] →
      (lo ≤ x ∧ x ≤ hi → elemBin k f true a b = (unsigned w x, 0)) ∧
      (x < lo → elemBin k f true a b = (unsigned w lo, flInvalid)) ∧
      (hi < x → elemBin k f true a b = (unsigned w hi, flInvalid))) ∧
    (elemBin 4 f false a b).1 = (if v b < v a then b else a) ∧ (elemBin 5 f false a b).1 = (if v a < v b then b else a) ∧
    elemBin 6 f false a b = (a &&& b, 0) ∧ elemBin 7 f false a b = (a ||| b, 0) ∧ elemBin 8 f false a b = (a ^^^ b, 0) ∧
    elemBin 9 f false a b = (a * 2 ^ (b % w) % 2 ^ w, 0) ∧ elemBin 10 f false a b = (unsigned w (v a / (2 ^ (b % w) : Nat)), 0) ∧
    elemBin 11 f false a b = (if a = b then 1 else 0, 0) ∧ elemBin 12 f false a b = (if v a < v b then 1 else 0, 0) ∧
    elemBin 13 f false a b = (if v a ≤ v b then 1 else 0, 0)) ∧
  ((∀ (n m : Bool) (l k scale : Int) (x : Acc), productInto (.lg n l) (.lg m k) scale x =
    ({ x with fl := clearBit x.fl 4 }, some (n != m, l + k + scale))) ∧
  (∀ (n m : Bool) (scale : Int) (x : Acc), bit (productInto (.inf n) (.zero m) scale x).1.fl 1 = true ∧
    bit (productInto (.zero n) (.inf m) scale x).1.fl 1 = true ∧ (∀ v : Val, ∀ g : Bool,
      bit (productInto (.nan g) v scale x).1.fl 1 = true ∧ bit (productInto v (.nan g) scale x).1.fl 1 = true)) ∧
  (∀ (anchor l : Int) (n : Bool), 0 ≤ l / 256 - anchor + 24 →
    addend anchor (n, l) = (let d : Int := lgT (l % 256).toNat * 2 ^ (l / 256 - anchor + 24).toNat; if n then -d else d, false)) ∧
  (∀ (wide : Bool) (x : Acc) (d : Int) (ine : Bool), bit x.fl 0 = false →
    let hi : Int := (2 ^ ((if wide then 96 else 64) - 1) : Nat) - 1
    (-hi - 1 ≤ x.v + d → x.v + d ≤ hi → (accAdd wide x d ine).v = x.v + d ∧ bit (accAdd wide x d ine).fl 0 = false) ∧
    (hi < x.v + d → (accAdd wide x d ine).v = hi ∧ bit (accAdd wide x d ine).fl 0 = true) ∧
    (x.v + d < -hi - 1 → (accAdd wide x d ine).v = -hi - 1 ∧ bit (accAdd wide x d ine).fl 0 = true)) ∧
  (∀ (wide : Bool) (x : Acc) (d : Int) (ine : Bool), bit x.fl 0 = true → (accAdd wide x d ine).v = x.v) ∧
  (∀ (wide : Bool) (xs ws : List (List Val × Int)) (a : PassAcc) (f : Int), (tileStep (some f) wide xs ws a).anchor = some f) ∧
  (∀ (wide : Bool) (xs ws : List (List Val × Int)) (a : PassAcc) (l k : Int),
    maxLog (xs.flatMap fun y => y.1.map fun v => (v, y.2)) = some l →
    maxLog (ws.flatMap fun y => y.1.map fun v => (v, y.2)) = some k →
    (tileStep none wide xs ws a).anchor = some (match a.anchor with
      | some o => max o ((l + k) / 256)
      | none => (l + k) / 256)) ∧
  lgT 0 = 0x800000 ∧ lgT 128 = 0xB504F3)

/-- TMM (R216, R218, R241-R243): it runs and asks its own stave for every weight tile that lies in the cellar, in draws of at most
4 KiB; the rows that it writes when it ends are the converted sums of its tiles. When a tile is read and a row written is the
model's reading (log 42). -/
def Obligations.TensorPassesAreComputed : Prop :=
  (∀ (p : Fin 64) (c : Nat) (q : QMacro) (s : State), HeadReady s p.val c 0 q → mOpc q.bytes = 0x10 → tmmCheck q.bytes = none →
    let a := fun j => effAddr (s.streamOf p.val c 0) q.bytes (tmmOf q.bytes).w j
    ((∀ j < mCount q.bytes, PadFits s p.val c (a j) 32768) →
      ∃ t : State, exec (.tmm p) s = .next t ∧ Runs s t p.val c 0 ∧ t.press.pad = s.press.pad ∧ t.cel = s.cel ∧
        (t.streamOf p.val c 0).draws = 0) ∧
    ((∀ j < mCount q.bytes, 2 ^ 32 ≤ a j ∧ a j % 32 = 0 ∧ p.val * staveBytes ≤ a j - 2 ^ 32 ∧
        a j - 2 ^ 32 + 32768 ≤ (p.val + 1) * staveBytes ∧ s.inPartition p.val c (.cellar (a j - 2 ^ 32)) 32768 = true) →
      look false (s.stave p.val).fenced 0 = false →
      let ds := (List.range (mCount q.bytes)).flatMap fun j => (piecesOf 4096 (a j - 2 ^ 32) 32768).map fun x =>
        ({ req := 0, addr := x.1, len := x.2, use := .tile p.val c (j * 32768 + (x.1 - (a j - 2 ^ 32))) } : Draw)
      ∃ t : State, exec (.tmm p) s = .next t ∧ Runs s t p.val c 0 ∧ t.press.pad = s.press.pad ∧
        (t.streamOf p.val c 0).draws = ds.length ∧ (t.stave p.val).wait = (s.stave p.val).wait ++ ds)) ∧
  (∀ (p : Fin 64) (c : Nat) (q : QMacro) (s : State), Ending s p.val c 0 q → mOpc q.bytes = 0x10 → tmmCheck q.bytes = none →
    TmmFits s p.val c q.bytes → fmtAcc (tmmOf q.bytes).ofmt = false → s.press.padErr = [] → Settled s p.val c 0 →
    look 0 s.faults.injLeft (State.injKey 0x44 p.val) = 0 → Mild s 0x4F0 → Mild s 0x4F1 →
    ∃ t : State, exec (.macroComplete p 0) s = .next t ∧
      t.press.pad = (List.range (passes q.bytes)).foldl (tmmPads p.val (s.streamOf p.val c 0) q.bytes) s.press.pad ∧
      (t.streamOf p.val c 0).queue = (s.streamOf p.val c 0).queue.drop 1)

/-- The racking engines (R249, R250): RFILL repeats its pattern over its destination, RCOPY from one pad region to another that
does not overlap it copies the bytes, RCOPY from the cellar asks for draws of at most 4 KiB, of one stave each, and stays busy
until each has moved its bytes. When the bytes move is the model's reading (log 42). RPOUR (R211, R251): RE1 stays busy while its
pours are accepted and is STALLED while one is held; RPOUR_ACCEPT lets a pour that its vat now takes go, and the next one follows;
a hold beyond the ageing limit records cause 0x80 and sets 0x540 + press. -/
def Obligations.RackingMovesBytesAndPours : Prop :=
  (∀ (p : Fin 64) (e : Fin 4) (c : Nat) (q : QMacro) (s : State), HeadReady s p.val c e.val q → 2 ≤ e.val → s.press.padErr = [] →
    look 0 s.faults.injLeft (State.injKey 0x44 p.val) = 0 → Settled s p.val c e.val →
    let k := s.streamOf p.val c e.val
    let n := rBytes q.bytes
    let a := fun j => effAddr k q.bytes (rSrc q.bytes) j
    let d := fun j => effAddr k q.bytes (rDst q.bytes) j
    (mOpc q.bytes = 0x31 → rackCheck true q.bytes = none → (∀ j < mCount q.bytes, PadFits s p.val c (d j) n) →
      ∃ t : State, exec (.rfill p e) s = .next t ∧ Runs s t p.val c e.val ∧ t.cel = s.cel ∧
        t.press.pad = (List.range (mCount q.bytes)).foldl (fun m j =>
          writeMem m (p.val * 2 ^ 21 + d j) ((List.range n).map fun i => q.bytes.getD (24 + i % 8) 0)) s.press.pad) ∧
    (mOpc q.bytes = 0x30 → rackCheck false q.bytes = none →
      (∀ j < mCount q.bytes, PadFits s p.val c (a j) n ∧ PadFits s p.val c (d j) n ∧ (a j + n ≤ d j ∨ d j + n ≤ a j)) →
      ∃ t : State, exec (.rcopy p e) s = .next t ∧ Runs s t p.val c e.val ∧ t.cel = s.cel ∧
        t.press.pad = (List.range (mCount q.bytes)).foldl (fun m j =>
          writeMem m (p.val * 2 ^ 21 + d j) (readMem m (p.val * 2 ^ 21 + a j) n)) s.press.pad) ∧
    (mOpc q.bytes = 0x30 → rackCheck false q.bytes = none → e.val = 2 → mCount q.bytes = 1 → 2 ^ 32 ≤ a 0 → a 0 % 32 = 0 →
      a 0 + n ≤ 2 ^ 33 → s.inPartition p.val c (.cellar (a 0 - 2 ^ 32)) n = true → PadFits s p.val c (d 0) n →
      (∀ v < 64, (s.stave v).fenced = []) →
      let ps := (piecesOf staveBytes (a 0 - 2 ^ 32) n).flatMap fun x => piecesOf 4096 x.1 x.2
      ∃ t : State, exec (.rcopy p e) s = .next t ∧ Runs s t p.val c e.val ∧ t.press.pad = s.press.pad ∧
        (t.streamOf p.val c e.val).draws = ps.length ∧
        ∀ v < 64, (t.stave v).wait = (s.stave v).wait ++ (ps.filter fun x => x.1 / staveBytes = v).map fun x =>
          ({ req := if v = p.val then 1 else 3, addr := x.1, len := x.2,
             use := .toPad p.val c e.val (d 0 + (x.1 - (a 0 - 2 ^ 32))) } : Draw))) ∧
  ((∀ (p : Fin 64) (c : Nat) (q : QMacro) (x : ContribP) (s v : State), HeadReady s p.val c 3 q → mOpc q.bytes = 0x32 →
    State.rpourCheck q.bytes = none → (s.ctx p.val c).set.getLsbD (mField q.bytes 22 2 % 512 - 256) = true →
    (s.beginHead p.val c 3 []).rpourData p.val c q.bytes 0 = (.ok x, v) →
    ((v.contribTry x).1 = false → ∃ t : State, exec (.rpour p) s = .next t ∧ (t.streamOf p.val c 3).st = .stalled ∧
      (t.streamOf p.val c 3).pours = [x] ∧ (t.streamOf p.val c 3).iter = 1 ∧
      (t.streamOf p.val c 3).queue = ((v.contribTry x).2.streamOf p.val c 3).queue) ∧
    ((v.contribTry x).1 = true → mCount q.bytes = 1 → exec (.rpour p) s = .next (v.contribTry x).2)) ∧
  (∀ (p : Fin 64) (c : Nat) (q : QMacro) (x : ContribP) (s : State), s.working p.val = some c →
    (s.streamOf p.val c 3).queue.head? = some q → (s.streamOf p.val c 3).pours = [x] →
    ((s.contribTry x).1 = false → exec (.rpourAccept p) s = .next (s.contribTry x).2) ∧
    ((s.contribTry x).1 = true → (s.streamOf p.val c 3).iter = mCount q.bytes →
      ∃ t : State, exec (.rpourAccept p) s = .next t ∧ (t.streamOf p.val c 3).st = .busy ∧ (t.streamOf p.val c 3).pours = [])) ∧
  (∀ (p : Fin 64) (c : Nat) (s : State), s.working p.val = some c →
    (s.streamOf p.val c 3).st = .stalled → s.sw.ageing * 100000 < s.mono - (s.streamOf p.val c 3).heldAt →
    ∃ t : State, exec (.contribStallTimer p) s = .next t ∧ look false t.faults.sticky (0x540 + p.val) = true ∧
      (Mild s (0x540 + p.val) → (t.ctx p.val c).st = .running ∧ t.streamOf p.val c 3 = s.streamOf p.val c 3 ∧
        (t.ctx p.val c).cause = if (s.ctx p.val c).cause = 0 then 0x80 else (s.ctx p.val c).cause)))

/-- MACRO_COMPLETE (R209, R236, R240): the head leaves the queue, the address registers of ADV move one step of L3 on, the status
of the instruction joins the record, its signal is made, and the next instruction may begin. An instruction that runs too long
records cause 0x81 and sets 0x440 + press, and goes on (R223). Contexts (R221, R222): a turn that has lasted its quantum, and one
whose context is not runnable, gives way to the next runnable context in rotating order, and no other does; the switch waits for
instructions in progress, then saves the outgoing context's CP and streams and restores the incoming one's. Semaphores and
memories stay. -/
def Obligations.InstructionsEndAndContextsSwitch : Prop :=
  ((∀ (p : Fin 64) (e : Fin 4) (c : Nat) (q : QMacro) (s : State), Ending s p.val c e.val q →
    ¬ (e.val = 0 ∧ mOpc q.bytes = 0x10) →
    let k := s.streamOf p.val c e.val
    ∃ t : State, exec (.macroComplete p e) s = .next t ∧
      (let j := t.streamOf p.val c e.val
       j.queue = k.queue.drop 1 ∧ j.st = .idle ∧ j.waited = false ∧ j.dest = [] ∧ j.flags = k.flags ||| k.curFlags ∧
       j.sat = min (2 ^ 32 - 1) (k.sat + k.curSat) ∧ j.inexact = min (2 ^ 32 - 1) (k.inexact + k.curInexact) ∧
       (∀ r < 8, let a := look {} k.areg r
         look {} j.areg r = if bit (mAdv q.bytes) r then
           { a with cur := (((a.cur : Int) + (mLoop q.bytes 3 : Nat) * a.s3) % (2 ^ 40 : Nat)).toNat } else a)) ∧
      (mSigK q.bytes ≠ 0 → t.semCount (mSigG q.bytes) p.val (mSigSem q.bytes) =
        s.semCount (mSigG q.bytes) p.val (mSigSem q.bytes) + mSigK q.bytes) ∧
      (∀ i, i ≠ e.val → t.streamOf p.val c i = s.streamOf p.val c i) ∧ t.press.pad = s.press.pad ∧ t.press.dmem = s.press.dmem ∧
      (t.pr p.val).cp = (s.pr p.val).cp ∧ (t.pr p.val).ctxs = (s.pr p.val).ctxs ∧ ∀ i, i ≠ p.val → t.pr i = s.pr i) ∧
  (∀ (p : Fin 64) (e : Fin 4) (c : Nat) (s : State), s.working p.val = some c →
    (s.streamOf p.val c e.val).st = .busy →
    2 * (s.ctx p.val c).maxBeats * 1000 < (s.mono - (s.streamOf p.val c e.val).began) * s.assured (16 + p.val) →
    ∃ t : State, exec (.overrunTimer p e) s = .next t ∧ look false t.faults.sticky (0x440 + p.val) = true ∧
      (Mild s (0x440 + p.val) → (t.ctx p.val c).st = .running ∧ t.streamOf p.val c e.val = s.streamOf p.val c e.val ∧
        (t.ctx p.val c).cause = if (s.ctx p.val c).cause = 0 then 0x81 else (s.ctx p.val c).cause))) ∧
  ((∀ (p : Fin 64) (s : State), (s.pr p.val).switchDue ≠ none ∨
      (s.runnable p.val (s.pr p.val).cur = true ∧ State.mono s < (s.pr p.val).turnAt + (s.pr p.val).quantum * 1000) →
    exec (.contextQuantumExpiry p) s = .next s) ∧
  (∀ (p : Fin 64) (i : Nat) (s : State), (s.pr p.val).switchDue = none → i < 7 →
    (s.runnable p.val (s.pr p.val).cur = false ∨ (s.pr p.val).turnAt + (s.pr p.val).quantum * 1000 ≤ State.mono s) →
    let n := fun j => ((s.pr p.val).cur + 1 + j) % 8
    s.runnable p.val (n i) = true → (∀ j < i, s.runnable p.val (n j) = false) →
    exec (.contextQuantumExpiry p) s = .next (s.setPr p.val { s.pr p.val with switchDue := some (n i) })) ∧
  (∀ (p : Fin 64) (c e : Nat) (s : State), (s.pr p.val).switchDue = some c → e < 4 →
    ((s.streamOf p.val (s.pr p.val).cur e).st = .busy ∨ (s.streamOf p.val (s.pr p.val).cur e).st = .stalled) →
    exec (.contextSwitch p) s = .next s) ∧
  (∀ (p : Fin 64) (c : Nat) (k : Cp) (ks : List Stream) (s : State), (s.pr p.val).switchDue = some c → c ≠ (s.pr p.val).cur →
    (∀ e < 4, (s.streamOf p.val (s.pr p.val).cur e).st = .idle ∨ (s.streamOf p.val (s.pr p.val).cur e).st = .waiting) →
    (s.ctx p.val (s.pr p.val).cur).st = .running → (s.ctx p.val (s.pr p.val).cur).finished = false →
    (s.ctx p.val c).saved = some (k, ks) → ks.length = 4 → s.press.imemErr = [] →
    ∃ t : State, exec (.contextSwitch p) s = .next t ∧ (t.pr p.val).cur = c ∧ (t.pr p.val).switchDue = none ∧
      (t.pr p.val).cp.regs = k.regs ∧ (t.pr p.val).cp.pc = k.pc ∧ (t.pr p.val).cp.wait = k.wait ∧
      (t.pr p.val).cp.running = k.running ∧ (∀ e < 4, t.streamOf p.val c e = ks.getD e {}) ∧
      (t.ctx p.val (s.pr p.val).cur).saved = some ({ (s.pr p.val).cp with pipe := [] },
        (List.range 4).map fun e => s.streamOf p.val (s.pr p.val).cur e) ∧
      (t.pr p.val).ls = (s.pr p.val).ls ∧ t.press.gs = s.press.gs ∧ t.press.pad = s.press.pad ∧ t.press.imem = s.press.imem ∧
      t.press.dmem = s.press.dmem ∧ ∀ j, j ≠ p.val → t.pr j = s.pr j))

/-- A load (R220, R223-R228, R319): every press of the set is LOADED with its rank and layout, and each section's bytes, relocated
for the press, stand at their load address; LAYOUT_ONLY records a layout and loads nothing. The order of its checks is the model's
reading (log 81). A launch (R207, R221, R222, R228): every press of the set is RUNNING, its argument block stands at the top of
its CP data partition, and the CP of a context that runs at once starts at ENTRY with its rank, the size of the set and the
address of the block in s1 to s3, its engines in the modes of R204; the launch replies when no digest is asked for. The basic launch
gives context 0 the whole press and the default quantum first (R31, R220, R222). See log 82 for the readings it rests on. -/
def Obligations.BundlesLoadAndLaunch : Prop :=
  ((∀ (h : SpHdr) (q : PressLoadP) (s : State), Applies s (cmdPressLoad h q s) →
    let ps := members 64 q.presses.toNat
    let c := q.context.toNat
    let b := s.bundleImage q.bundle.toNat
    let cel := fun (i : Nat) => ((q.range[i]?).map BitVec.toNat).getD 0
    s.cel.poison = [] → s.cel.err = [] → s.cel.stale = [] → s.cel.saves = [] → s.faults.injLeft = [] →
    ∀ l, s.loadLayout q.presses.toNat c b = some l →
    ∃ t : State, exec (.pressLoad h q) s = .next t ∧ ∀ (i p : Nat), (p, i) ∈ ps.zipIdx →
      (let x := t.ctx p c
       x.st = .loaded ∧ x.lay = l ∧ x.set = q.presses ∧ x.rank = i ∧ x.celBase = cel i ∧ x.celSize = bCellar b ∧
       x.spareBase = q.spareBase.toNat ∧ x.spareSize = q.spareSize.toNat ∧ x.entry = bEntry b ∧ x.maxBeats = bBeats b ∧ x.cause = 0) ∧
      ∃ cs, relocate b l (cel i) i ps.length = some cs ∧ ∀ j < bNsect b,
        let y := bSect b j
        let d := cs.getD j []
        d.length = y.size ∧
        (y.ty = 1 → readMem t.press.imem (p * 2 ^ 17 + l.imemBase + y.load) y.size = d) ∧
        (2 ≤ y.ty → y.ty ≤ 6 → readMem t.press.dmem (p * 2 ^ 18 + l.dmemBase + y.load) y.size = d) ∧
        (y.ty = 7 → readMem t.press.pad (p * 2 ^ 21 + l.padBase + y.load) y.size = d) ∧
        (y.ty = 8 → readMem t.cel.mem (cel i + y.load) y.size = d)) ∧
  (∀ (h : SpHdr) (p : PressLaunchP) (s : State), Applies s (cmdPressLayoutRecord h p s) →
    let l : Layout := { padBase := p.padBase.toNat, imemBase := p.imemBase.toNat, dmemBase := p.dmemBase.toNat,
                        lsFirst := p.lsFirst.toNat, gsFirst := p.gsFirst.toNat }
    ∃ t : State, exec (.pressLayoutRecord h p) s = .next t ∧ t.press.pad = s.press.pad ∧
      (∀ n ∈ members 64 p.presses.toNat, t.ctx n p.context.toNat = { s.ctx n p.context.toNat with recorded := some l }) ∧
      (p.gsFirst ≠ 0xFFFF → Answerable s h 8 → Answered t h (okReply s h [(16, p.gsFirst.toNat)])))) ∧
  (∀ (h : SpHdr) (q : PressLaunchP) (s : State),
    let basic : PressLaunchP := { presses := q.presses, context := q.context, args := q.args, quantum := 1000 }
    ∀ (c : Cmd) (i : Instr) (x : PressLaunchP) (f : Ctx → Ctx), (c, i, x, f) ∈
        [(cmdPressLaunch h q s, Instr.pressLaunch h q, basic, Ctx.widen), (cmdPressLaunchExpert h q s, Instr.pressLaunchExpert h q, q, id)] →
      Applies s c → q.args.length = 64 → s.press.imemErr = [] →
    (∀ p ∈ members 64 x.presses.toNat, let l := (f (s.ctx p x.context.toNat)).lay
      64 ≤ l.dmemSize ∧ l.dmemBase + l.dmemSize ≤ 2 ^ 18) →
    ∃ t : State, exec i s = .next t ∧ ∀ p ∈ members 64 x.presses.toNat,
      let k := x.context.toNat
      let o := f (s.ctx p k)
      let n := t.ctx p k
      n.st = .running ∧ n.launch = some h ∧ n.lay = o.lay ∧ n.argBlock = x.args ∧ n.startTime = State.ns s ∧ n.cause = 0 ∧
      n.digestWait = s.tele.select.getLsbD 248 ∧
      readMem t.press.dmem (p * 2 ^ 18 + (o.lay.dmemBase + o.lay.dmemSize - 64)) 64 = x.args ∧
      (x.quantum ≠ 0 → (t.pr p).quantum = x.quantum.toNat) ∧
      ((s.pr p).cur = k ∨ (s.ctx p (s.pr p).cur).st ≠ .running →
        (t.pr p).cur = k ∧ (t.pr p).cp.running = true ∧ (t.pr p).cp.pc = o.lay.imemBase + o.entry ∧
        (t.pr p).cp.reg 1 = BitVec.ofNat 64 o.rank ∧
        (t.pr p).cp.reg 2 = BitVec.ofNat 64 (members 64 o.set.toNat).length ∧
        (t.pr p).cp.reg 3 = BitVec.ofNat 64 (o.lay.dmemBase + o.lay.dmemSize - 64) ∧
        (∀ r, 3 < r → (t.pr p).cp.reg r = 0) ∧
        ∀ e < 4, (t.streamOf p k e).fetch = (look none o.code e).isSome ∧ (t.streamOf p k e).queue = []))

/-- Stops (R230): an immediate stop leaves every context of the launch STOPPED and replies; a graceful one stops the CPs and what
is not begun, and lets the instructions in progress end; either leaves a launch that has ended as it is. The digests of the cellar
book (R228, R229, R415, R416): a launch with BOOK_ON is answered, and its presses start, once the digest of its bundle, its
arguments and with BOOK_FULL its cellar ranges stands; it is DONE, with a book record and its completion notice, once its output
digest does. Of a range in which a line returns poison the digest is open (log 125). -/
def Obligations.LaunchesEnd : Prop :=
  (∀ (h : SpHdr) (ps : BitVec 64) (k : BitVec 8) (s : State),
    let p := (members 64 ps.toNat).headD 0
    let c := k.toNat
    (Applies s (cmdPressStopImmediate h ps k s) → (s.ctx p c).st = .running →
      ∃ t : State, exec (.pressStopImmediate h ps k) s = .next t ∧
        ∀ q ∈ members 64 ps.toNat, (s.ctx q c).st = .running → (t.ctx q c).st = .stopped) ∧
    (Applies s (cmdPressStopGraceful h ps k 0 s) → (s.ctx p c).st = .running →
      (∃ q ∈ members 64 ps.toNat, ∃ e < 4, (s.streamOf q c e).st = .busy ∧ (s.streamOf q c e).queue ≠ []) →
      ∃ t : State, exec (.pressStopGraceful h ps k 0) s = .next t ∧ t.press.pad = s.press.pad ∧ t.svc = s.svc ∧
        ∀ q ∈ members 64 ps.toNat, (t.ctx q c).st = (s.ctx q c).st ∧ (t.ctx q c).stopFor = some h ∧
          ((s.pr q).cur = c → (t.pr q).cp.running = false ∧ ∀ e < 4,
            (t.streamOf q c e).queue = (if (s.streamOf q c e).st = .busy ∨ (s.streamOf q c e).st = .stalled ∨
              (s.streamOf q c e).waited = true then (s.streamOf q c e).queue.take 1 else []))) ∧
    (∀ (m : BitVec 8) (d : Cmd) (i : Instr), (d, i) ∈ [(cmdPressStopImmediate h ps k s, Instr.pressStopImmediate h ps k),
        (cmdPressStopGraceful h ps k m s, Instr.pressStopGraceful h ps k m)] → Applies s d → (s.ctx p c).st ≠ .running →
      ∃ t : State, exec i s = .next t ∧ OnlyReplied s t)) ∧
  (∀ (p : Fin 64) (c : Fin 8) (s : State),
    let x := s.ctx p.val c.val
    let ps := members 64 x.set.toNat
    let clean := s.cel.poison = [] ∧ s.cel.err = []
    (∀ h : SpHdr, x.launch = some h → x.st = .running → x.digestWait = true → x.finished = false → (s.bookFull = true → clean) →
      let d := (sha256 (x.image ++ x.argBlock ++ (if s.bookFull = true then (s.rangeBytes x c.val).1 else []))).take 16
      ∃ t : State, exec (.inDigestDone p c) s = .next t ∧ OnlyReplied { s with press := t.press } t ∧ t.press.pad = s.press.pad ∧
        (∀ q ∈ ps, t.ctx q c.val = { s.ctx q c.val with inDigest := some d, digestWait := false, startTime := State.ns s }) ∧
        (∀ q k, (q ∉ ps ∨ k ≠ c.val) → t.ctx q k = s.ctx q k) ∧
        (Answerable s h 8 → Answered t h { okReply s h [(16, s.gsOf x.set.toNat c.val)] with gid := x.gid })) ∧
    (∀ h : SpHdr, x.launch = some h → x.st = .running → x.digestWait = true → x.finished = false →
      ∃ t : State, exec (.inDigestDone p c) s = .next t ∧ ∀ q ∈ ps, (t.ctx q c.val).digestWait = false ∧
        (t.ctx q c.val).startTime = State.ns s ∧ ∃ d, (t.ctx q c.val).inDigest = some d ∧ d.length = 16) ∧
    (x.st = .running → x.digestWait = true → x.finished = true → s.tele.select.getLsbD 248 = true → p.val ∈ ps → clean →
      ∃ t : State, exec (.outDigestDone p c) s = .next t ∧ (∀ q ∈ ps, (t.ctx q c.val).st = .done ∧ (t.ctx q c.val).launch = none) ∧
        t.tele.bookSeq = s.tele.bookSeq + 1 ∧ t.adm.records = s.adm.records.filter (fun r => r.gid ≠ x.gid) ∧
        t.press.pad = s.press.pad ∧ ∃ r rest, t.tele.book = r :: rest ∧ r.seq = s.tele.bookSeq ∧ r.status = 0 ∧ r.presses = x.set ∧
          r.timeStart = x.startTime ∧ r.timeDone = State.ns s ∧ r.inDigest = x.inDigest.getD (List.replicate 16 0) ∧
          r.outDigest = if s.bookFull = true then (sha256 (s.rangeBytes x c.val).1).take 16 else List.replicate 16 0))

/-- A round of the stave arbiter (R277-R279): among the unmasked waiting requesters of the highest level the first in the rank
list wins, its oldest draw is granted and it moves to the bottom of the list; a masked requester wins only when no unmasked one
waits; nothing is granted while a grant is held. Taking a grant away (R280, R281): a waiting requester with PREEMPT whose level is
above the holder's revokes the grant, whose draw is then the first of its requester again, and the lines that it has written
stand, a masked holder and one that a promised scrub holds counting at the level they were granted at; a grant held for 20 us is
revoked too, and its requester is fenced at this stave, or for IDs 0 to 2 the whole press, whose launches fault; FS 0x340 + n is
set. -/
def Obligations.StavesGrantByLevelAndRank : Prop :=
  (∀ (n : Fin 64) (s : State), s.mayGrant = true →
    let v := s.stave n.val
    let waits := fun r => r < 11 ∧ look false v.fenced r = false ∧ (r = 10 → look 0 v.used 10 < 2) ∧ ∃ d ∈ v.wait, d.req = r
    let before := fun r q => q ∈ v.rank.takeWhile (· ≠ r)
    (v.grant ≠ none → exec (.arbiterRound n) s = .next s) ∧
    ((∀ r, ¬ waits r) → exec (.arbiterRound n) s = .next s) ∧
    (∀ (r : Nat) (d : Draw), v.grant = none → r ∈ v.rank → waits r → v.wait.find? (fun d => d.req = r) = some d →
      (State.masked v r = false ∧ (∀ q, waits q → State.masked v q = false →
          State.level v q ≤ State.level v r ∧ (before r q → State.level v q < State.level v r)) ∨
        (∀ q, waits q → State.masked v q = true ∧ ¬ before r q)) →
      ∃ w : Stave, exec (.arbiterRound n) s = .next (s.setStave n.val w) ∧ w.grant = some d ∧ w.grantAt = s.mono ∧
        w.wait = v.wait.erase d ∧ w.rank = v.rank.filter (· ≠ r) ++ [r] ∧ w.lvl = v.lvl ∧ w.quota = v.quota ∧
        w.preempt = v.preempt ∧ w.fenced = v.fenced ∧
        (v.inWindow + 1 < 256 → w.inWindow = v.inWindow + 1 ∧ look 0 w.used r = look 0 v.used r + 1) ∧
        (256 ≤ v.inWindow + 1 → w.inWindow = 0 ∧ w.used = []))) ∧
  ((∀ (n : Fin 64) (d : Draw) (s : State), (s.stave n.val).grant = some d →
    let v := s.stave n.val
    let w := { v with grant := none, grantAs := none, wait := d :: v.wait, revoked := v.revoked + 1,
                      scrubBoost := v.scrubBoost || v.grantAs = some 3 }
    (State.preemptor v = true → State.drawData d.use = none → exec (.preemptRevoke n) s = .next (s.setStave n.val w)) ∧
    (∀ bs, State.preemptor v = true → State.drawData d.use = some bs → s.cel.poison = [] → s.cel.err = [] → s.cel.stale = [] →
      s.cel.saves = [] → s.faults.injLeft = [] →
      ∃ (t : State) (m : Nat), exec (.preemptRevoke n) s = .next t ∧ t.stave n.val = w ∧ t.press = s.press ∧
        t.cel.mem = writeMem s.cel.mem d.addr (bs.take m) ∧ (m = 0 ∨ bs.length ≤ m ∨ (d.addr + m) % 128 = 0)) ∧
    (State.preemptor (s.stave n.val) = false → exec (.preemptRevoke n) s = .next s)) ∧
  (∀ (n : Fin 64) (d : Draw) (r : Nat) (s : State), (s.stave n.val).grant = some d → (s.stave n.val).wait.any (fun e => e.req = r) = true →
    r < 10 → look false (s.stave n.val).fenced r = false → look none (s.stave n.val).preempt r = some true →
    State.masked (s.stave n.val) r = false →
    (s.stave n.val).grantAs.getD (State.level (s.stave n.val) d.req) < State.level (s.stave n.val) r →
    State.preemptor (s.stave n.val) = true) ∧
  (∀ (n : Fin 64) (d : Draw) (s : State), (s.stave n.val).grant = some d → s.mono < (s.stave n.val).grantAt + 20000 →
    exec (.staveWatchdog n) s = .next s) ∧
  (∀ (n : Fin 64) (d : Draw) (s : State), (s.stave n.val).grant = some d → (s.stave n.val).grantAt + 20000 ≤ s.mono →
    ∃ t : State, exec (.staveWatchdog n) s = .next t ∧ look false t.faults.sticky (0x340 + n.val) = true ∧
      (s.severity (0x340 + n.val) ≤ 3 → (t.stave n.val).grant = none) ∧
      (s.severity (0x340 + n.val) ≤ 3 → 2 < d.req → look false (t.stave n.val).fenced d.req = true ∧ t.press = s.press ∧ d ∈ (t.stave n.val).wait ∧
        ∀ k, k ≠ n.val → t.stave k = s.stave k) ∧
      (s.severity (0x340 + n.val) ≤ 3 → d.req ≤ 2 → (t.pr n.val).fenced = true ∧ ∀ c < 8, (s.ctx n.val c).st = .running → bit (s.ctx n.val c).set.toNat n.val = true →
        (t.ctx n.val c).st = .faulted)))

/-- The end of a draw (R216, R250, R264-R269): its lines move between the cellar and the pad, or the tile of a TMM, and its engine
waits for one draw less; a poisoned line that a press reads faults its launch as CELLAR_POISON; a window access of one draw
answers with its bytes. That the lines move when the draw ends is the model's reading (log 70). BAR2 (R275, R276): an access that
a PCIe window admits asks for its draws, tagged with the window's EPOCH; one that none admits is logged, sets FS 0x310 and moves
nothing, and a read completes with Unsupported Request. -/
def Obligations.DrawsMoveTheirLines : Prop :=
  (∀ (n : Fin 64) (d : Draw) (s : State), (s.stave n.val).grant = some d → s.tiersActive = true → d.req ≠ 10 → s.cel.stale = [] →
    s.cel.saves = [] →
    d.addr + d.len ≤ 2 ^ 32 → 0 < d.len →
    let line := fun a => a / 128
    let clean := s.cel.poison = [] ∧ s.cel.err = [] ∧ s.faults.injLeft = [] ∧ s.press.padErr = []
    let ready := fun p c e => (s.ctx p c).st = .running ∧ (s.streamOf p c e).st = .busy
    (∀ p c e o, d.use = .toPad p c e o → clean → ready p c e → e < 4 →
      ∃ t : State, exec (.drawComplete n) s = .next t ∧ (t.stave n.val).grant = none ∧
        t.press.pad = writeMem s.press.pad (p * 2 ^ 21 + o) (readMem s.cel.mem d.addr d.len) ∧ t.cel.mem = s.cel.mem ∧
        t.streamOf p c e = { s.streamOf p c e with
          draws := (s.streamOf p c e).draws - 1
          before := (p * 2 ^ 21 + o, readMem s.press.pad (p * 2 ^ 21 + o) d.len) :: (s.streamOf p c e).before }) ∧
    (∀ p c e bs, d.use = .fromPad p c e bs → bs.length = d.len → clean → ready p c e → e < 4 →
      ∃ t : State, exec (.drawComplete n) s = .next t ∧ (t.stave n.val).grant = none ∧ t.press.pad = s.press.pad ∧
        t.cel.mem = writeMem s.cel.mem d.addr bs ∧
        t.streamOf p c e = { s.streamOf p c e with draws := (s.streamOf p c e).draws - 1 }) ∧
    (∀ p c o, d.use = .tile p c o → clean → ready p c 0 →
      ∃ t : State, exec (.drawComplete n) s = .next t ∧ t.press.pad = s.press.pad ∧ t.cel.mem = s.cel.mem ∧
        t.streamOf p c 0 = { s.streamOf p c 0 with
          tiles := writeMem (s.streamOf p c 0).tiles o (readMem s.cel.mem d.addr d.len)
          draws := (s.streamOf p c 0).draws - 1 }) ∧
    (∀ p c e o k, d.use = .toPad p c e o → p < 64 → (s.ctx p c).st = .running → bit (s.ctx p c).set.toNat p = true →
      (s.ctx p c).stopFor = none → line d.addr ≤ k → k ≤ line (d.addr + d.len - 1) → look false s.cel.poison k = true →
      s.cel.err = [] → Mild s 0x303 → Mild s (0x400 + p) →
      ∃ t : State, exec (.drawComplete n) s = .next t ∧ Faulted s t p c e (s.streamOf p c e).pc 0x09 (2 ^ 32 + d.addr) ∧
        look false t.faults.sticky 0x303 = true) ∧
    (∀ i a, d.use = .readAcc i 0 → clean → look none s.cel.accesses i = some a → a.left = 1 → a.req = none → a.chan = none →
      a.addr = d.addr → a.len = d.len → a.read = true → a.data = [] → a.poisoned = false →
      ∃ t : State, exec (.drawComplete n) s = .next t ∧ .pcieData d.addr false (readMem s.cel.mem d.addr d.len) ∈ t.out ∧
        look none t.cel.accesses i = none ∧ t.cel.mem = s.cel.mem) ∧
    (∀ i a bs, d.use = .writeAcc i bs → bs.length = d.len → clean → look none s.cel.accesses i = some a → a.left = 1 → a.req = none →
      a.chan = none → a.read = false →
      ∃ t : State, exec (.drawComplete n) s = .next t ∧ t.cel.mem = writeMem s.cel.mem d.addr bs ∧
        look none t.cel.accesses i = none ∧ t.press = s.press)) ∧
  (∀ (a : BitVec 32) (s : State), s.pcieUp = true →
    (∀ (len w : Nat), 0 < len → s.pcieWindow false a.toNat len = some w → look false (s.stave (a.toNat / staveBytes)).fenced 9 = false →
      ∃ t : State, exec (.bar2Read a len) s = .next t ∧ t.cel.mem = s.cel.mem ∧ t.out = s.out ∧
        look none t.cel.accesses s.cel.nextAcc = some
          { window := w
            epoch := (s.window w).epoch
            gen := (s.window w).gen
            left := (piecesOf 4096 a.toNat len).length
            addr := a.toNat
            len := len } ∧
        (a.toNat % 4096 + len ≤ 4096 → (t.stave (a.toNat / staveBytes)).wait = (s.stave (a.toNat / staveBytes)).wait ++
          [{ req := 9, addr := a.toNat, len := len, use := .readAcc s.cel.nextAcc 0 }])) ∧
    (∀ (data : List Byte) (w : Nat), data ≠ [] → s.pcieWindow true a.toNat data.length = some w →
      look false (s.stave (a.toNat / staveBytes)).fenced 9 = false →
      ∃ t : State, exec (.bar2Write a data) s = .next t ∧ t.cel.mem = s.cel.mem ∧ t.out = s.out ∧
        (a.toNat % 4096 + data.length ≤ 4096 → (t.stave (a.toNat / staveBytes)).wait = (s.stave (a.toNat / staveBytes)).wait ++
          [{ req := 9, addr := a.toNat, len := data.length, use := .writeAcc s.cel.nextAcc data }])) ∧
    (∀ len : Nat, 0 < len → s.pcieWindow false a.toNat len = none →
      ∃ t : State, exec (.bar2Read a len) s = .next t ∧ (Mild s 0x310 → t.cel = s.cel) ∧ t.ctl.aerUr = s.ctl.aerUr + 1 ∧
        .ur (2 ^ 32 + a.toNat) ∈ t.out ∧ look false t.faults.sticky 0x310 = true) ∧
    (∀ data : List Byte, data ≠ [] → s.pcieWindow true a.toNat data.length = none →
      ∃ t : State, exec (.bar2Write a data) s = .next t ∧ (Mild s 0x310 → t.cel = s.cel) ∧ t.ctl.aerUr = s.ctl.aerUr + 1 ∧
        look false t.faults.sticky 0x310 = true))

/-- The window commands (R271, R273, R275, R285): create and change give a window its fields, with EPOCH 0 at creation and one
more at a change; revoke ends it; a fence alone leaves it. CEL_PLAN makes its sizes live and keeps what stays press data; the
basic one puts the arbiters' settings back (R31). Fences of windows and the scrubber (R264-R268, R275, R282): a fenced reply
leaves when no access of an earlier EPOCH remains, and not before; the scrubber asks for one 4 KiB draw at a time, rewrites a line
it corrects, poisons one it cannot, and counts a poisoned one; a pass that is late sets FS 0x320 once. -/
def Obligations.WindowsPlansAndScrubTakeEffect : Prop :=
  ((∀ (h : SpHdr) (p : WindowP) (s : State), p.claim = 0 → p.fence = false → (s.window p.window.toNat).gid = 0xFFFF →
    let w := p.window.toNat
    let y : Window := { base := p.base.toNat, size := p.size.toNat, perm := p.perm.toNat, srcValue := p.srcValue.toNat,
                        srcMask := p.srcMask.toNat, pcie := p.pcie, exists_ := true, epoch := 0, gen := (s.window w).gen + 1,
                        gid := 0xFFFF }
    let up := ((s.window w).epoch + 1) % 65536
    (Applies s (cmdCelAccessCreate h p s) → ∃ t : State, exec (.celAccessCreate h p) s = .next t ∧ OnlyReplied (s.setWindow w y).windowMarks t ∧
      (Answerable s h 8 → Answered t h (okReply s h [(16, 0)]))) ∧
    (Applies s (cmdCelAccessChange h p s) → ∃ t : State, exec (.celAccessChange h p) s = .next t ∧
      OnlyReplied (s.setWindow w { y with epoch := up }).windowMarks t ∧ (Answerable s h 8 → Answered t h (okReply s h [(16, up)]))) ∧
    (Applies s (cmdCelAccessRevoke h p s) → ∃ t : State, exec (.celAccessRevoke h p) s = .next t ∧
      OnlyReplied (s.setWindow w { s.window w with exists_ := false, epoch := up, gen := (s.window w).gen + 1 }).windowMarks t ∧
      (Answerable s h 8 → Answered t h (okReply s h [(16, up)]))) ∧
    (Applies s (cmdCelAccessFence h p s) →
      (s.cel.accesses = [] → ∃ t : State, exec (.celAccessFence h p) s = .next t ∧ OnlyReplied s t ∧
        (Answerable s h 8 → Answered t h (okReply s h [(16, (s.window w).epoch)]))) ∧
      (s.windowBusy w (s.window w).gen = true → exec (.celAccessFence h p) s = .next (s.setCel { s.cel with
        fences := s.cel.fences ++ [{ window := w, gen := (s.window w).gen, epoch := (s.window w).epoch, hdr := h }] })))) ∧
  (∀ (h : SpHdr) (t r d e : BitVec 16) (s : State), s.cel.stale = [] → s.cel.saves = [] →
    ∀ (c : Cmd) (i : Instr) (plan : List Nat), (c, i, plan) ∈ [(cmdCelPlan h s, Instr.celPlan h, [16, 96, 128, 0]),
        (cmdCelPlanExpert h t r d e s, Instr.celPlanExpert h t r d e, [t.toNat, r.toNat, d.toNat, e.toNat])] → Applies s c →
      ∃ u : State, exec i s = .next u ∧ u.cel.plan = plan ∧ u.sw.ext = [plan.getD 3 0 * 2 ^ 21 / 4096, plan.getD 3 0 * 2 ^ 21 / 16384] ∧
        u.press = s.press ∧ u.sw.casks = s.sw.casks ∧
        ∀ a, s.cel.plan.sum * 65536 ≤ a % 2 ^ 26 → plan.sum * 65536 ≤ a % 2 ^ 26 →
          u.celByte a = look 0 s.cel.mem a ∧ look false u.cel.poison (a / 128) = look false s.cel.poison (a / 128))) ∧
  ((∀ (w : BitVec 16) (e g : Nat) (h : SpHdr) (s : State),
    s.cel.fences = [{ window := w.toNat, gen := g, epoch := e, hdr := h }] → h.opcode ≠ 0x0306 →
    (s.cel.accesses = [] → ∃ t : State, exec (.windowFenceDrained w) s = .next t ∧
      OnlyReplied { s with cel := { s.cel with fences := [] } } t ∧
      (Answerable s h 8 → Answered t h { okReply s h [(16, e)] with gid := (s.window w.toNat).gid })) ∧
    (∀ i x, (i, some x) ∈ s.cel.accesses → x.window = w.toNat → x.gen < g →
      exec (.windowFenceDrained w) s = .next s)) ∧
  (∀ (n : Fin 64) (s : State), s.tiersActive = true →
    let v := s.stave n.val
    (v.scrubAt < 2 ^ 26 → v.grant = none → (∀ d ∈ v.wait, d.req ≠ 10) → exec (.scrubDraw n) s = .next (s.setStave n.val
      { v with wait := v.wait ++ [{ req := 10, addr := n.val * 2 ^ 26 + v.scrubAt, len := 4096, use := .scrub }] })) ∧
    (∀ d, v.grant = some d → d.req = 10 → v.scrubAt % 4096 = 0 → Mild s 0x300 → Mild s 0x301 → Mild s 0x302 →
      ∃ t : State, exec (.scrubDraw n) s = .next t ∧ (t.stave n.val).grant = none ∧
        (t.stave n.val).scrubAt = (v.scrubAt + 4096) % 2 ^ 26 ∧ t.cel.mem = s.cel.mem ∧ t.press = s.press ∧
        ∀ k, let base := (n.val * 2 ^ 26 + v.scrubAt) / 128
          let p := look false s.cel.poison k
          let e := s.lineBad k
          if base ≤ k ∧ k < base + 32 ∧ p = false then
            t.lineBad k = 0 ∧ look false t.cel.poison k = decide (2 ≤ e) ∧
            (e = 1 → look false t.faults.sticky 0x300 = true) ∧ (e = 2 → look false t.faults.sticky 0x301 = true) ∧
            (e = 3 → look false t.faults.sticky 0x302 = true)
          else t.lineErr k = s.lineErr k ∧ look false t.cel.poison k = p)) ∧
  (∀ (n : Fin 64) (s : State),
    let v := s.stave n.val
    let due := max v.scrubBegan s.cel.scrubFrom + 900 * 10 ^ 9
    (s.tiersActive = true → v.scrubLate = false → due ≤ s.mono → ∃ t : State, exec (.scrubPassTimeout n) s = .next t ∧
      look false t.faults.sticky 0x320 = true ∧
      (Mild s 0x320 → t.stave n.val = { v with scrubLate := true } ∧ t.cel.mem = s.cel.mem)) ∧
    (s.tiersActive = false ∨ v.scrubLate = true ∨ s.mono < due → exec (.scrubPassTimeout n) s = .next s)))

/-- The full reset returns everything to its reset value but fabric time, the always-on settings, the fuses and the flash (R332,
R431); PERST_N and the function-level reset return the rings' registers to their reset values, and what they have taken stays
outstanding (R332, R345). Reset values that the spec does not give are those of log 5. UNIT_RESET (R349, R350): a unit that no
fence waits for is left alone, and so is a press while the control complex restarts (R366); a press that is due and passes its
test is clear again and in service; one that fails its test stays contained; a core that is due makes the control complex serve
commands again. The numbers of the units are the model's (log 64), and source 0x7FF is its reset through DEV_RESET. -/
def Obligations.ResetsLeaveWhatTheyMust : Prop :=
  ((∀ s : State, ∃ t : State, exec .sysReset s = .next t ∧ t.time = s.time ∧ t.ident = { s.ident with pinApplied := none } ∧
    t.fw.staging = s.fw.staging ∧ t.fw.activeVersion = s.fw.activeVersion ∧ t.fw.version = 0 ∧
    t.ctl = ({} : Ctl) ∧ t.svc = ({} : Svc) ∧ t.faults = ({} : Faults) ∧ t.tele = ({} : Telemetry) ∧ t.links = ({} : Links) ∧
    t.sw = ({} : Switch) ∧ t.fab = ({} : Fabric) ∧ t.vats = ({} : Vats) ∧ t.sync = [] ∧ t.press = ({} : Presses) ∧
    t.cel = ({} : Cellar) ∧ t.adm = ({} : Admission) ∧ (∀ d, (t.domain d).st = .off) ∧ t.pwr.cap = 0 ∧ t.pwr.vintage = s.pwr.vintage ∧
    t.aon.vtHi = s.aon.vtHi ∧ t.aon.vtLo = s.aon.vtLo ∧ t.aon.curve = s.aon.curve ∧ t.aon.cmp0 = s.aon.cmp0 ∧
    t.pending = s.pending) ∧
  (∀ (i : Instr) (s : State), i ∈ [Instr.perst, Instr.functionLevelReset] →
    ∃ t : State, exec i s = .next t ∧ t = { s with svc := { s.svc with rings := t.svc.rings } } ∧
      (canon ({} : Ring) s.svc.rings = true → ∀ k, t.ring k = { outstanding := (s.ring k).outstanding }))) ∧
  ((∀ (src : BitVec 11) (n : Nat) (ok : Bool) (s : State), s.faults.resetDue = [] → exec (.unitReset src n ok) s = .next s) ∧
  (∀ (src : BitVec 11) (n : Fin 64) (ok : Bool) (s : State), s.faults.resetDue = [(src.toNat, .press n.val)] → src ≠ 0x7FF →
    s.ctl.cmdPaused = true → exec (.unitReset src (7 * 2 ^ 24 + n.val) ok) s = .next s) ∧
  (∀ (src : BitVec 11) (n : Fin 64) (s : State), s.faults.resetDue = [(src.toNat, .press n.val)] → src ≠ 0x7FF →
    s.ctl.cmdPaused = false → (∀ c < 8, (s.ctx n.val c).st ≠ .running) → s.faults.contained = [] → s.domActive (16 + n.val) = true →
    (∃ t : State, exec (.unitReset src (7 * 2 ^ 24 + n.val) true) s = .next t ∧ t.faults.resetDue = [] ∧ t.faults.contained = [] ∧
      t.pr n.val = ({} : Press) ∧ t.adm.rerun = true ∧ (∀ a < 2 ^ 21, look 0 t.press.pad (n.val * 2 ^ 21 + a) = 0) ∧
      (∀ a < 2 ^ 17, look 0 t.press.imem (n.val * 2 ^ 17 + a) = 0) ∧ (∀ a < 2 ^ 18, look 0 t.press.dmem (n.val * 2 ^ 18 + a) = 0) ∧
      (∀ a, (a < n.val * 2 ^ 21 ∨ (n.val + 1) * 2 ^ 21 ≤ a) → look 0 t.press.pad a = look 0 s.press.pad a) ∧
      (∀ k, k ≠ n.val → t.pr k = s.pr k) ∧ t.cel = s.cel) ∧
    (look false s.faults.sticky src.toNat = true →
      ∃ t : State, exec (.unitReset src (7 * 2 ^ 24 + n.val) false) s = .next t ∧ t.faults.resetDue = [] ∧
      t.faults.contained = [(src.toNat, .press n.val)] ∧ t.press = s.press)) ∧
  (∀ (src : BitVec 11) (k : Fin 6) (s : State), s.faults.resetDue = [(src.toNat, .core k.val)] → src ≠ 0x7FF → s.fw.activating = none →
    s.domActive 1 = true →
    ∃ t : State, exec (.unitReset src (9 * 2 ^ 24 + k.val) true) s = .next t ∧ t.faults.resetDue = [] ∧ t.ctl.fwReady = true ∧
      t.ctl.cmdPaused = false ∧ t.press = s.press ∧ t.cel = s.cel ∧ t.fab = s.fab))

/-- BOOT and WAKE (R377, R399-R403, R409, R412): with the supplies good the device comes up in profile 1 with the image that is
valid and asked for; with none it serves recovery from ROM; SCRAPPED it stops after stage 1; nothing boots while it runs or
without its supplies. What the outside says of the images comes as arguments (log 88), and the fuses hold the values of log 5. The
firmware image and the fuses (R399-R401, R406-R411): FW_BLOCK stores its block, and at OFFSET 0 erases the slot first; FW_VERIFY
says which check fails first; FW_ACTIVATE sets the marker and restarts the control complex; the copy that follows clears the
marker; LC_TRANSITION burns its target's fuses; the key hash is written once, in BLANK. -/
def Obligations.TheDeviceBootsItsFirmware : Prop :=
  (∀ (board : List Byte) (stagingOk burnOk : Bool) (s : State), s.ctl = ({} : Ctl) → s.fw.identityOnly = false → s.aon.tripped = false →
    s.lcPending = [] →
    let marked := (s.ctlNow.map CtlRec.marker).getD false
    ((s.aon.cmp0.lvl = false ∨ s.aon.cmp1.lvl = false) → ∀ a, exec (.boot board a stagingOk burnOk) s = .next s) ∧
    (s.aon.cmp0.lvl = true → s.aon.cmp1.lvl = true →
      (s.lcState = 4 → ∃ t : State, exec (.boot board true stagingOk burnOk) s = .next t ∧ t.ctl.bootStage = 1 ∧
        t.ctl.fwReady = false ∧ t.fw.identityOnly = true) ∧
      (s.lcState < 4 → marked = false → s.fw.activating = none →
        ∃ t : State, exec (.boot board true stagingOk burnOk) s = .next t ∧ t.ctl.fwReady = true ∧ t.ctl.bootStage = 15 ∧
          t.ctl.profile = 1 ∧ t.fw.version = s.fw.activeVersion ∧ (∀ d, 1 ≤ d → d < 16 → (t.domain d).st = .active) ∧
          (boardOk board = true → t.aon.vtHi = bd16 board 40 ∧ t.aon.vtLo = bd16 board 42 ∧ t.aon.curve = bdCurve board) ∧
          (boardOk board = false → t.aon.vtHi = 950 ∧ t.aon.vtLo = 900 ∧ t.aon.curve = [(700, 300), (950, 1000)])) ∧
      (s.lcState < 4 → marked = false → s.imageValid = false →
        ∃ t : State, exec (.boot board false stagingOk burnOk) s = .next t ∧ t.ctl.fwReady = false ∧ t.ctl.recovery = true ∧
          t.ctl.bootStage = 2)) ∧
    (s.aon.waking = false → ∀ a, exec (.wake board a stagingOk burnOk) s = .next s) ∧
    (s.aon.waking = true → s.aon.cmp0.lvl = true → s.aon.cmp1.lvl = true → s.aon.cmp3.lvl = true → s.lcState < 3 → marked = false →
      s.fw.activating = none →
      ∃ t : State, exec (.wake board true stagingOk burnOk) s = .next t ∧ t.ctl.fwReady = true ∧ t.ctl.profile = 1 ∧
        t.aon.waking = false ∧ t.aon.wakeRequest = false ∧ t.cel.plan = s.aon.savedPlan ∧
        ((s.domain 15).st = .retention → s.press = ({} : Presses) → ∀ a, State.pressDataStart s.aon.savedPlan ≤ a % staveBytes →
          look 0 t.cel.mem a = look 0 s.cel.mem a))) ∧
  ((∀ (h : SpHdr) (o n : BitVec 32) (data : List Byte) (s : State), Applies s (cmdFwBlock h o n data s) →
    ∃ t : State, exec (.fwBlock h o n data) s = .next t ∧ OnlyReplied { s with fw := t.fw } t ∧ t.fw.verified = false ∧
      (o = 0 → t.fw.staging = writeMem [] 0 (data.take n.toNat) ∧ t.fw.owner = some h.src) ∧
      (o ≠ 0 → t.fw.staging = writeMem s.fw.staging o.toNat (data.take n.toNat) ∧ t.fw.owner = s.fw.owner)) ∧
  (∀ (h : SpHdr) (s : State), Applies s (cmdFwVerify h s) →
    ∃ t : State, exec (.fwVerify h) s = .next t ∧ OnlyReplied { s with fw := t.fw } t ∧
      (∀ k, s.verifyFail = some k → t.fw.verified = false ∧
        (Answerable s h 0 → Answered t h { s.message h false 0x0603 with detail := k })) ∧
      (s.verifyFail = none → t.fw.verified = true ∧
        (Answerable s h 8 → Answered t h (okReply s h [(32, s.imageVersion.toNat)])))) ∧
  (∀ (h : SpHdr) (s : State), Applies s (cmdFwActivate h s) → s.ctl.recovery = false →
    ∃ t : State, exec (.fwActivate h) s = .next t ∧ (t.ctlNow.map CtlRec.marker).getD false = true ∧ t.fw.activating = some h ∧
      t.ctl.cmdPaused = true ∧ t.ctl.fwReady = false ∧ t.faults.resetDue = s.faults.resetDue ++ [(0xFFFF, .core 0)] ∧
      t.press = s.press ∧ t.cel = s.cel ∧ t.svc.taken = s.svc.taken) ∧
  (∀ s : State, (s.fw.copying = false → exec .imageCopyDone s = .next s) ∧
    (s.fw.copying = true → ∃ t : State, exec .imageCopyDone s = .next t ∧ t.fw.activeVersion = s.fw.version ∧ t.fw.copying = false ∧
      (t.ctlNow.map CtlRec.marker).getD false = false)) ∧
  (∀ (h : SpHdr) (g : BitVec 8) (s : State), Applies s (cmdLcTransition h g s) →
    ∃ t : State, exec (.lcTransition h g) s = .next t ∧ look 0 t.ident.lcIntent g.toNat = 16 ∧ look 0 t.ident.lcCommit g.toNat = 16 ∧
      (∀ k, k ≠ g.toNat → look 0 t.ident.lcCommit k = look 0 s.ident.lcCommit k) ∧ t.ident.keyHash = s.ident.keyHash) ∧
  (∀ (hash : List Byte) (s : State),
    (s.lcState = 0 → s.ident.keyHash = none →
      exec (.jtagKeyHashWrite hash) s = .next { s with ident := { s.ident with keyHash := some hash } }) ∧
    (s.lcState ≠ 0 ∨ s.ident.keyHash ≠ none → exec (.jtagKeyHashWrite hash) s = .next s)))

/-- What watches the device (R355, R356, R359, R366, R367, R405): a core's watchdog at severity 4 restarts the control complex; a
protection violation sets its source and ends what the component had begun; a table block that does not match, and a difference
that reconciliation finds, set their sources; timed forces and injections end. Harvest and admission in the background (R158,
R301-R303, R418): each interval writes the selected records, the device's with its power, cap, hottest junction and profile; a
re-run leaves a set that passes as it is, and marks a guarantee that cannot be kept AT_RISK with FS 0x690. -/
def Obligations.BackgroundAndMaintenanceAct : Prop :=
  ((∀ (k : Fin 6) (s : State), s.ctl.fwReady = true → s.severity (0x6B8 + k.val) = 4 →
    look false s.faults.sticky (0x6B8 + k.val) = false → s.recentResets (.core k.val) < 2 →
    ∃ t : State, exec (.coreWatchdogExpiry k) s = .next t ∧ look false t.faults.sticky (0x6B8 + k.val) = true ∧
      t.ctl.cmdPaused = true ∧ t.ctl.fwReady = false ∧
      t.faults.resetDue = s.faults.resetDue ++ [(0x6B8 + k.val, .core k.val)] ∧ t.press = s.press ∧ t.cel = s.cel) ∧
  (∀ (k : Fin 6) (s : State), s.ctl.fwReady = true →
    ∃ t : State, exec (.coreWatchdogExpiry k) s = .next t ∧ look false t.faults.sticky (0x6B8 + k.val) = true) ∧
  (∀ (k : Fin 6) (s : State), s.ctl.fwReady = true →
    ((∀ v ∈ s.faults.violations, v.1 ≠ k.val) → ∃ t : State, exec (.protectionViolation k 3) s = .next t ∧
      look false t.faults.sticky (0x688 + k.val) = true ∧ (k.val, s.mono) ∈ t.faults.violations ∧
      (Mild s (0x688 + k.val) → t.ctl = s.ctl ∧ t.press = s.press)) ∧
    (∀ h : SpHdr, (∀ v ∈ s.faults.violations, v.1 ≠ k.val) → s.fab.discFor = some h → s.fab.commitFor = [] →
      ∃ t : State, exec (.protectionViolation k 2) s = .next t ∧ t.fab.discFor = none ∧
        (Answerable s h 0 → Answered t h (s.message h false 0x0601)))) ∧
  (∀ (a b : Nat) (s : State), s.ctl.fwReady = true →
    (∃ t : State, exec (.tableCrcSweep a b true) s = .next t ∧ look false t.faults.sticky 0x6B3 = true ∧
      (Mild s 0x6B1 → Mild s 0x6B3 → t.fab = s.fab)) ∧
    (let v := s.faults.sweep.visit (a * 2 ^ 20 + b % 2 ^ 20) s.mono (10 ^ 9)
     (v.2 = false → exec (.tableCrcSweep a b false) s = .next { s with faults := { s.faults with sweep := v.1 } }) ∧
     (v.2 = true → ∃ t : State, exec (.tableCrcSweep a b false) s = .next t ∧ look false t.faults.sticky 0x6B1 = true ∧
       (Mild s 0x6B1 → t.fab = s.fab)))) ∧
  (∀ (u : Nat) (up : Bool) (s : State), s.ctl.fwReady = true →
    (look none s.faults.mgmtCopy u = some up → exec (.reconcile u up) s = .next s) ∧
    (look none s.faults.mgmtCopy u ≠ some up →
      ∃ t : State, exec (.reconcile u up) s = .next t ∧ look false t.faults.sticky 0x6C0 = true ∧
        look none t.faults.mgmtCopy u = some up ∧ t.links = s.links ∧ (Mild s 0x6C0 → t.fab = s.fab))) ∧
  (∀ (i : BitVec 11) (s : State), faultDefault i.toNat ≠ none → look 0 s.faults.forceTime i.toNat ≠ 0 → look 0 s.faults.forceTime i.toNat ≤ s.mono →
    ∃ t : State, exec (.forceTimerExpiry i) s = .next t ∧ look false t.faults.force i.toNat = false ∧ t.faults.sticky = s.faults.sticky) ∧
  (∀ (g : BitVec 7) (s : State), look 0 s.faults.injCount g.toNat ≠ 0 → s.faults.injLeft = [] →
    ∃ t : State, exec (.injectDone g) s = .next t ∧ look 0 t.faults.injCount g.toNat = 0 ∧ t.faults.sticky = s.faults.sticky)) ∧
  ((∀ s : State, s.ctl.fwReady = true → s.tele.select = 0x80 → s.tele.harvest.enable = true →
    State.recFull s.tele.harvest = false → s.tele.traceCtl = 0 →
    ∃ t : State, exec .harvestInterval s = .next t ∧ t.tele.intervalAt = s.mono ∧
      t.tele.harvest = { s.tele.harvest with prod := (s.tele.harvest.prod + 1) % 2 ^ s.tele.harvest.sizeK } ∧
      .harvestRec s.tele.harvest.prod 8 0 s.svc.layerId.toNat s.svc.operatorId.toNat (State.ns s)
        [(32, s.pwr.avg), (32, s.pwr.cap), (16, unsigned 16 s.hottest), (8, s.ctl.profile)] ∈ t.out ∧
      t.sw = s.sw ∧ t.press = s.press) ∧
  (∀ s : State, ∃ t : State, exec .harvestInterval s = .next t ∧ (s.ctl.fwReady = true → t.tele.intervalAt = s.mono) ∧
    ∀ k < 6, bit s.tele.traceCtl.toNat k = false → look [] t.tele.trace k = look [] s.tele.trace k) ∧
  (∀ s : State, s.ctl.fwReady = true → s.tele.select = 0 → s.tele.traceCtl = 0 →
    exec .harvestInterval s = .next { s with tele := { s.tele with intervalAt := s.mono } }) ∧
  (∀ s : State, s.adm.rerun = false → exec .admissionRerun s = .next s) ∧
  (∀ s : State, ∃ t : State, exec .admissionRerun s = .next t ∧ t.adm.rerun = false) ∧
  (∀ (g : Guarantee) (s : State), s.adm.rerun = true → s.adm.records = [g] → g.st = .admitted → s.svc.staged = [] →
    s.asideList = [] →
    let u : State := State.reshape { s with adm := { s.adm with rerun := false } }
    (u.failsWith [] g = [] → exec .admissionRerun s = .next u) ∧
    ((((u.failsWith [] g).foldl State.setAside u).failsWith [] g) ≠ [] → u.failsWith [] g ≠ [] → Mild s 0x690 →
      ∃ t : State, exec .admissionRerun s = .next t ∧ t.adm.records = [{ g with st := .atRisk }] ∧
        look false t.faults.sticky 0x690 = true ∧ t.press = s.press ∧ t.vats = s.vats)))

/-- Every step keeps the canonical form of the byte memories: addresses strictly rising, no byte listed that reads 0 unlisted, so
that equal memories are equal data. -/
def Obligations.EveryStepKeepsTheMemoriesCanonical : Prop :=
  ∀ s t : State, MemoriesCanonical s → step s = .next t → MemoriesCanonical t

/-- The memories of the device after reset are in canonical form: they list nothing. What a byte that nothing has written reads as
is the model's choice (log 6). -/
def Obligations.ResetMemoriesAreCanonical : Prop :=
  MemoriesCanonical State.reset ∧ State.reset.cel.mem = [] ∧ State.reset.press.pad = []

/-- A command changes neither the commands that wait nor what has been sent, and, with every source at severity 2 or less, only
the commands listed for a part of the device change it: the fuses and records, fabric time, power, firmware, vats, sync counters
and the SMBus INDEX. -/
def Obligations.OnlyTheirCommandsChangeThem : Prop :=
  (∀ (i : Instr) (s t : State), exec i s = .next t → t.pending = s.pending ∧ s.out <:+ t.out) ∧
  (∀ (i : Instr) (s t : State), (∀ j, Mild s j) → exec i s = .next t →
    (writesIdent i = false → t.ident = s.ident) ∧ (writesTime i = false → t.time = s.time) ∧
    (writesPwr i = false → t.pwr = s.pwr) ∧ (writesFw i = false → t.fw = s.fw) ∧ (writesVats i = false → t.vats = s.vats) ∧
    (writesSync i = false → t.sync = s.sync) ∧ (writesSmbIndex i = false → t.smbIndex = s.smbIndex))
end

