-- ==== Sys2Proof/WellFormed.lean ====
section
/-!
DEFINITION. Well-formed commands: the sizes and ranges that the records and messages of the spec have.
-/

namespace Sys2Proof

/-- A payload is at most 16,352 bytes and the type-specific field is 16 bytes (R82). -/
def Packet.wf (p : Packet) : Bool := p.tspec.length ≤ 16 && p.payload.length ≤ 16352

/-- At most 37 payload slots of 16 bytes, and credit fields of the 16 virtual channels, 0-63 each (R66, R79). -/
def Flit.wf (f : Flit) : Bool :=
  f.slots.length ≤ 37 && f.slots.all (fun s => s.length = 16) && f.credits.all (fun c => c.1 < 16 && c.2 < 64)

/-- FNA fields hold 18 bits by their type; hop counts 8 bits (R103). -/
def DiscMsg.wf (m : DiscMsg) : Bool := m.hops < 256 && m.rootHops < 256

/-- At most 18 hops of a pinned sequence (R317). -/
def RouteX.wf (r : RouteX) : Bool := r.seq.length ≤ 18

/-- Port maps list 64 records (R317). -/
def DiscoverX.wf (p : DiscoverX) : Bool := p.map.length = 64

/-- The eight classes of a QoS profile (R317). -/
def QosProfileP.wf (p : QosProfileP) : Bool := p.proportion.length = 4 && p.account.length = 3

/-- At most 256 gate entries (R154). -/
def GatesP.wf (p : GatesP) : Bool := p.entries.length ≤ 256 && p.claim.length = 8

/-- At most 16 fusion segments (R163, R189). -/
def CollP.wf (p : CollP) : Bool := p.seg.length ≤ 16

/-- ARGS are 512 bits (R317). -/
def PressLaunchP.wf (p : PressLaunchP) : Bool := p.args.length = 64

/-- A command has the sizes the spec gives its operands. -/
def Instr.wf : Instr → Bool
  | .linkConfigExpert _ _ => true
  | .fabDiscoverExpert _ p => p.wf
  | .fabRouteExpert _ p => p.wf
  | .qosProfile _ p => p.wf
  | .qosGates _ p => p.wf
  | .collOpen _ p => p.wf
  | .collOpenExpert _ p => p.wf
  | .pressLaunch _ p => p.wf
  | .pressLaunchExpert _ p => p.wf
  | .pressLayoutRecord _ p => p.wf
  | .faultCfg _ _ count severity => decide (severity.length = count.toNat)
  | .fwBlock _ _ length data => decide (data.length = length.toNat)
  | .sequencedFlitReceive _ f _ => f.wf
  | .nullFlitReceive _ f => f.wf
  | .retryReqReceive _ f => f.wf
  | .idleEntryReceive _ f => f.wf
  | .helloReceive _ m => m.wf
  | .rootReceive _ m => m.wf
  | .coordReceive _ m => m.wf
  | .holeReceive _ m => m.wf
  | .announceReceive _ m => m.wf
  | .redirectReceive _ m => m.wf
  | .takeoverReceive m => m.msg.wf
  | .boot board _ _ _ => decide (board.length = 128)
  | .wake board _ _ _ => decide (board.length = 128)
  | .jtagKeyHashWrite hash => decide (hash.length = 48)
  | _ => true

end Sys2Proof
end

