-- ==== Sys2Proof/Laws/PerInstr.lean ====
section
/-!
SUPPORT. Statements for all commands, one lemma a constructor.
-/

namespace Sys2Proof.Laws

end Sys2Proof.Laws
end

