-- ==== Sys2Proof/Laws/Tables.lean ====
section
/-!
SUPPORT. Laws of sparse tables and byte memories: a read after a write, and the canonical form that every operation
keeps. The read laws hold of every table, canonical or not.
-/

namespace Sys2Proof.Machine

variable {α : Type}

/-! ### A read after a change -/

@[simp] theorem look_nil (d : α) (k : Nat) : look d [] k = d := rfl

theorem look_unlist (d : α) (t : Tab α) (k j : Nat) : look d (unlist k t) j = if j = k then d else look d t j := by
  induction t with
  | nil => simp [unlist]
  | cons e t ih =>
    obtain ⟨i, w⟩ := e
    by_cases hi : i = k
    · subst hi
      by_cases hj : j = i
      · subst hj; simpa [unlist] using ih
      · simpa [unlist, hj, look, Ne.symm hj] using ih
    · by_cases hj : i = j
      · subst hj
        simp [unlist, hi, look]
      · simp [unlist, hi, look, hj, ih]

theorem look_enlist (d : α) (t : Tab α) (k j : Nat) (v : α) :
    look d (enlist k v t) j = if j = k then v else look d t j := by
  induction t with
  | nil => simp [enlist, look, eq_comm]
  | cons e t ih =>
    obtain ⟨i, w⟩ := e
    by_cases hi : i = k
    · subst hi
      by_cases hj : j = i
      · simp [enlist, look, hj]
      · simp [enlist, look, hj, Ne.symm hj]
    · by_cases hk : k < i
      · by_cases hj : j = k
        · simp [enlist, hi, hk, look, hj]
        · simp [enlist, hi, hk, look, hj, Ne.symm hj]
      · by_cases hj : i = j
        · subst hj
          simp [enlist, hi, hk, look]
        · simp [enlist, hi, hk, look, hj, ih]

/-- A read after a write: the value written at its key, elsewhere what was there. -/
theorem look_put [DecidableEq α] (d : α) (t : Tab α) (k j : Nat) (v : α) :
    look d (put d t k v) j = if j = k then v else look d t j := by
  by_cases h : v = d
  · subst h
    simp [put, look_unlist]
  · simp [put, h, look_enlist]

@[simp] theorem look_put_self [DecidableEq α] (d : α) (t : Tab α) (k : Nat) (v : α) : look d (put d t k v) k = v := by
  simp [look_put]

theorem look_put_of_ne [DecidableEq α] (d : α) (t : Tab α) {k j : Nat} (v : α) (h : j ≠ k) :
    look d (put d t k v) j = look d t j := by
  simp [look_put, h]

/-- Clearing a range makes it read as unlisted and leaves the rest. -/
theorem look_clearRange (d : α) (t : Tab α) (lo n j : Nat) :
    look d (clearRange t lo n) j = if lo ≤ j ∧ j < lo + n then d else look d t j := by
  induction t with
  | nil => simp [clearRange]
  | cons e t ih =>
    obtain ⟨i, w⟩ := e
    simp only [clearRange] at ih ⊢
    by_cases hi : lo ≤ i ∧ i < lo + n
    · have : (!(decide (lo ≤ i) && decide (i < lo + n))) = false := by simp [hi]
      simp only [List.filter, this, ih, look]
      by_cases hj : i = j
      · subst hj; simp [hi]
      · simp [hj]
    · have : (!(decide (lo ≤ i) && decide (i < lo + n))) = true := by
        simp only [Bool.not_eq_true', Bool.and_eq_false_iff, decide_eq_false_iff_not]
        omega
      simp only [List.filter, this, look, ih]
      by_cases hj : i = j
      · subst hj; simp [hi]
      · simp [hj]

/-! ### The canonical form -/

variable [DecidableEq α] {d : α}

theorem canon_cons {k : Nat} {v : α} {t : Tab α} :
    canon d ((k, v) :: t) = true ↔ v ≠ d ∧ (∀ e ∈ t, k < e.1) ∧ canon d t = true := by
  simp [canon, and_assoc]

@[simp] theorem canon_nil : canon d ([] : Tab α) = true := rfl

omit [DecidableEq α] in
theorem mem_of_mem_unlist {k : Nat} {t : Tab α} {e : Nat × α} (h : e ∈ unlist k t) : e ∈ t := by
  induction t with
  | nil => simp [unlist] at h
  | cons x t ih =>
    obtain ⟨i, w⟩ := x
    by_cases hi : i = k
    · simp only [unlist, hi, if_true] at h
      exact List.mem_cons_of_mem _ (ih h)
    · simp only [unlist, hi, if_false, List.mem_cons] at h ⊢
      exact h.imp_right ih

omit [DecidableEq α] in
theorem mem_enlist {k : Nat} {v : α} {t : Tab α} {e : Nat × α} (h : e ∈ enlist k v t) : e = (k, v) ∨ e ∈ t := by
  induction t with
  | nil => simpa [enlist] using h
  | cons x t ih =>
    obtain ⟨i, w⟩ := x
    by_cases hi : i = k
    · simp only [enlist, hi, if_true, List.mem_cons] at h ⊢
      exact h.imp_right .inr
    · by_cases hk : k < i
      · simpa [enlist, hi, hk] using h
      · simp only [enlist, hi, hk, if_false, List.mem_cons] at h ⊢
        rcases h with h | h
        · exact .inr (.inl h)
        · exact (ih h).imp_right .inr

theorem canon_unlist {k : Nat} {t : Tab α} (h : canon d t = true) : canon d (unlist k t) = true := by
  induction t with
  | nil => rfl
  | cons x t ih =>
    obtain ⟨i, w⟩ := x
    obtain ⟨hv, hlt, ht⟩ := canon_cons.mp h
    by_cases hi : i = k
    · simpa [unlist, hi] using ih ht
    · simp only [unlist, hi, if_false]
      exact canon_cons.mpr ⟨hv, fun e he => hlt e (mem_of_mem_unlist he), ih ht⟩

theorem canon_enlist {k : Nat} {v : α} {t : Tab α} (hv : v ≠ d) (h : canon d t = true) : canon d (enlist k v t) = true := by
  induction t with
  | nil => simp [enlist, canon, hv]
  | cons x t ih =>
    obtain ⟨i, w⟩ := x
    obtain ⟨hw, hlt, ht⟩ := canon_cons.mp h
    by_cases hi : i = k
    · subst hi
      simp only [enlist, if_true]
      exact canon_cons.mpr ⟨hv, hlt, ht⟩
    · by_cases hk : k < i
      · simp only [enlist, hi, hk, if_true, if_false]
        refine canon_cons.mpr ⟨hv, fun e he => ?_, h⟩
        rcases List.mem_cons.mp he with rfl | he
        · exact hk
        · exact hk.trans (hlt e he)
      · simp only [enlist, hi, hk, if_false]
        refine canon_cons.mpr ⟨hw, fun e he => ?_, ih ht⟩
        rcases mem_enlist he with rfl | he
        · show i < k
          omega
        · exact hlt e he

/-- A write keeps the canonical form. -/
theorem canon_put {t : Tab α} (k : Nat) (v : α) (h : canon d t = true) : canon d (put d t k v) = true := by
  by_cases hv : v = d
  · simpa [put, hv] using canon_unlist h
  · simpa [put, hv] using canon_enlist hv h

theorem canon_filter {t : Tab α} (p : Nat × α → Bool) (h : canon d t = true) : canon d (t.filter p) = true := by
  induction t with
  | nil => rfl
  | cons x t ih =>
    obtain ⟨i, w⟩ := x
    obtain ⟨hw, hlt, ht⟩ := canon_cons.mp h
    by_cases hp : p (i, w) = true
    · simp only [List.filter, hp]
      exact canon_cons.mpr ⟨hw, fun e he => hlt e (List.mem_of_mem_filter he), ih ht⟩
    · simp only [Bool.not_eq_true] at hp
      simpa [List.filter, hp] using ih ht

/-- Clearing a range keeps the canonical form. -/
theorem canon_clearRange {t : Tab α} (lo n : Nat) (h : canon d t = true) : canon d (clearRange t lo n) = true :=
  canon_filter _ h

/-! ### Byte memories -/

theorem Memory.wf_put {m : Tab Byte} (a : Nat) (b : Byte) (h : Memory.wf m = true) : Memory.wf (put 0 m a b) = true :=
  canon_put a b h

/-- Writing bytes keeps the canonical form. -/
theorem Memory.wf_writeMem {m : Tab Byte} (a : Nat) (bs : List Byte) (h : Memory.wf m = true) :
    Memory.wf (writeMem m a bs) = true := by
  induction bs generalizing m a with
  | nil => exact h
  | cons b bs ih => exact ih (a + 1) (Memory.wf_put a b h)

theorem Memory.wf_clearRange {m : Tab Byte} (lo n : Nat) (h : Memory.wf m = true) :
    Memory.wf (clearRange m lo n) = true :=
  canon_clearRange lo n h

@[simp] theorem Memory.wf_nil : Memory.wf [] = true := rfl

/-- A byte after a write of bytes: the byte written there, elsewhere what was there. -/
theorem look_writeMem (m : Tab Byte) (a : Nat) (bs : List Byte) (j : Nat) :
    look 0 (writeMem m a bs) j = if a ≤ j ∧ j < a + bs.length then bs.getD (j - a) 0 else look 0 m j := by
  induction bs generalizing m a with
  | nil => simp [writeMem, show ¬(a ≤ j ∧ j < a) by omega]
  | cons b bs ih =>
    simp only [writeMem, ih, look_put, List.length_cons]
    by_cases h1 : a + 1 ≤ j ∧ j < a + 1 + bs.length
    · have : j - a = j - (a + 1) + 1 := by omega
      simp [h1, show a ≤ j ∧ j < a + (bs.length + 1) by omega, this]
    · by_cases h2 : j = a
      · subst h2
        simp
      · rw [if_neg h1, if_neg h2, if_neg (by omega)]

theorem readMem_length (m : Tab Byte) (a n : Nat) : (readMem m a n).length = n := by simp [readMem]

/-- Reading what was just written gives it back. -/
theorem readMem_writeMem (m : Tab Byte) (a : Nat) (bs : List Byte) : readMem (writeMem m a bs) a bs.length = bs := by
  apply List.ext_getElem
  · simp [readMem]
  · intro i h1 h2
    simp only [readMem, List.getElem_map, List.getElem_range, look_writeMem]
    rw [if_pos (by omega)]
    simp [h2]

/-- Writing bytes leaves every range that does not meet them. -/
theorem readMem_writeMem_of_apart (m : Tab Byte) (a : Nat) (bs : List Byte) (b n : Nat)
    (h : b + n ≤ a ∨ a + bs.length ≤ b) : readMem (writeMem m a bs) b n = readMem m b n := by
  apply List.ext_getElem
  · simp [readMem]
  · intro i h1 h2
    have hi : i < n := by simpa [readMem] using h1
    simp only [readMem, List.getElem_map, List.getElem_range, look_writeMem]
    rw [if_neg (by omega)]

theorem readMem_clearRange (m : Tab Byte) (lo n b k : Nat) (h : b + k ≤ lo ∨ lo + n ≤ b) :
    readMem (clearRange m lo n) b k = readMem m b k := by
  apply List.ext_getElem
  · simp [readMem]
  · intro i h1 h2
    have hi : i < k := by simpa [readMem] using h1
    simp only [readMem, List.getElem_map, List.getElem_range, look_clearRange]
    rw [if_neg (by omega)]

/-! ### Little-endian bytes -/

@[simp] theorem leBytes_length (n v : Nat) : (leBytes n v).length = n := by
  induction n generalizing v with
  | zero => rfl
  | succ n ih => simp [leBytes, ih]

theorem leNat_lt (bs : List Byte) : leNat bs < 256 ^ bs.length := by
  induction bs with
  | nil => simp [leNat]
  | cons b bs ih =>
    have := b.isLt
    simp only [leNat, List.length_cons, Nat.pow_succ]
    omega

/-- The value of the bytes of a number is the number, modulo their range. -/
theorem leNat_leBytes (n v : Nat) : leNat (leBytes n v) = v % 256 ^ n := by
  induction n generalizing v with
  | zero => simp [leBytes, leNat, Nat.mod_one]
  | succ n ih =>
    have h : (256 : Nat) ^ (n + 1) = 256 * 256 ^ n := by rw [Nat.pow_succ, Nat.mul_comm]
    rw [h, Nat.mod_mul]
    simp only [leBytes, leNat, ih, BitVec.toNat_ofNat]

end Sys2Proof.Machine
end

