-- ==== Sys2Proof/Laws/State.lean ====
section
/-!
SUPPORT. Laws of the state's units: for every update, what each field of the state is after it, and a read of a unit
after a write of it.
-/

namespace Sys2Proof.Machine.State

/-! ### setRing -/

@[simp] theorem setRing_ident (s : State) (k : Nat) (v : Ring) : (s.setRing k v).ident = s.ident := rfl
@[simp] theorem setRing_ctl (s : State) (k : Nat) (v : Ring) : (s.setRing k v).ctl = s.ctl := rfl
@[simp] theorem setRing_faults (s : State) (k : Nat) (v : Ring) : (s.setRing k v).faults = s.faults := rfl
@[simp] theorem setRing_time (s : State) (k : Nat) (v : Ring) : (s.setRing k v).time = s.time := rfl
@[simp] theorem setRing_aon (s : State) (k : Nat) (v : Ring) : (s.setRing k v).aon = s.aon := rfl
@[simp] theorem setRing_tele (s : State) (k : Nat) (v : Ring) : (s.setRing k v).tele = s.tele := rfl
@[simp] theorem setRing_links (s : State) (k : Nat) (v : Ring) : (s.setRing k v).links = s.links := rfl
@[simp] theorem setRing_sw (s : State) (k : Nat) (v : Ring) : (s.setRing k v).sw = s.sw := rfl
@[simp] theorem setRing_fab (s : State) (k : Nat) (v : Ring) : (s.setRing k v).fab = s.fab := rfl
@[simp] theorem setRing_vats (s : State) (k : Nat) (v : Ring) : (s.setRing k v).vats = s.vats := rfl
@[simp] theorem setRing_sync (s : State) (k : Nat) (v : Ring) : (s.setRing k v).sync = s.sync := rfl
@[simp] theorem setRing_press (s : State) (k : Nat) (v : Ring) : (s.setRing k v).press = s.press := rfl
@[simp] theorem setRing_cel (s : State) (k : Nat) (v : Ring) : (s.setRing k v).cel = s.cel := rfl
@[simp] theorem setRing_adm (s : State) (k : Nat) (v : Ring) : (s.setRing k v).adm = s.adm := rfl
@[simp] theorem setRing_pwr (s : State) (k : Nat) (v : Ring) : (s.setRing k v).pwr = s.pwr := rfl
@[simp] theorem setRing_fw (s : State) (k : Nat) (v : Ring) : (s.setRing k v).fw = s.fw := rfl
@[simp] theorem setRing_smbIndex (s : State) (k : Nat) (v : Ring) : (s.setRing k v).smbIndex = s.smbIndex := rfl
@[simp] theorem setRing_out (s : State) (k : Nat) (v : Ring) : (s.setRing k v).out = s.out := rfl
@[simp] theorem setRing_free (s : State) (k : Nat) (v : Ring) : (s.setRing k v).free = s.free := rfl
@[simp] theorem setRing_pending (s : State) (k : Nat) (v : Ring) : (s.setRing k v).pending = s.pending := rfl
@[simp] theorem ring_setRing_self (s : State) (k : Nat) (v : Ring) : (s.setRing k v).ring k = v := look_put_self _ _ _ _
theorem ring_setRing_of_ne (s : State) {k j : Nat} (v : Ring) (h : j ≠ k) : (s.setRing k v).ring j = s.ring j :=
  look_put_of_ne _ _ _ h
@[simp] theorem setRing_svc_sources (s : State) (k : Nat) (v : Ring) : (s.setRing k v).svc.sources = s.svc.sources := rfl
@[simp] theorem setRing_svc_taken (s : State) (k : Nat) (v : Ring) : (s.setRing k v).svc.taken = s.svc.taken := rfl
@[simp] theorem setRing_svc_staged (s : State) (k : Nat) (v : Ring) : (s.setRing k v).svc.staged = s.svc.staged := rfl
@[simp] theorem setRing_svc_phased (s : State) (k : Nat) (v : Ring) : (s.setRing k v).svc.phased = s.svc.phased := rfl
@[simp] theorem setRing_svc_waiting (s : State) (k : Nat) (v : Ring) : (s.setRing k v).svc.waiting = s.svc.waiting := rfl
@[simp] theorem setRing_svc_layerId (s : State) (k : Nat) (v : Ring) : (s.setRing k v).svc.layerId = s.svc.layerId := rfl
@[simp] theorem setRing_svc_operatorId (s : State) (k : Nat) (v : Ring) : (s.setRing k v).svc.operatorId = s.svc.operatorId := rfl

/-! ### setSource -/

@[simp] theorem setSource_ident (s : State) (k : Nat) (v : Source) : (s.setSource k v).ident = s.ident := rfl
@[simp] theorem setSource_ctl (s : State) (k : Nat) (v : Source) : (s.setSource k v).ctl = s.ctl := rfl
@[simp] theorem setSource_faults (s : State) (k : Nat) (v : Source) : (s.setSource k v).faults = s.faults := rfl
@[simp] theorem setSource_time (s : State) (k : Nat) (v : Source) : (s.setSource k v).time = s.time := rfl
@[simp] theorem setSource_aon (s : State) (k : Nat) (v : Source) : (s.setSource k v).aon = s.aon := rfl
@[simp] theorem setSource_tele (s : State) (k : Nat) (v : Source) : (s.setSource k v).tele = s.tele := rfl
@[simp] theorem setSource_links (s : State) (k : Nat) (v : Source) : (s.setSource k v).links = s.links := rfl
@[simp] theorem setSource_sw (s : State) (k : Nat) (v : Source) : (s.setSource k v).sw = s.sw := rfl
@[simp] theorem setSource_fab (s : State) (k : Nat) (v : Source) : (s.setSource k v).fab = s.fab := rfl
@[simp] theorem setSource_vats (s : State) (k : Nat) (v : Source) : (s.setSource k v).vats = s.vats := rfl
@[simp] theorem setSource_sync (s : State) (k : Nat) (v : Source) : (s.setSource k v).sync = s.sync := rfl
@[simp] theorem setSource_press (s : State) (k : Nat) (v : Source) : (s.setSource k v).press = s.press := rfl
@[simp] theorem setSource_cel (s : State) (k : Nat) (v : Source) : (s.setSource k v).cel = s.cel := rfl
@[simp] theorem setSource_adm (s : State) (k : Nat) (v : Source) : (s.setSource k v).adm = s.adm := rfl
@[simp] theorem setSource_pwr (s : State) (k : Nat) (v : Source) : (s.setSource k v).pwr = s.pwr := rfl
@[simp] theorem setSource_fw (s : State) (k : Nat) (v : Source) : (s.setSource k v).fw = s.fw := rfl
@[simp] theorem setSource_smbIndex (s : State) (k : Nat) (v : Source) : (s.setSource k v).smbIndex = s.smbIndex := rfl
@[simp] theorem setSource_out (s : State) (k : Nat) (v : Source) : (s.setSource k v).out = s.out := rfl
@[simp] theorem setSource_free (s : State) (k : Nat) (v : Source) : (s.setSource k v).free = s.free := rfl
@[simp] theorem setSource_pending (s : State) (k : Nat) (v : Source) : (s.setSource k v).pending = s.pending := rfl
@[simp] theorem source_setSource_self (s : State) (k : Nat) (v : Source) : (s.setSource k v).source k = v := look_put_self _ _ _ _
theorem source_setSource_of_ne (s : State) {k j : Nat} (v : Source) (h : j ≠ k) : (s.setSource k v).source j = s.source j :=
  look_put_of_ne _ _ _ h
@[simp] theorem setSource_svc_rings (s : State) (k : Nat) (v : Source) : (s.setSource k v).svc.rings = s.svc.rings := rfl
@[simp] theorem setSource_svc_taken (s : State) (k : Nat) (v : Source) : (s.setSource k v).svc.taken = s.svc.taken := rfl
@[simp] theorem setSource_svc_staged (s : State) (k : Nat) (v : Source) : (s.setSource k v).svc.staged = s.svc.staged := rfl
@[simp] theorem setSource_svc_phased (s : State) (k : Nat) (v : Source) : (s.setSource k v).svc.phased = s.svc.phased := rfl
@[simp] theorem setSource_svc_waiting (s : State) (k : Nat) (v : Source) : (s.setSource k v).svc.waiting = s.svc.waiting := rfl
@[simp] theorem setSource_svc_layerId (s : State) (k : Nat) (v : Source) : (s.setSource k v).svc.layerId = s.svc.layerId := rfl
@[simp] theorem setSource_svc_operatorId (s : State) (k : Nat) (v : Source)
    : (s.setSource k v).svc.operatorId = s.svc.operatorId := rfl

/-! ### setPort -/

@[simp] theorem setPort_ident (s : State) (k : Nat) (v : Port) : (s.setPort k v).ident = s.ident := rfl
@[simp] theorem setPort_ctl (s : State) (k : Nat) (v : Port) : (s.setPort k v).ctl = s.ctl := rfl
@[simp] theorem setPort_svc (s : State) (k : Nat) (v : Port) : (s.setPort k v).svc = s.svc := rfl
@[simp] theorem setPort_faults (s : State) (k : Nat) (v : Port) : (s.setPort k v).faults = s.faults := rfl
@[simp] theorem setPort_time (s : State) (k : Nat) (v : Port) : (s.setPort k v).time = s.time := rfl
@[simp] theorem setPort_aon (s : State) (k : Nat) (v : Port) : (s.setPort k v).aon = s.aon := rfl
@[simp] theorem setPort_tele (s : State) (k : Nat) (v : Port) : (s.setPort k v).tele = s.tele := rfl
@[simp] theorem setPort_sw (s : State) (k : Nat) (v : Port) : (s.setPort k v).sw = s.sw := rfl
@[simp] theorem setPort_fab (s : State) (k : Nat) (v : Port) : (s.setPort k v).fab = s.fab := rfl
@[simp] theorem setPort_vats (s : State) (k : Nat) (v : Port) : (s.setPort k v).vats = s.vats := rfl
@[simp] theorem setPort_sync (s : State) (k : Nat) (v : Port) : (s.setPort k v).sync = s.sync := rfl
@[simp] theorem setPort_press (s : State) (k : Nat) (v : Port) : (s.setPort k v).press = s.press := rfl
@[simp] theorem setPort_cel (s : State) (k : Nat) (v : Port) : (s.setPort k v).cel = s.cel := rfl
@[simp] theorem setPort_adm (s : State) (k : Nat) (v : Port) : (s.setPort k v).adm = s.adm := rfl
@[simp] theorem setPort_pwr (s : State) (k : Nat) (v : Port) : (s.setPort k v).pwr = s.pwr := rfl
@[simp] theorem setPort_fw (s : State) (k : Nat) (v : Port) : (s.setPort k v).fw = s.fw := rfl
@[simp] theorem setPort_smbIndex (s : State) (k : Nat) (v : Port) : (s.setPort k v).smbIndex = s.smbIndex := rfl
@[simp] theorem setPort_out (s : State) (k : Nat) (v : Port) : (s.setPort k v).out = s.out := rfl
@[simp] theorem setPort_free (s : State) (k : Nat) (v : Port) : (s.setPort k v).free = s.free := rfl
@[simp] theorem setPort_pending (s : State) (k : Nat) (v : Port) : (s.setPort k v).pending = s.pending := rfl
@[simp] theorem port_setPort_self (s : State) (k : Nat) (v : Port) : (s.setPort k v).port k = v := look_put_self _ _ _ _
theorem port_setPort_of_ne (s : State) {k j : Nat} (v : Port) (h : j ≠ k) : (s.setPort k v).port j = s.port j :=
  look_put_of_ne _ _ _ h
@[simp] theorem setPort_links_links (s : State) (k : Nat) (v : Port) : (s.setPort k v).links.links = s.links.links := rfl
@[simp] theorem setPort_links_lanes (s : State) (k : Nat) (v : Port) : (s.setPort k v).links.lanes = s.links.lanes := rfl

/-! ### setLink -/

@[simp] theorem setLink_ident (s : State) (k : Nat) (v : Link) : (s.setLink k v).ident = s.ident := rfl
@[simp] theorem setLink_ctl (s : State) (k : Nat) (v : Link) : (s.setLink k v).ctl = s.ctl := rfl
@[simp] theorem setLink_svc (s : State) (k : Nat) (v : Link) : (s.setLink k v).svc = s.svc := rfl
@[simp] theorem setLink_faults (s : State) (k : Nat) (v : Link) : (s.setLink k v).faults = s.faults := rfl
@[simp] theorem setLink_time (s : State) (k : Nat) (v : Link) : (s.setLink k v).time = s.time := rfl
@[simp] theorem setLink_aon (s : State) (k : Nat) (v : Link) : (s.setLink k v).aon = s.aon := rfl
@[simp] theorem setLink_tele (s : State) (k : Nat) (v : Link) : (s.setLink k v).tele = s.tele := rfl
@[simp] theorem setLink_sw (s : State) (k : Nat) (v : Link) : (s.setLink k v).sw = s.sw := rfl
@[simp] theorem setLink_fab (s : State) (k : Nat) (v : Link) : (s.setLink k v).fab = s.fab := rfl
@[simp] theorem setLink_vats (s : State) (k : Nat) (v : Link) : (s.setLink k v).vats = s.vats := rfl
@[simp] theorem setLink_sync (s : State) (k : Nat) (v : Link) : (s.setLink k v).sync = s.sync := rfl
@[simp] theorem setLink_press (s : State) (k : Nat) (v : Link) : (s.setLink k v).press = s.press := rfl
@[simp] theorem setLink_cel (s : State) (k : Nat) (v : Link) : (s.setLink k v).cel = s.cel := rfl
@[simp] theorem setLink_adm (s : State) (k : Nat) (v : Link) : (s.setLink k v).adm = s.adm := rfl
@[simp] theorem setLink_pwr (s : State) (k : Nat) (v : Link) : (s.setLink k v).pwr = s.pwr := rfl
@[simp] theorem setLink_fw (s : State) (k : Nat) (v : Link) : (s.setLink k v).fw = s.fw := rfl
@[simp] theorem setLink_smbIndex (s : State) (k : Nat) (v : Link) : (s.setLink k v).smbIndex = s.smbIndex := rfl
@[simp] theorem setLink_out (s : State) (k : Nat) (v : Link) : (s.setLink k v).out = s.out := rfl
@[simp] theorem setLink_free (s : State) (k : Nat) (v : Link) : (s.setLink k v).free = s.free := rfl
@[simp] theorem setLink_pending (s : State) (k : Nat) (v : Link) : (s.setLink k v).pending = s.pending := rfl
@[simp] theorem link_setLink_self (s : State) (k : Nat) (v : Link) : (s.setLink k v).link k = v := look_put_self _ _ _ _
theorem link_setLink_of_ne (s : State) {k j : Nat} (v : Link) (h : j ≠ k) : (s.setLink k v).link j = s.link j :=
  look_put_of_ne _ _ _ h
@[simp] theorem setLink_links_ports (s : State) (k : Nat) (v : Link) : (s.setLink k v).links.ports = s.links.ports := rfl
@[simp] theorem setLink_links_lanes (s : State) (k : Nat) (v : Link) : (s.setLink k v).links.lanes = s.links.lanes := rfl

/-! ### setLane -/

@[simp] theorem setLane_ident (s : State) (k : Nat) (v : Lane) : (s.setLane k v).ident = s.ident := rfl
@[simp] theorem setLane_ctl (s : State) (k : Nat) (v : Lane) : (s.setLane k v).ctl = s.ctl := rfl
@[simp] theorem setLane_svc (s : State) (k : Nat) (v : Lane) : (s.setLane k v).svc = s.svc := rfl
@[simp] theorem setLane_faults (s : State) (k : Nat) (v : Lane) : (s.setLane k v).faults = s.faults := rfl
@[simp] theorem setLane_time (s : State) (k : Nat) (v : Lane) : (s.setLane k v).time = s.time := rfl
@[simp] theorem setLane_aon (s : State) (k : Nat) (v : Lane) : (s.setLane k v).aon = s.aon := rfl
@[simp] theorem setLane_tele (s : State) (k : Nat) (v : Lane) : (s.setLane k v).tele = s.tele := rfl
@[simp] theorem setLane_sw (s : State) (k : Nat) (v : Lane) : (s.setLane k v).sw = s.sw := rfl
@[simp] theorem setLane_fab (s : State) (k : Nat) (v : Lane) : (s.setLane k v).fab = s.fab := rfl
@[simp] theorem setLane_vats (s : State) (k : Nat) (v : Lane) : (s.setLane k v).vats = s.vats := rfl
@[simp] theorem setLane_sync (s : State) (k : Nat) (v : Lane) : (s.setLane k v).sync = s.sync := rfl
@[simp] theorem setLane_press (s : State) (k : Nat) (v : Lane) : (s.setLane k v).press = s.press := rfl
@[simp] theorem setLane_cel (s : State) (k : Nat) (v : Lane) : (s.setLane k v).cel = s.cel := rfl
@[simp] theorem setLane_adm (s : State) (k : Nat) (v : Lane) : (s.setLane k v).adm = s.adm := rfl
@[simp] theorem setLane_pwr (s : State) (k : Nat) (v : Lane) : (s.setLane k v).pwr = s.pwr := rfl
@[simp] theorem setLane_fw (s : State) (k : Nat) (v : Lane) : (s.setLane k v).fw = s.fw := rfl
@[simp] theorem setLane_smbIndex (s : State) (k : Nat) (v : Lane) : (s.setLane k v).smbIndex = s.smbIndex := rfl
@[simp] theorem setLane_out (s : State) (k : Nat) (v : Lane) : (s.setLane k v).out = s.out := rfl
@[simp] theorem setLane_free (s : State) (k : Nat) (v : Lane) : (s.setLane k v).free = s.free := rfl
@[simp] theorem setLane_pending (s : State) (k : Nat) (v : Lane) : (s.setLane k v).pending = s.pending := rfl
@[simp] theorem lane_setLane_self (s : State) (k : Nat) (v : Lane) : (s.setLane k v).lane k = v := look_put_self _ _ _ _
theorem lane_setLane_of_ne (s : State) {k j : Nat} (v : Lane) (h : j ≠ k) : (s.setLane k v).lane j = s.lane j :=
  look_put_of_ne _ _ _ h
@[simp] theorem setLane_links_ports (s : State) (k : Nat) (v : Lane) : (s.setLane k v).links.ports = s.links.ports := rfl
@[simp] theorem setLane_links_links (s : State) (k : Nat) (v : Lane) : (s.setLane k v).links.links = s.links.links := rfl

/-! ### setCask -/

@[simp] theorem setCask_ident (s : State) (k : Nat) (v : Cask) : (s.setCask k v).ident = s.ident := rfl
@[simp] theorem setCask_ctl (s : State) (k : Nat) (v : Cask) : (s.setCask k v).ctl = s.ctl := rfl
@[simp] theorem setCask_svc (s : State) (k : Nat) (v : Cask) : (s.setCask k v).svc = s.svc := rfl
@[simp] theorem setCask_faults (s : State) (k : Nat) (v : Cask) : (s.setCask k v).faults = s.faults := rfl
@[simp] theorem setCask_time (s : State) (k : Nat) (v : Cask) : (s.setCask k v).time = s.time := rfl
@[simp] theorem setCask_aon (s : State) (k : Nat) (v : Cask) : (s.setCask k v).aon = s.aon := rfl
@[simp] theorem setCask_tele (s : State) (k : Nat) (v : Cask) : (s.setCask k v).tele = s.tele := rfl
@[simp] theorem setCask_links (s : State) (k : Nat) (v : Cask) : (s.setCask k v).links = s.links := rfl
@[simp] theorem setCask_fab (s : State) (k : Nat) (v : Cask) : (s.setCask k v).fab = s.fab := rfl
@[simp] theorem setCask_vats (s : State) (k : Nat) (v : Cask) : (s.setCask k v).vats = s.vats := rfl
@[simp] theorem setCask_sync (s : State) (k : Nat) (v : Cask) : (s.setCask k v).sync = s.sync := rfl
@[simp] theorem setCask_press (s : State) (k : Nat) (v : Cask) : (s.setCask k v).press = s.press := rfl
@[simp] theorem setCask_cel (s : State) (k : Nat) (v : Cask) : (s.setCask k v).cel = s.cel := rfl
@[simp] theorem setCask_adm (s : State) (k : Nat) (v : Cask) : (s.setCask k v).adm = s.adm := rfl
@[simp] theorem setCask_pwr (s : State) (k : Nat) (v : Cask) : (s.setCask k v).pwr = s.pwr := rfl
@[simp] theorem setCask_fw (s : State) (k : Nat) (v : Cask) : (s.setCask k v).fw = s.fw := rfl
@[simp] theorem setCask_smbIndex (s : State) (k : Nat) (v : Cask) : (s.setCask k v).smbIndex = s.smbIndex := rfl
@[simp] theorem setCask_out (s : State) (k : Nat) (v : Cask) : (s.setCask k v).out = s.out := rfl
@[simp] theorem setCask_free (s : State) (k : Nat) (v : Cask) : (s.setCask k v).free = s.free := rfl
@[simp] theorem setCask_pending (s : State) (k : Nat) (v : Cask) : (s.setCask k v).pending = s.pending := rfl
@[simp] theorem cask_setCask_self (s : State) (k : Nat) (v : Cask) : (s.setCask k v).cask k = v := look_put_self _ _ _ _
theorem cask_setCask_of_ne (s : State) {k j : Nat} (v : Cask) (h : j ≠ k) : (s.setCask k v).cask j = s.cask j :=
  look_put_of_ne _ _ _ h
@[simp] theorem setCask_sw_pools (s : State) (k : Nat) (v : Cask) : (s.setCask k v).sw.pools = s.sw.pools := rfl
@[simp] theorem setCask_sw_ext (s : State) (k : Nat) (v : Cask) : (s.setCask k v).sw.ext = s.sw.ext := rfl
@[simp] theorem setCask_sw_newPools (s : State) (k : Nat) (v : Cask) : (s.setCask k v).sw.newPools = s.sw.newPools := rfl
@[simp] theorem setCask_sw_closed (s : State) (k : Nat) (v : Cask) : (s.setCask k v).sw.closed = s.sw.closed := rfl
@[simp] theorem setCask_sw_retiredBytes (s : State) (k : Nat) (v : Cask)
    : (s.setCask k v).sw.retiredBytes = s.sw.retiredBytes := rfl
@[simp] theorem setCask_sw_accounts (s : State) (k : Nat) (v : Cask) : (s.setCask k v).sw.accounts = s.sw.accounts := rfl
@[simp] theorem setCask_sw_shared (s : State) (k : Nat) (v : Cask) : (s.setCask k v).sw.shared = s.sw.shared := rfl
@[simp] theorem setCask_sw_profile (s : State) (k : Nat) (v : Cask) : (s.setCask k v).sw.profile = s.sw.profile := rfl
@[simp] theorem setCask_sw_ageing (s : State) (k : Nat) (v : Cask) : (s.setCask k v).sw.ageing = s.sw.ageing := rfl
@[simp] theorem setCask_sw_lees (s : State) (k : Nat) (v : Cask) : (s.setCask k v).sw.lees = s.sw.lees := rfl
@[simp] theorem setCask_sw_proportion (s : State) (k : Nat) (v : Cask) : (s.setCask k v).sw.proportion = s.sw.proportion := rfl
@[simp] theorem setCask_sw_limits (s : State) (k : Nat) (v : Cask) : (s.setCask k v).sw.limits = s.sw.limits := rfl
@[simp] theorem setCask_sw_aiShift (s : State) (k : Nat) (v : Cask) : (s.setCask k v).sw.aiShift = s.sw.aiShift := rfl
@[simp] theorem setCask_sw_queues (s : State) (k : Nat) (v : Cask) : (s.setCask k v).sw.queues = s.sw.queues := rfl
@[simp] theorem setCask_sw_policers (s : State) (k : Nat) (v : Cask) : (s.setCask k v).sw.policers = s.sw.policers := rfl
@[simp] theorem setCask_sw_gates (s : State) (k : Nat) (v : Cask) : (s.setCask k v).sw.gates = s.sw.gates := rfl
@[simp] theorem setCask_sw_pbCorrected (s : State) (k : Nat) (v : Cask) : (s.setCask k v).sw.pbCorrected = s.sw.pbCorrected := rfl
@[simp] theorem setCask_sw_originWait (s : State) (k : Nat) (v : Cask) : (s.setCask k v).sw.originWait = s.sw.originWait := rfl
@[simp] theorem setCask_sw_audit (s : State) (k : Nat) (v : Cask) : (s.setCask k v).sw.audit = s.sw.audit := rfl
@[simp] theorem setCask_sw_auditAt (s : State) (k : Nat) (v : Cask) : (s.setCask k v).sw.auditAt = s.sw.auditAt := rfl
@[simp] theorem setCask_sw_pbPass (s : State) (k : Nat) (v : Cask) : (s.setCask k v).sw.pbPass = s.sw.pbPass := rfl

/-! ### setQueue -/

@[simp] theorem setQueue_ident (s : State) (k : Nat) (v : Queue) : (s.setQueue k v).ident = s.ident := rfl
@[simp] theorem setQueue_ctl (s : State) (k : Nat) (v : Queue) : (s.setQueue k v).ctl = s.ctl := rfl
@[simp] theorem setQueue_svc (s : State) (k : Nat) (v : Queue) : (s.setQueue k v).svc = s.svc := rfl
@[simp] theorem setQueue_faults (s : State) (k : Nat) (v : Queue) : (s.setQueue k v).faults = s.faults := rfl
@[simp] theorem setQueue_time (s : State) (k : Nat) (v : Queue) : (s.setQueue k v).time = s.time := rfl
@[simp] theorem setQueue_aon (s : State) (k : Nat) (v : Queue) : (s.setQueue k v).aon = s.aon := rfl
@[simp] theorem setQueue_tele (s : State) (k : Nat) (v : Queue) : (s.setQueue k v).tele = s.tele := rfl
@[simp] theorem setQueue_links (s : State) (k : Nat) (v : Queue) : (s.setQueue k v).links = s.links := rfl
@[simp] theorem setQueue_fab (s : State) (k : Nat) (v : Queue) : (s.setQueue k v).fab = s.fab := rfl
@[simp] theorem setQueue_vats (s : State) (k : Nat) (v : Queue) : (s.setQueue k v).vats = s.vats := rfl
@[simp] theorem setQueue_sync (s : State) (k : Nat) (v : Queue) : (s.setQueue k v).sync = s.sync := rfl
@[simp] theorem setQueue_press (s : State) (k : Nat) (v : Queue) : (s.setQueue k v).press = s.press := rfl
@[simp] theorem setQueue_cel (s : State) (k : Nat) (v : Queue) : (s.setQueue k v).cel = s.cel := rfl
@[simp] theorem setQueue_adm (s : State) (k : Nat) (v : Queue) : (s.setQueue k v).adm = s.adm := rfl
@[simp] theorem setQueue_pwr (s : State) (k : Nat) (v : Queue) : (s.setQueue k v).pwr = s.pwr := rfl
@[simp] theorem setQueue_fw (s : State) (k : Nat) (v : Queue) : (s.setQueue k v).fw = s.fw := rfl
@[simp] theorem setQueue_smbIndex (s : State) (k : Nat) (v : Queue) : (s.setQueue k v).smbIndex = s.smbIndex := rfl
@[simp] theorem setQueue_out (s : State) (k : Nat) (v : Queue) : (s.setQueue k v).out = s.out := rfl
@[simp] theorem setQueue_free (s : State) (k : Nat) (v : Queue) : (s.setQueue k v).free = s.free := rfl
@[simp] theorem setQueue_pending (s : State) (k : Nat) (v : Queue) : (s.setQueue k v).pending = s.pending := rfl
@[simp] theorem queue_setQueue_self (s : State) (k : Nat) (v : Queue) : (s.setQueue k v).queue k = v := look_put_self _ _ _ _
theorem queue_setQueue_of_ne (s : State) {k j : Nat} (v : Queue) (h : j ≠ k) : (s.setQueue k v).queue j = s.queue j :=
  look_put_of_ne _ _ _ h
@[simp] theorem setQueue_sw_casks (s : State) (k : Nat) (v : Queue) : (s.setQueue k v).sw.casks = s.sw.casks := rfl
@[simp] theorem setQueue_sw_pools (s : State) (k : Nat) (v : Queue) : (s.setQueue k v).sw.pools = s.sw.pools := rfl
@[simp] theorem setQueue_sw_ext (s : State) (k : Nat) (v : Queue) : (s.setQueue k v).sw.ext = s.sw.ext := rfl
@[simp] theorem setQueue_sw_newPools (s : State) (k : Nat) (v : Queue) : (s.setQueue k v).sw.newPools = s.sw.newPools := rfl
@[simp] theorem setQueue_sw_closed (s : State) (k : Nat) (v : Queue) : (s.setQueue k v).sw.closed = s.sw.closed := rfl
@[simp] theorem setQueue_sw_retiredBytes (s : State) (k : Nat) (v : Queue)
    : (s.setQueue k v).sw.retiredBytes = s.sw.retiredBytes := rfl
@[simp] theorem setQueue_sw_accounts (s : State) (k : Nat) (v : Queue) : (s.setQueue k v).sw.accounts = s.sw.accounts := rfl
@[simp] theorem setQueue_sw_shared (s : State) (k : Nat) (v : Queue) : (s.setQueue k v).sw.shared = s.sw.shared := rfl
@[simp] theorem setQueue_sw_profile (s : State) (k : Nat) (v : Queue) : (s.setQueue k v).sw.profile = s.sw.profile := rfl
@[simp] theorem setQueue_sw_ageing (s : State) (k : Nat) (v : Queue) : (s.setQueue k v).sw.ageing = s.sw.ageing := rfl
@[simp] theorem setQueue_sw_lees (s : State) (k : Nat) (v : Queue) : (s.setQueue k v).sw.lees = s.sw.lees := rfl
@[simp] theorem setQueue_sw_proportion (s : State) (k : Nat) (v : Queue) : (s.setQueue k v).sw.proportion = s.sw.proportion := rfl
@[simp] theorem setQueue_sw_limits (s : State) (k : Nat) (v : Queue) : (s.setQueue k v).sw.limits = s.sw.limits := rfl
@[simp] theorem setQueue_sw_aiShift (s : State) (k : Nat) (v : Queue) : (s.setQueue k v).sw.aiShift = s.sw.aiShift := rfl
@[simp] theorem setQueue_sw_policers (s : State) (k : Nat) (v : Queue) : (s.setQueue k v).sw.policers = s.sw.policers := rfl
@[simp] theorem setQueue_sw_gates (s : State) (k : Nat) (v : Queue) : (s.setQueue k v).sw.gates = s.sw.gates := rfl
@[simp] theorem setQueue_sw_pbCorrected (s : State) (k : Nat) (v : Queue)
    : (s.setQueue k v).sw.pbCorrected = s.sw.pbCorrected := rfl
@[simp] theorem setQueue_sw_originWait (s : State) (k : Nat) (v : Queue) : (s.setQueue k v).sw.originWait = s.sw.originWait := rfl
@[simp] theorem setQueue_sw_audit (s : State) (k : Nat) (v : Queue) : (s.setQueue k v).sw.audit = s.sw.audit := rfl
@[simp] theorem setQueue_sw_auditAt (s : State) (k : Nat) (v : Queue) : (s.setQueue k v).sw.auditAt = s.sw.auditAt := rfl
@[simp] theorem setQueue_sw_pbPass (s : State) (k : Nat) (v : Queue) : (s.setQueue k v).sw.pbPass = s.sw.pbPass := rfl

/-! ### setPolicer -/

@[simp] theorem setPolicer_ident (s : State) (k : Nat) (v : Policer) : (s.setPolicer k v).ident = s.ident := rfl
@[simp] theorem setPolicer_ctl (s : State) (k : Nat) (v : Policer) : (s.setPolicer k v).ctl = s.ctl := rfl
@[simp] theorem setPolicer_svc (s : State) (k : Nat) (v : Policer) : (s.setPolicer k v).svc = s.svc := rfl
@[simp] theorem setPolicer_faults (s : State) (k : Nat) (v : Policer) : (s.setPolicer k v).faults = s.faults := rfl
@[simp] theorem setPolicer_time (s : State) (k : Nat) (v : Policer) : (s.setPolicer k v).time = s.time := rfl
@[simp] theorem setPolicer_aon (s : State) (k : Nat) (v : Policer) : (s.setPolicer k v).aon = s.aon := rfl
@[simp] theorem setPolicer_tele (s : State) (k : Nat) (v : Policer) : (s.setPolicer k v).tele = s.tele := rfl
@[simp] theorem setPolicer_links (s : State) (k : Nat) (v : Policer) : (s.setPolicer k v).links = s.links := rfl
@[simp] theorem setPolicer_fab (s : State) (k : Nat) (v : Policer) : (s.setPolicer k v).fab = s.fab := rfl
@[simp] theorem setPolicer_vats (s : State) (k : Nat) (v : Policer) : (s.setPolicer k v).vats = s.vats := rfl
@[simp] theorem setPolicer_sync (s : State) (k : Nat) (v : Policer) : (s.setPolicer k v).sync = s.sync := rfl
@[simp] theorem setPolicer_press (s : State) (k : Nat) (v : Policer) : (s.setPolicer k v).press = s.press := rfl
@[simp] theorem setPolicer_cel (s : State) (k : Nat) (v : Policer) : (s.setPolicer k v).cel = s.cel := rfl
@[simp] theorem setPolicer_adm (s : State) (k : Nat) (v : Policer) : (s.setPolicer k v).adm = s.adm := rfl
@[simp] theorem setPolicer_pwr (s : State) (k : Nat) (v : Policer) : (s.setPolicer k v).pwr = s.pwr := rfl
@[simp] theorem setPolicer_fw (s : State) (k : Nat) (v : Policer) : (s.setPolicer k v).fw = s.fw := rfl
@[simp] theorem setPolicer_smbIndex (s : State) (k : Nat) (v : Policer) : (s.setPolicer k v).smbIndex = s.smbIndex := rfl
@[simp] theorem setPolicer_out (s : State) (k : Nat) (v : Policer) : (s.setPolicer k v).out = s.out := rfl
@[simp] theorem setPolicer_free (s : State) (k : Nat) (v : Policer) : (s.setPolicer k v).free = s.free := rfl
@[simp] theorem setPolicer_pending (s : State) (k : Nat) (v : Policer) : (s.setPolicer k v).pending = s.pending := rfl
@[simp] theorem policer_setPolicer_self (s : State) (k : Nat) (v : Policer) : (s.setPolicer k v).policer k = v := look_put_self _ _ _ _
theorem policer_setPolicer_of_ne (s : State) {k j : Nat} (v : Policer) (h : j ≠ k) : (s.setPolicer k v).policer j = s.policer j :=
  look_put_of_ne _ _ _ h
@[simp] theorem setPolicer_sw_casks (s : State) (k : Nat) (v : Policer) : (s.setPolicer k v).sw.casks = s.sw.casks := rfl
@[simp] theorem setPolicer_sw_pools (s : State) (k : Nat) (v : Policer) : (s.setPolicer k v).sw.pools = s.sw.pools := rfl
@[simp] theorem setPolicer_sw_ext (s : State) (k : Nat) (v : Policer) : (s.setPolicer k v).sw.ext = s.sw.ext := rfl
@[simp] theorem setPolicer_sw_newPools (s : State) (k : Nat) (v : Policer) : (s.setPolicer k v).sw.newPools = s.sw.newPools := rfl
@[simp] theorem setPolicer_sw_closed (s : State) (k : Nat) (v : Policer) : (s.setPolicer k v).sw.closed = s.sw.closed := rfl
@[simp] theorem setPolicer_sw_retiredBytes (s : State) (k : Nat) (v : Policer)
    : (s.setPolicer k v).sw.retiredBytes = s.sw.retiredBytes := rfl
@[simp] theorem setPolicer_sw_accounts (s : State) (k : Nat) (v : Policer) : (s.setPolicer k v).sw.accounts = s.sw.accounts := rfl
@[simp] theorem setPolicer_sw_shared (s : State) (k : Nat) (v : Policer) : (s.setPolicer k v).sw.shared = s.sw.shared := rfl
@[simp] theorem setPolicer_sw_profile (s : State) (k : Nat) (v : Policer) : (s.setPolicer k v).sw.profile = s.sw.profile := rfl
@[simp] theorem setPolicer_sw_ageing (s : State) (k : Nat) (v : Policer) : (s.setPolicer k v).sw.ageing = s.sw.ageing := rfl
@[simp] theorem setPolicer_sw_lees (s : State) (k : Nat) (v : Policer) : (s.setPolicer k v).sw.lees = s.sw.lees := rfl
@[simp] theorem setPolicer_sw_proportion (s : State) (k : Nat) (v : Policer)
    : (s.setPolicer k v).sw.proportion = s.sw.proportion := rfl
@[simp] theorem setPolicer_sw_limits (s : State) (k : Nat) (v : Policer) : (s.setPolicer k v).sw.limits = s.sw.limits := rfl
@[simp] theorem setPolicer_sw_aiShift (s : State) (k : Nat) (v : Policer) : (s.setPolicer k v).sw.aiShift = s.sw.aiShift := rfl
@[simp] theorem setPolicer_sw_queues (s : State) (k : Nat) (v : Policer) : (s.setPolicer k v).sw.queues = s.sw.queues := rfl
@[simp] theorem setPolicer_sw_gates (s : State) (k : Nat) (v : Policer) : (s.setPolicer k v).sw.gates = s.sw.gates := rfl
@[simp] theorem setPolicer_sw_pbCorrected (s : State) (k : Nat) (v : Policer)
    : (s.setPolicer k v).sw.pbCorrected = s.sw.pbCorrected := rfl
@[simp] theorem setPolicer_sw_originWait (s : State) (k : Nat) (v : Policer)
    : (s.setPolicer k v).sw.originWait = s.sw.originWait := rfl
@[simp] theorem setPolicer_sw_audit (s : State) (k : Nat) (v : Policer) : (s.setPolicer k v).sw.audit = s.sw.audit := rfl
@[simp] theorem setPolicer_sw_auditAt (s : State) (k : Nat) (v : Policer) : (s.setPolicer k v).sw.auditAt = s.sw.auditAt := rfl
@[simp] theorem setPolicer_sw_pbPass (s : State) (k : Nat) (v : Policer) : (s.setPolicer k v).sw.pbPass = s.sw.pbPass := rfl

/-! ### setGate -/

@[simp] theorem setGate_ident (s : State) (k : Nat) (v : Gates) : (s.setGate k v).ident = s.ident := rfl
@[simp] theorem setGate_ctl (s : State) (k : Nat) (v : Gates) : (s.setGate k v).ctl = s.ctl := rfl
@[simp] theorem setGate_svc (s : State) (k : Nat) (v : Gates) : (s.setGate k v).svc = s.svc := rfl
@[simp] theorem setGate_faults (s : State) (k : Nat) (v : Gates) : (s.setGate k v).faults = s.faults := rfl
@[simp] theorem setGate_time (s : State) (k : Nat) (v : Gates) : (s.setGate k v).time = s.time := rfl
@[simp] theorem setGate_aon (s : State) (k : Nat) (v : Gates) : (s.setGate k v).aon = s.aon := rfl
@[simp] theorem setGate_tele (s : State) (k : Nat) (v : Gates) : (s.setGate k v).tele = s.tele := rfl
@[simp] theorem setGate_links (s : State) (k : Nat) (v : Gates) : (s.setGate k v).links = s.links := rfl
@[simp] theorem setGate_fab (s : State) (k : Nat) (v : Gates) : (s.setGate k v).fab = s.fab := rfl
@[simp] theorem setGate_vats (s : State) (k : Nat) (v : Gates) : (s.setGate k v).vats = s.vats := rfl
@[simp] theorem setGate_sync (s : State) (k : Nat) (v : Gates) : (s.setGate k v).sync = s.sync := rfl
@[simp] theorem setGate_press (s : State) (k : Nat) (v : Gates) : (s.setGate k v).press = s.press := rfl
@[simp] theorem setGate_cel (s : State) (k : Nat) (v : Gates) : (s.setGate k v).cel = s.cel := rfl
@[simp] theorem setGate_adm (s : State) (k : Nat) (v : Gates) : (s.setGate k v).adm = s.adm := rfl
@[simp] theorem setGate_pwr (s : State) (k : Nat) (v : Gates) : (s.setGate k v).pwr = s.pwr := rfl
@[simp] theorem setGate_fw (s : State) (k : Nat) (v : Gates) : (s.setGate k v).fw = s.fw := rfl
@[simp] theorem setGate_smbIndex (s : State) (k : Nat) (v : Gates) : (s.setGate k v).smbIndex = s.smbIndex := rfl
@[simp] theorem setGate_out (s : State) (k : Nat) (v : Gates) : (s.setGate k v).out = s.out := rfl
@[simp] theorem setGate_free (s : State) (k : Nat) (v : Gates) : (s.setGate k v).free = s.free := rfl
@[simp] theorem setGate_pending (s : State) (k : Nat) (v : Gates) : (s.setGate k v).pending = s.pending := rfl
@[simp] theorem gate_setGate_self (s : State) (k : Nat) (v : Gates) : (s.setGate k v).gate k = v := look_put_self _ _ _ _
theorem gate_setGate_of_ne (s : State) {k j : Nat} (v : Gates) (h : j ≠ k) : (s.setGate k v).gate j = s.gate j :=
  look_put_of_ne _ _ _ h
@[simp] theorem setGate_sw_casks (s : State) (k : Nat) (v : Gates) : (s.setGate k v).sw.casks = s.sw.casks := rfl
@[simp] theorem setGate_sw_pools (s : State) (k : Nat) (v : Gates) : (s.setGate k v).sw.pools = s.sw.pools := rfl
@[simp] theorem setGate_sw_ext (s : State) (k : Nat) (v : Gates) : (s.setGate k v).sw.ext = s.sw.ext := rfl
@[simp] theorem setGate_sw_newPools (s : State) (k : Nat) (v : Gates) : (s.setGate k v).sw.newPools = s.sw.newPools := rfl
@[simp] theorem setGate_sw_closed (s : State) (k : Nat) (v : Gates) : (s.setGate k v).sw.closed = s.sw.closed := rfl
@[simp] theorem setGate_sw_retiredBytes (s : State) (k : Nat) (v : Gates)
    : (s.setGate k v).sw.retiredBytes = s.sw.retiredBytes := rfl
@[simp] theorem setGate_sw_accounts (s : State) (k : Nat) (v : Gates) : (s.setGate k v).sw.accounts = s.sw.accounts := rfl
@[simp] theorem setGate_sw_shared (s : State) (k : Nat) (v : Gates) : (s.setGate k v).sw.shared = s.sw.shared := rfl
@[simp] theorem setGate_sw_profile (s : State) (k : Nat) (v : Gates) : (s.setGate k v).sw.profile = s.sw.profile := rfl
@[simp] theorem setGate_sw_ageing (s : State) (k : Nat) (v : Gates) : (s.setGate k v).sw.ageing = s.sw.ageing := rfl
@[simp] theorem setGate_sw_lees (s : State) (k : Nat) (v : Gates) : (s.setGate k v).sw.lees = s.sw.lees := rfl
@[simp] theorem setGate_sw_proportion (s : State) (k : Nat) (v : Gates) : (s.setGate k v).sw.proportion = s.sw.proportion := rfl
@[simp] theorem setGate_sw_limits (s : State) (k : Nat) (v : Gates) : (s.setGate k v).sw.limits = s.sw.limits := rfl
@[simp] theorem setGate_sw_aiShift (s : State) (k : Nat) (v : Gates) : (s.setGate k v).sw.aiShift = s.sw.aiShift := rfl
@[simp] theorem setGate_sw_queues (s : State) (k : Nat) (v : Gates) : (s.setGate k v).sw.queues = s.sw.queues := rfl
@[simp] theorem setGate_sw_policers (s : State) (k : Nat) (v : Gates) : (s.setGate k v).sw.policers = s.sw.policers := rfl
@[simp] theorem setGate_sw_pbCorrected (s : State) (k : Nat) (v : Gates) : (s.setGate k v).sw.pbCorrected = s.sw.pbCorrected := rfl
@[simp] theorem setGate_sw_originWait (s : State) (k : Nat) (v : Gates) : (s.setGate k v).sw.originWait = s.sw.originWait := rfl
@[simp] theorem setGate_sw_audit (s : State) (k : Nat) (v : Gates) : (s.setGate k v).sw.audit = s.sw.audit := rfl
@[simp] theorem setGate_sw_auditAt (s : State) (k : Nat) (v : Gates) : (s.setGate k v).sw.auditAt = s.sw.auditAt := rfl
@[simp] theorem setGate_sw_pbPass (s : State) (k : Nat) (v : Gates) : (s.setGate k v).sw.pbPass = s.sw.pbPass := rfl

/-! ### setAccount -/

@[simp] theorem setAccount_ident (s : State) (k : Nat) (v : Account) : (s.setAccount k v).ident = s.ident := rfl
@[simp] theorem setAccount_ctl (s : State) (k : Nat) (v : Account) : (s.setAccount k v).ctl = s.ctl := rfl
@[simp] theorem setAccount_svc (s : State) (k : Nat) (v : Account) : (s.setAccount k v).svc = s.svc := rfl
@[simp] theorem setAccount_faults (s : State) (k : Nat) (v : Account) : (s.setAccount k v).faults = s.faults := rfl
@[simp] theorem setAccount_time (s : State) (k : Nat) (v : Account) : (s.setAccount k v).time = s.time := rfl
@[simp] theorem setAccount_aon (s : State) (k : Nat) (v : Account) : (s.setAccount k v).aon = s.aon := rfl
@[simp] theorem setAccount_tele (s : State) (k : Nat) (v : Account) : (s.setAccount k v).tele = s.tele := rfl
@[simp] theorem setAccount_links (s : State) (k : Nat) (v : Account) : (s.setAccount k v).links = s.links := rfl
@[simp] theorem setAccount_fab (s : State) (k : Nat) (v : Account) : (s.setAccount k v).fab = s.fab := rfl
@[simp] theorem setAccount_vats (s : State) (k : Nat) (v : Account) : (s.setAccount k v).vats = s.vats := rfl
@[simp] theorem setAccount_sync (s : State) (k : Nat) (v : Account) : (s.setAccount k v).sync = s.sync := rfl
@[simp] theorem setAccount_press (s : State) (k : Nat) (v : Account) : (s.setAccount k v).press = s.press := rfl
@[simp] theorem setAccount_cel (s : State) (k : Nat) (v : Account) : (s.setAccount k v).cel = s.cel := rfl
@[simp] theorem setAccount_adm (s : State) (k : Nat) (v : Account) : (s.setAccount k v).adm = s.adm := rfl
@[simp] theorem setAccount_pwr (s : State) (k : Nat) (v : Account) : (s.setAccount k v).pwr = s.pwr := rfl
@[simp] theorem setAccount_fw (s : State) (k : Nat) (v : Account) : (s.setAccount k v).fw = s.fw := rfl
@[simp] theorem setAccount_smbIndex (s : State) (k : Nat) (v : Account) : (s.setAccount k v).smbIndex = s.smbIndex := rfl
@[simp] theorem setAccount_out (s : State) (k : Nat) (v : Account) : (s.setAccount k v).out = s.out := rfl
@[simp] theorem setAccount_free (s : State) (k : Nat) (v : Account) : (s.setAccount k v).free = s.free := rfl
@[simp] theorem setAccount_pending (s : State) (k : Nat) (v : Account) : (s.setAccount k v).pending = s.pending := rfl
@[simp] theorem account_setAccount_self (s : State) (k : Nat) (v : Account) : (s.setAccount k v).account k = v := look_put_self _ _ _ _
theorem account_setAccount_of_ne (s : State) {k j : Nat} (v : Account) (h : j ≠ k) : (s.setAccount k v).account j = s.account j :=
  look_put_of_ne _ _ _ h
@[simp] theorem setAccount_sw_casks (s : State) (k : Nat) (v : Account) : (s.setAccount k v).sw.casks = s.sw.casks := rfl
@[simp] theorem setAccount_sw_pools (s : State) (k : Nat) (v : Account) : (s.setAccount k v).sw.pools = s.sw.pools := rfl
@[simp] theorem setAccount_sw_ext (s : State) (k : Nat) (v : Account) : (s.setAccount k v).sw.ext = s.sw.ext := rfl
@[simp] theorem setAccount_sw_newPools (s : State) (k : Nat) (v : Account) : (s.setAccount k v).sw.newPools = s.sw.newPools := rfl
@[simp] theorem setAccount_sw_closed (s : State) (k : Nat) (v : Account) : (s.setAccount k v).sw.closed = s.sw.closed := rfl
@[simp] theorem setAccount_sw_retiredBytes (s : State) (k : Nat) (v : Account)
    : (s.setAccount k v).sw.retiredBytes = s.sw.retiredBytes := rfl
@[simp] theorem setAccount_sw_shared (s : State) (k : Nat) (v : Account) : (s.setAccount k v).sw.shared = s.sw.shared := rfl
@[simp] theorem setAccount_sw_profile (s : State) (k : Nat) (v : Account) : (s.setAccount k v).sw.profile = s.sw.profile := rfl
@[simp] theorem setAccount_sw_ageing (s : State) (k : Nat) (v : Account) : (s.setAccount k v).sw.ageing = s.sw.ageing := rfl
@[simp] theorem setAccount_sw_lees (s : State) (k : Nat) (v : Account) : (s.setAccount k v).sw.lees = s.sw.lees := rfl
@[simp] theorem setAccount_sw_proportion (s : State) (k : Nat) (v : Account)
    : (s.setAccount k v).sw.proportion = s.sw.proportion := rfl
@[simp] theorem setAccount_sw_limits (s : State) (k : Nat) (v : Account) : (s.setAccount k v).sw.limits = s.sw.limits := rfl
@[simp] theorem setAccount_sw_aiShift (s : State) (k : Nat) (v : Account) : (s.setAccount k v).sw.aiShift = s.sw.aiShift := rfl
@[simp] theorem setAccount_sw_queues (s : State) (k : Nat) (v : Account) : (s.setAccount k v).sw.queues = s.sw.queues := rfl
@[simp] theorem setAccount_sw_policers (s : State) (k : Nat) (v : Account) : (s.setAccount k v).sw.policers = s.sw.policers := rfl
@[simp] theorem setAccount_sw_gates (s : State) (k : Nat) (v : Account) : (s.setAccount k v).sw.gates = s.sw.gates := rfl
@[simp] theorem setAccount_sw_pbCorrected (s : State) (k : Nat) (v : Account)
    : (s.setAccount k v).sw.pbCorrected = s.sw.pbCorrected := rfl
@[simp] theorem setAccount_sw_originWait (s : State) (k : Nat) (v : Account)
    : (s.setAccount k v).sw.originWait = s.sw.originWait := rfl
@[simp] theorem setAccount_sw_audit (s : State) (k : Nat) (v : Account) : (s.setAccount k v).sw.audit = s.sw.audit := rfl
@[simp] theorem setAccount_sw_auditAt (s : State) (k : Nat) (v : Account) : (s.setAccount k v).sw.auditAt = s.sw.auditAt := rfl
@[simp] theorem setAccount_sw_pbPass (s : State) (k : Nat) (v : Account) : (s.setAccount k v).sw.pbPass = s.sw.pbPass := rfl

/-! ### setDim -/

@[simp] theorem setDim_ident (s : State) (k : Nat) (v : Dim) : (s.setDim k v).ident = s.ident := rfl
@[simp] theorem setDim_ctl (s : State) (k : Nat) (v : Dim) : (s.setDim k v).ctl = s.ctl := rfl
@[simp] theorem setDim_svc (s : State) (k : Nat) (v : Dim) : (s.setDim k v).svc = s.svc := rfl
@[simp] theorem setDim_faults (s : State) (k : Nat) (v : Dim) : (s.setDim k v).faults = s.faults := rfl
@[simp] theorem setDim_time (s : State) (k : Nat) (v : Dim) : (s.setDim k v).time = s.time := rfl
@[simp] theorem setDim_aon (s : State) (k : Nat) (v : Dim) : (s.setDim k v).aon = s.aon := rfl
@[simp] theorem setDim_tele (s : State) (k : Nat) (v : Dim) : (s.setDim k v).tele = s.tele := rfl
@[simp] theorem setDim_links (s : State) (k : Nat) (v : Dim) : (s.setDim k v).links = s.links := rfl
@[simp] theorem setDim_sw (s : State) (k : Nat) (v : Dim) : (s.setDim k v).sw = s.sw := rfl
@[simp] theorem setDim_vats (s : State) (k : Nat) (v : Dim) : (s.setDim k v).vats = s.vats := rfl
@[simp] theorem setDim_sync (s : State) (k : Nat) (v : Dim) : (s.setDim k v).sync = s.sync := rfl
@[simp] theorem setDim_press (s : State) (k : Nat) (v : Dim) : (s.setDim k v).press = s.press := rfl
@[simp] theorem setDim_cel (s : State) (k : Nat) (v : Dim) : (s.setDim k v).cel = s.cel := rfl
@[simp] theorem setDim_adm (s : State) (k : Nat) (v : Dim) : (s.setDim k v).adm = s.adm := rfl
@[simp] theorem setDim_pwr (s : State) (k : Nat) (v : Dim) : (s.setDim k v).pwr = s.pwr := rfl
@[simp] theorem setDim_fw (s : State) (k : Nat) (v : Dim) : (s.setDim k v).fw = s.fw := rfl
@[simp] theorem setDim_smbIndex (s : State) (k : Nat) (v : Dim) : (s.setDim k v).smbIndex = s.smbIndex := rfl
@[simp] theorem setDim_out (s : State) (k : Nat) (v : Dim) : (s.setDim k v).out = s.out := rfl
@[simp] theorem setDim_free (s : State) (k : Nat) (v : Dim) : (s.setDim k v).free = s.free := rfl
@[simp] theorem setDim_pending (s : State) (k : Nat) (v : Dim) : (s.setDim k v).pending = s.pending := rfl
@[simp] theorem dim_setDim_self (s : State) (k : Nat) (v : Dim) : (s.setDim k v).dim k = v := look_put_self _ _ _ _
theorem dim_setDim_of_ne (s : State) {k j : Nat} (v : Dim) (h : j ≠ k) : (s.setDim k v).dim j = s.dim j :=
  look_put_of_ne _ _ _ h
@[simp] theorem setDim_fab_fna (s : State) (k : Nat) (v : Dim) : (s.setDim k v).fab.fna = s.fab.fna := rfl
@[simp] theorem setDim_fab_ndim (s : State) (k : Nat) (v : Dim) : (s.setDim k v).fab.ndim = s.fab.ndim := rfl
@[simp] theorem setDim_fab_twisted (s : State) (k : Nat) (v : Dim) : (s.setDim k v).fab.twisted = s.fab.twisted := rfl
@[simp] theorem setDim_fab_disc (s : State) (k : Nat) (v : Dim) : (s.setDim k v).fab.disc = s.fab.disc := rfl
@[simp] theorem setDim_fab_discFor (s : State) (k : Nat) (v : Dim) : (s.setDim k v).fab.discFor = s.fab.discFor := rfl
@[simp] theorem setDim_fab_marked (s : State) (k : Nat) (v : Dim) : (s.setDim k v).fab.marked = s.fab.marked := rfl
@[simp] theorem setDim_fab_rootFna (s : State) (k : Nat) (v : Dim) : (s.setDim k v).fab.rootFna = s.fab.rootFna := rfl
@[simp] theorem setDim_fab_root (s : State) (k : Nat) (v : Dim) : (s.setDim k v).fab.root = s.fab.root := rfl
@[simp] theorem setDim_fab_seenMarked (s : State) (k : Nat) (v : Dim) : (s.setDim k v).fab.seenMarked = s.fab.seenMarked := rfl
@[simp] theorem setDim_fab_coords (s : State) (k : Nat) (v : Dim) : (s.setDim k v).fab.coords = s.fab.coords := rfl
@[simp] theorem setDim_fab_map (s : State) (k : Nat) (v : Dim) : (s.setDim k v).fab.map = s.fab.map := rfl
@[simp] theorem setDim_fab_holes (s : State) (k : Nat) (v : Dim) : (s.setDim k v).fab.holes = s.fab.holes := rfl
@[simp] theorem setDim_fab_recompute (s : State) (k : Nat) (v : Dim) : (s.setDim k v).fab.recompute = s.fab.recompute := rfl
@[simp] theorem setDim_fab_relayWait (s : State) (k : Nat) (v : Dim) : (s.setDim k v).fab.relayWait = s.fab.relayWait := rfl
@[simp] theorem setDim_fab_seen (s : State) (k : Nat) (v : Dim) : (s.setDim k v).fab.seen = s.fab.seen := rfl
@[simp] theorem setDim_fab_slots (s : State) (k : Nat) (v : Dim) : (s.setDim k v).fab.slots = s.fab.slots := rfl
@[simp] theorem setDim_fab_dual (s : State) (k : Nat) (v : Dim) : (s.setDim k v).fab.dual = s.fab.dual := rfl
@[simp] theorem setDim_fab_bank0 (s : State) (k : Nat) (v : Dim) : (s.setDim k v).fab.bank0 = s.fab.bank0 := rfl
@[simp] theorem setDim_fab_bank1 (s : State) (k : Nat) (v : Dim) : (s.setDim k v).fab.bank1 = s.fab.bank1 := rfl
@[simp] theorem setDim_fab_live (s : State) (k : Nat) (v : Dim) : (s.setDim k v).fab.live = s.fab.live := rfl
@[simp] theorem setDim_fab_oldHeld (s : State) (k : Nat) (v : Dim) : (s.setDim k v).fab.oldHeld = s.fab.oldHeld := rfl
@[simp] theorem setDim_fab_staged0 (s : State) (k : Nat) (v : Dim) : (s.setDim k v).fab.staged0 = s.fab.staged0 := rfl
@[simp] theorem setDim_fab_staged1 (s : State) (k : Nat) (v : Dim) : (s.setDim k v).fab.staged1 = s.fab.staged1 := rfl
@[simp] theorem setDim_fab_session (s : State) (k : Nat) (v : Dim) : (s.setDim k v).fab.session = s.fab.session := rfl
@[simp] theorem setDim_fab_commit (s : State) (k : Nat) (v : Dim) : (s.setDim k v).fab.commit = s.fab.commit := rfl
@[simp] theorem setDim_fab_commitFor (s : State) (k : Nat) (v : Dim) : (s.setDim k v).fab.commitFor = s.fab.commitFor := rfl
@[simp] theorem setDim_fab_commitAt (s : State) (k : Nat) (v : Dim) : (s.setDim k v).fab.commitAt = s.fab.commitAt := rfl
@[simp] theorem setDim_fab_inCh (s : State) (k : Nat) (v : Dim) : (s.setDim k v).fab.inCh = s.fab.inCh := rfl
@[simp] theorem setDim_fab_egCh (s : State) (k : Nat) (v : Dim) : (s.setDim k v).fab.egCh = s.fab.egCh := rfl
@[simp] theorem setDim_fab_holds (s : State) (k : Nat) (v : Dim) : (s.setDim k v).fab.holds = s.fab.holds := rfl
@[simp] theorem setDim_fab_limiters (s : State) (k : Nat) (v : Dim) : (s.setDim k v).fab.limiters = s.fab.limiters := rfl
@[simp] theorem setDim_fab_mirrors (s : State) (k : Nat) (v : Dim) : (s.setDim k v).fab.mirrors = s.fab.mirrors := rfl
@[simp] theorem setDim_fab_mirrorWait (s : State) (k : Nat) (v : Dim) : (s.setDim k v).fab.mirrorWait = s.fab.mirrorWait := rfl
@[simp] theorem setDim_fab_takeover (s : State) (k : Nat) (v : Dim) : (s.setDim k v).fab.takeover = s.fab.takeover := rfl
@[simp] theorem setDim_fab_log (s : State) (k : Nat) (v : Dim) : (s.setDim k v).fab.log = s.fab.log := rfl

/-! ### setSlot -/

@[simp] theorem setSlot_ident (s : State) (k : Nat) (v : EpSlot) : (s.setSlot k v).ident = s.ident := rfl
@[simp] theorem setSlot_ctl (s : State) (k : Nat) (v : EpSlot) : (s.setSlot k v).ctl = s.ctl := rfl
@[simp] theorem setSlot_svc (s : State) (k : Nat) (v : EpSlot) : (s.setSlot k v).svc = s.svc := rfl
@[simp] theorem setSlot_faults (s : State) (k : Nat) (v : EpSlot) : (s.setSlot k v).faults = s.faults := rfl
@[simp] theorem setSlot_time (s : State) (k : Nat) (v : EpSlot) : (s.setSlot k v).time = s.time := rfl
@[simp] theorem setSlot_aon (s : State) (k : Nat) (v : EpSlot) : (s.setSlot k v).aon = s.aon := rfl
@[simp] theorem setSlot_tele (s : State) (k : Nat) (v : EpSlot) : (s.setSlot k v).tele = s.tele := rfl
@[simp] theorem setSlot_links (s : State) (k : Nat) (v : EpSlot) : (s.setSlot k v).links = s.links := rfl
@[simp] theorem setSlot_sw (s : State) (k : Nat) (v : EpSlot) : (s.setSlot k v).sw = s.sw := rfl
@[simp] theorem setSlot_vats (s : State) (k : Nat) (v : EpSlot) : (s.setSlot k v).vats = s.vats := rfl
@[simp] theorem setSlot_sync (s : State) (k : Nat) (v : EpSlot) : (s.setSlot k v).sync = s.sync := rfl
@[simp] theorem setSlot_press (s : State) (k : Nat) (v : EpSlot) : (s.setSlot k v).press = s.press := rfl
@[simp] theorem setSlot_cel (s : State) (k : Nat) (v : EpSlot) : (s.setSlot k v).cel = s.cel := rfl
@[simp] theorem setSlot_adm (s : State) (k : Nat) (v : EpSlot) : (s.setSlot k v).adm = s.adm := rfl
@[simp] theorem setSlot_pwr (s : State) (k : Nat) (v : EpSlot) : (s.setSlot k v).pwr = s.pwr := rfl
@[simp] theorem setSlot_fw (s : State) (k : Nat) (v : EpSlot) : (s.setSlot k v).fw = s.fw := rfl
@[simp] theorem setSlot_smbIndex (s : State) (k : Nat) (v : EpSlot) : (s.setSlot k v).smbIndex = s.smbIndex := rfl
@[simp] theorem setSlot_out (s : State) (k : Nat) (v : EpSlot) : (s.setSlot k v).out = s.out := rfl
@[simp] theorem setSlot_free (s : State) (k : Nat) (v : EpSlot) : (s.setSlot k v).free = s.free := rfl
@[simp] theorem setSlot_pending (s : State) (k : Nat) (v : EpSlot) : (s.setSlot k v).pending = s.pending := rfl
@[simp] theorem slot_setSlot_self (s : State) (k : Nat) (v : EpSlot) : (s.setSlot k v).slot k = v := look_put_self _ _ _ _
theorem slot_setSlot_of_ne (s : State) {k j : Nat} (v : EpSlot) (h : j ≠ k) : (s.setSlot k v).slot j = s.slot j :=
  look_put_of_ne _ _ _ h
@[simp] theorem setSlot_fab_fna (s : State) (k : Nat) (v : EpSlot) : (s.setSlot k v).fab.fna = s.fab.fna := rfl
@[simp] theorem setSlot_fab_ndim (s : State) (k : Nat) (v : EpSlot) : (s.setSlot k v).fab.ndim = s.fab.ndim := rfl
@[simp] theorem setSlot_fab_twisted (s : State) (k : Nat) (v : EpSlot) : (s.setSlot k v).fab.twisted = s.fab.twisted := rfl
@[simp] theorem setSlot_fab_disc (s : State) (k : Nat) (v : EpSlot) : (s.setSlot k v).fab.disc = s.fab.disc := rfl
@[simp] theorem setSlot_fab_discFor (s : State) (k : Nat) (v : EpSlot) : (s.setSlot k v).fab.discFor = s.fab.discFor := rfl
@[simp] theorem setSlot_fab_marked (s : State) (k : Nat) (v : EpSlot) : (s.setSlot k v).fab.marked = s.fab.marked := rfl
@[simp] theorem setSlot_fab_rootFna (s : State) (k : Nat) (v : EpSlot) : (s.setSlot k v).fab.rootFna = s.fab.rootFna := rfl
@[simp] theorem setSlot_fab_root (s : State) (k : Nat) (v : EpSlot) : (s.setSlot k v).fab.root = s.fab.root := rfl
@[simp] theorem setSlot_fab_seenMarked (s : State) (k : Nat) (v : EpSlot) : (s.setSlot k v).fab.seenMarked = s.fab.seenMarked := rfl
@[simp] theorem setSlot_fab_coords (s : State) (k : Nat) (v : EpSlot) : (s.setSlot k v).fab.coords = s.fab.coords := rfl
@[simp] theorem setSlot_fab_map (s : State) (k : Nat) (v : EpSlot) : (s.setSlot k v).fab.map = s.fab.map := rfl
@[simp] theorem setSlot_fab_dims (s : State) (k : Nat) (v : EpSlot) : (s.setSlot k v).fab.dims = s.fab.dims := rfl
@[simp] theorem setSlot_fab_holes (s : State) (k : Nat) (v : EpSlot) : (s.setSlot k v).fab.holes = s.fab.holes := rfl
@[simp] theorem setSlot_fab_recompute (s : State) (k : Nat) (v : EpSlot) : (s.setSlot k v).fab.recompute = s.fab.recompute := rfl
@[simp] theorem setSlot_fab_relayWait (s : State) (k : Nat) (v : EpSlot) : (s.setSlot k v).fab.relayWait = s.fab.relayWait := rfl
@[simp] theorem setSlot_fab_seen (s : State) (k : Nat) (v : EpSlot) : (s.setSlot k v).fab.seen = s.fab.seen := rfl
@[simp] theorem setSlot_fab_dual (s : State) (k : Nat) (v : EpSlot) : (s.setSlot k v).fab.dual = s.fab.dual := rfl
@[simp] theorem setSlot_fab_bank0 (s : State) (k : Nat) (v : EpSlot) : (s.setSlot k v).fab.bank0 = s.fab.bank0 := rfl
@[simp] theorem setSlot_fab_bank1 (s : State) (k : Nat) (v : EpSlot) : (s.setSlot k v).fab.bank1 = s.fab.bank1 := rfl
@[simp] theorem setSlot_fab_live (s : State) (k : Nat) (v : EpSlot) : (s.setSlot k v).fab.live = s.fab.live := rfl
@[simp] theorem setSlot_fab_oldHeld (s : State) (k : Nat) (v : EpSlot) : (s.setSlot k v).fab.oldHeld = s.fab.oldHeld := rfl
@[simp] theorem setSlot_fab_staged0 (s : State) (k : Nat) (v : EpSlot) : (s.setSlot k v).fab.staged0 = s.fab.staged0 := rfl
@[simp] theorem setSlot_fab_staged1 (s : State) (k : Nat) (v : EpSlot) : (s.setSlot k v).fab.staged1 = s.fab.staged1 := rfl
@[simp] theorem setSlot_fab_session (s : State) (k : Nat) (v : EpSlot) : (s.setSlot k v).fab.session = s.fab.session := rfl
@[simp] theorem setSlot_fab_commit (s : State) (k : Nat) (v : EpSlot) : (s.setSlot k v).fab.commit = s.fab.commit := rfl
@[simp] theorem setSlot_fab_commitFor (s : State) (k : Nat) (v : EpSlot) : (s.setSlot k v).fab.commitFor = s.fab.commitFor := rfl
@[simp] theorem setSlot_fab_commitAt (s : State) (k : Nat) (v : EpSlot) : (s.setSlot k v).fab.commitAt = s.fab.commitAt := rfl
@[simp] theorem setSlot_fab_inCh (s : State) (k : Nat) (v : EpSlot) : (s.setSlot k v).fab.inCh = s.fab.inCh := rfl
@[simp] theorem setSlot_fab_egCh (s : State) (k : Nat) (v : EpSlot) : (s.setSlot k v).fab.egCh = s.fab.egCh := rfl
@[simp] theorem setSlot_fab_holds (s : State) (k : Nat) (v : EpSlot) : (s.setSlot k v).fab.holds = s.fab.holds := rfl
@[simp] theorem setSlot_fab_limiters (s : State) (k : Nat) (v : EpSlot) : (s.setSlot k v).fab.limiters = s.fab.limiters := rfl
@[simp] theorem setSlot_fab_mirrors (s : State) (k : Nat) (v : EpSlot) : (s.setSlot k v).fab.mirrors = s.fab.mirrors := rfl
@[simp] theorem setSlot_fab_mirrorWait (s : State) (k : Nat) (v : EpSlot) : (s.setSlot k v).fab.mirrorWait = s.fab.mirrorWait := rfl
@[simp] theorem setSlot_fab_takeover (s : State) (k : Nat) (v : EpSlot) : (s.setSlot k v).fab.takeover = s.fab.takeover := rfl
@[simp] theorem setSlot_fab_log (s : State) (k : Nat) (v : EpSlot) : (s.setSlot k v).fab.log = s.fab.log := rfl

/-! ### setInCh -/

@[simp] theorem setInCh_ident (s : State) (k : Nat) (v : InCh) : (s.setInCh k v).ident = s.ident := rfl
@[simp] theorem setInCh_ctl (s : State) (k : Nat) (v : InCh) : (s.setInCh k v).ctl = s.ctl := rfl
@[simp] theorem setInCh_svc (s : State) (k : Nat) (v : InCh) : (s.setInCh k v).svc = s.svc := rfl
@[simp] theorem setInCh_faults (s : State) (k : Nat) (v : InCh) : (s.setInCh k v).faults = s.faults := rfl
@[simp] theorem setInCh_time (s : State) (k : Nat) (v : InCh) : (s.setInCh k v).time = s.time := rfl
@[simp] theorem setInCh_aon (s : State) (k : Nat) (v : InCh) : (s.setInCh k v).aon = s.aon := rfl
@[simp] theorem setInCh_tele (s : State) (k : Nat) (v : InCh) : (s.setInCh k v).tele = s.tele := rfl
@[simp] theorem setInCh_links (s : State) (k : Nat) (v : InCh) : (s.setInCh k v).links = s.links := rfl
@[simp] theorem setInCh_sw (s : State) (k : Nat) (v : InCh) : (s.setInCh k v).sw = s.sw := rfl
@[simp] theorem setInCh_vats (s : State) (k : Nat) (v : InCh) : (s.setInCh k v).vats = s.vats := rfl
@[simp] theorem setInCh_sync (s : State) (k : Nat) (v : InCh) : (s.setInCh k v).sync = s.sync := rfl
@[simp] theorem setInCh_press (s : State) (k : Nat) (v : InCh) : (s.setInCh k v).press = s.press := rfl
@[simp] theorem setInCh_cel (s : State) (k : Nat) (v : InCh) : (s.setInCh k v).cel = s.cel := rfl
@[simp] theorem setInCh_adm (s : State) (k : Nat) (v : InCh) : (s.setInCh k v).adm = s.adm := rfl
@[simp] theorem setInCh_pwr (s : State) (k : Nat) (v : InCh) : (s.setInCh k v).pwr = s.pwr := rfl
@[simp] theorem setInCh_fw (s : State) (k : Nat) (v : InCh) : (s.setInCh k v).fw = s.fw := rfl
@[simp] theorem setInCh_smbIndex (s : State) (k : Nat) (v : InCh) : (s.setInCh k v).smbIndex = s.smbIndex := rfl
@[simp] theorem setInCh_out (s : State) (k : Nat) (v : InCh) : (s.setInCh k v).out = s.out := rfl
@[simp] theorem setInCh_free (s : State) (k : Nat) (v : InCh) : (s.setInCh k v).free = s.free := rfl
@[simp] theorem setInCh_pending (s : State) (k : Nat) (v : InCh) : (s.setInCh k v).pending = s.pending := rfl
@[simp] theorem inCh_setInCh_self (s : State) (k : Nat) (v : InCh) : (s.setInCh k v).inCh k = v := look_put_self _ _ _ _
theorem inCh_setInCh_of_ne (s : State) {k j : Nat} (v : InCh) (h : j ≠ k) : (s.setInCh k v).inCh j = s.inCh j :=
  look_put_of_ne _ _ _ h
@[simp] theorem setInCh_fab_fna (s : State) (k : Nat) (v : InCh) : (s.setInCh k v).fab.fna = s.fab.fna := rfl
@[simp] theorem setInCh_fab_ndim (s : State) (k : Nat) (v : InCh) : (s.setInCh k v).fab.ndim = s.fab.ndim := rfl
@[simp] theorem setInCh_fab_twisted (s : State) (k : Nat) (v : InCh) : (s.setInCh k v).fab.twisted = s.fab.twisted := rfl
@[simp] theorem setInCh_fab_disc (s : State) (k : Nat) (v : InCh) : (s.setInCh k v).fab.disc = s.fab.disc := rfl
@[simp] theorem setInCh_fab_discFor (s : State) (k : Nat) (v : InCh) : (s.setInCh k v).fab.discFor = s.fab.discFor := rfl
@[simp] theorem setInCh_fab_marked (s : State) (k : Nat) (v : InCh) : (s.setInCh k v).fab.marked = s.fab.marked := rfl
@[simp] theorem setInCh_fab_rootFna (s : State) (k : Nat) (v : InCh) : (s.setInCh k v).fab.rootFna = s.fab.rootFna := rfl
@[simp] theorem setInCh_fab_root (s : State) (k : Nat) (v : InCh) : (s.setInCh k v).fab.root = s.fab.root := rfl
@[simp] theorem setInCh_fab_seenMarked (s : State) (k : Nat) (v : InCh) : (s.setInCh k v).fab.seenMarked = s.fab.seenMarked := rfl
@[simp] theorem setInCh_fab_coords (s : State) (k : Nat) (v : InCh) : (s.setInCh k v).fab.coords = s.fab.coords := rfl
@[simp] theorem setInCh_fab_map (s : State) (k : Nat) (v : InCh) : (s.setInCh k v).fab.map = s.fab.map := rfl
@[simp] theorem setInCh_fab_dims (s : State) (k : Nat) (v : InCh) : (s.setInCh k v).fab.dims = s.fab.dims := rfl
@[simp] theorem setInCh_fab_holes (s : State) (k : Nat) (v : InCh) : (s.setInCh k v).fab.holes = s.fab.holes := rfl
@[simp] theorem setInCh_fab_recompute (s : State) (k : Nat) (v : InCh) : (s.setInCh k v).fab.recompute = s.fab.recompute := rfl
@[simp] theorem setInCh_fab_relayWait (s : State) (k : Nat) (v : InCh) : (s.setInCh k v).fab.relayWait = s.fab.relayWait := rfl
@[simp] theorem setInCh_fab_seen (s : State) (k : Nat) (v : InCh) : (s.setInCh k v).fab.seen = s.fab.seen := rfl
@[simp] theorem setInCh_fab_slots (s : State) (k : Nat) (v : InCh) : (s.setInCh k v).fab.slots = s.fab.slots := rfl
@[simp] theorem setInCh_fab_dual (s : State) (k : Nat) (v : InCh) : (s.setInCh k v).fab.dual = s.fab.dual := rfl
@[simp] theorem setInCh_fab_bank0 (s : State) (k : Nat) (v : InCh) : (s.setInCh k v).fab.bank0 = s.fab.bank0 := rfl
@[simp] theorem setInCh_fab_bank1 (s : State) (k : Nat) (v : InCh) : (s.setInCh k v).fab.bank1 = s.fab.bank1 := rfl
@[simp] theorem setInCh_fab_live (s : State) (k : Nat) (v : InCh) : (s.setInCh k v).fab.live = s.fab.live := rfl
@[simp] theorem setInCh_fab_oldHeld (s : State) (k : Nat) (v : InCh) : (s.setInCh k v).fab.oldHeld = s.fab.oldHeld := rfl
@[simp] theorem setInCh_fab_staged0 (s : State) (k : Nat) (v : InCh) : (s.setInCh k v).fab.staged0 = s.fab.staged0 := rfl
@[simp] theorem setInCh_fab_staged1 (s : State) (k : Nat) (v : InCh) : (s.setInCh k v).fab.staged1 = s.fab.staged1 := rfl
@[simp] theorem setInCh_fab_session (s : State) (k : Nat) (v : InCh) : (s.setInCh k v).fab.session = s.fab.session := rfl
@[simp] theorem setInCh_fab_commit (s : State) (k : Nat) (v : InCh) : (s.setInCh k v).fab.commit = s.fab.commit := rfl
@[simp] theorem setInCh_fab_commitFor (s : State) (k : Nat) (v : InCh) : (s.setInCh k v).fab.commitFor = s.fab.commitFor := rfl
@[simp] theorem setInCh_fab_commitAt (s : State) (k : Nat) (v : InCh) : (s.setInCh k v).fab.commitAt = s.fab.commitAt := rfl
@[simp] theorem setInCh_fab_egCh (s : State) (k : Nat) (v : InCh) : (s.setInCh k v).fab.egCh = s.fab.egCh := rfl
@[simp] theorem setInCh_fab_holds (s : State) (k : Nat) (v : InCh) : (s.setInCh k v).fab.holds = s.fab.holds := rfl
@[simp] theorem setInCh_fab_limiters (s : State) (k : Nat) (v : InCh) : (s.setInCh k v).fab.limiters = s.fab.limiters := rfl
@[simp] theorem setInCh_fab_mirrors (s : State) (k : Nat) (v : InCh) : (s.setInCh k v).fab.mirrors = s.fab.mirrors := rfl
@[simp] theorem setInCh_fab_mirrorWait (s : State) (k : Nat) (v : InCh) : (s.setInCh k v).fab.mirrorWait = s.fab.mirrorWait := rfl
@[simp] theorem setInCh_fab_takeover (s : State) (k : Nat) (v : InCh) : (s.setInCh k v).fab.takeover = s.fab.takeover := rfl
@[simp] theorem setInCh_fab_log (s : State) (k : Nat) (v : InCh) : (s.setInCh k v).fab.log = s.fab.log := rfl

/-! ### setEgCh -/

@[simp] theorem setEgCh_ident (s : State) (k : Nat) (v : EgCh) : (s.setEgCh k v).ident = s.ident := rfl
@[simp] theorem setEgCh_ctl (s : State) (k : Nat) (v : EgCh) : (s.setEgCh k v).ctl = s.ctl := rfl
@[simp] theorem setEgCh_svc (s : State) (k : Nat) (v : EgCh) : (s.setEgCh k v).svc = s.svc := rfl
@[simp] theorem setEgCh_faults (s : State) (k : Nat) (v : EgCh) : (s.setEgCh k v).faults = s.faults := rfl
@[simp] theorem setEgCh_time (s : State) (k : Nat) (v : EgCh) : (s.setEgCh k v).time = s.time := rfl
@[simp] theorem setEgCh_aon (s : State) (k : Nat) (v : EgCh) : (s.setEgCh k v).aon = s.aon := rfl
@[simp] theorem setEgCh_tele (s : State) (k : Nat) (v : EgCh) : (s.setEgCh k v).tele = s.tele := rfl
@[simp] theorem setEgCh_links (s : State) (k : Nat) (v : EgCh) : (s.setEgCh k v).links = s.links := rfl
@[simp] theorem setEgCh_sw (s : State) (k : Nat) (v : EgCh) : (s.setEgCh k v).sw = s.sw := rfl
@[simp] theorem setEgCh_vats (s : State) (k : Nat) (v : EgCh) : (s.setEgCh k v).vats = s.vats := rfl
@[simp] theorem setEgCh_sync (s : State) (k : Nat) (v : EgCh) : (s.setEgCh k v).sync = s.sync := rfl
@[simp] theorem setEgCh_press (s : State) (k : Nat) (v : EgCh) : (s.setEgCh k v).press = s.press := rfl
@[simp] theorem setEgCh_cel (s : State) (k : Nat) (v : EgCh) : (s.setEgCh k v).cel = s.cel := rfl
@[simp] theorem setEgCh_adm (s : State) (k : Nat) (v : EgCh) : (s.setEgCh k v).adm = s.adm := rfl
@[simp] theorem setEgCh_pwr (s : State) (k : Nat) (v : EgCh) : (s.setEgCh k v).pwr = s.pwr := rfl
@[simp] theorem setEgCh_fw (s : State) (k : Nat) (v : EgCh) : (s.setEgCh k v).fw = s.fw := rfl
@[simp] theorem setEgCh_smbIndex (s : State) (k : Nat) (v : EgCh) : (s.setEgCh k v).smbIndex = s.smbIndex := rfl
@[simp] theorem setEgCh_out (s : State) (k : Nat) (v : EgCh) : (s.setEgCh k v).out = s.out := rfl
@[simp] theorem setEgCh_free (s : State) (k : Nat) (v : EgCh) : (s.setEgCh k v).free = s.free := rfl
@[simp] theorem setEgCh_pending (s : State) (k : Nat) (v : EgCh) : (s.setEgCh k v).pending = s.pending := rfl
@[simp] theorem egCh_setEgCh_self (s : State) (k : Nat) (v : EgCh) : (s.setEgCh k v).egCh k = v := look_put_self _ _ _ _
theorem egCh_setEgCh_of_ne (s : State) {k j : Nat} (v : EgCh) (h : j ≠ k) : (s.setEgCh k v).egCh j = s.egCh j :=
  look_put_of_ne _ _ _ h
@[simp] theorem setEgCh_fab_fna (s : State) (k : Nat) (v : EgCh) : (s.setEgCh k v).fab.fna = s.fab.fna := rfl
@[simp] theorem setEgCh_fab_ndim (s : State) (k : Nat) (v : EgCh) : (s.setEgCh k v).fab.ndim = s.fab.ndim := rfl
@[simp] theorem setEgCh_fab_twisted (s : State) (k : Nat) (v : EgCh) : (s.setEgCh k v).fab.twisted = s.fab.twisted := rfl
@[simp] theorem setEgCh_fab_disc (s : State) (k : Nat) (v : EgCh) : (s.setEgCh k v).fab.disc = s.fab.disc := rfl
@[simp] theorem setEgCh_fab_discFor (s : State) (k : Nat) (v : EgCh) : (s.setEgCh k v).fab.discFor = s.fab.discFor := rfl
@[simp] theorem setEgCh_fab_marked (s : State) (k : Nat) (v : EgCh) : (s.setEgCh k v).fab.marked = s.fab.marked := rfl
@[simp] theorem setEgCh_fab_rootFna (s : State) (k : Nat) (v : EgCh) : (s.setEgCh k v).fab.rootFna = s.fab.rootFna := rfl
@[simp] theorem setEgCh_fab_root (s : State) (k : Nat) (v : EgCh) : (s.setEgCh k v).fab.root = s.fab.root := rfl
@[simp] theorem setEgCh_fab_seenMarked (s : State) (k : Nat) (v : EgCh) : (s.setEgCh k v).fab.seenMarked = s.fab.seenMarked := rfl
@[simp] theorem setEgCh_fab_coords (s : State) (k : Nat) (v : EgCh) : (s.setEgCh k v).fab.coords = s.fab.coords := rfl
@[simp] theorem setEgCh_fab_map (s : State) (k : Nat) (v : EgCh) : (s.setEgCh k v).fab.map = s.fab.map := rfl
@[simp] theorem setEgCh_fab_dims (s : State) (k : Nat) (v : EgCh) : (s.setEgCh k v).fab.dims = s.fab.dims := rfl
@[simp] theorem setEgCh_fab_holes (s : State) (k : Nat) (v : EgCh) : (s.setEgCh k v).fab.holes = s.fab.holes := rfl
@[simp] theorem setEgCh_fab_recompute (s : State) (k : Nat) (v : EgCh) : (s.setEgCh k v).fab.recompute = s.fab.recompute := rfl
@[simp] theorem setEgCh_fab_relayWait (s : State) (k : Nat) (v : EgCh) : (s.setEgCh k v).fab.relayWait = s.fab.relayWait := rfl
@[simp] theorem setEgCh_fab_seen (s : State) (k : Nat) (v : EgCh) : (s.setEgCh k v).fab.seen = s.fab.seen := rfl
@[simp] theorem setEgCh_fab_slots (s : State) (k : Nat) (v : EgCh) : (s.setEgCh k v).fab.slots = s.fab.slots := rfl
@[simp] theorem setEgCh_fab_dual (s : State) (k : Nat) (v : EgCh) : (s.setEgCh k v).fab.dual = s.fab.dual := rfl
@[simp] theorem setEgCh_fab_bank0 (s : State) (k : Nat) (v : EgCh) : (s.setEgCh k v).fab.bank0 = s.fab.bank0 := rfl
@[simp] theorem setEgCh_fab_bank1 (s : State) (k : Nat) (v : EgCh) : (s.setEgCh k v).fab.bank1 = s.fab.bank1 := rfl
@[simp] theorem setEgCh_fab_live (s : State) (k : Nat) (v : EgCh) : (s.setEgCh k v).fab.live = s.fab.live := rfl
@[simp] theorem setEgCh_fab_oldHeld (s : State) (k : Nat) (v : EgCh) : (s.setEgCh k v).fab.oldHeld = s.fab.oldHeld := rfl
@[simp] theorem setEgCh_fab_staged0 (s : State) (k : Nat) (v : EgCh) : (s.setEgCh k v).fab.staged0 = s.fab.staged0 := rfl
@[simp] theorem setEgCh_fab_staged1 (s : State) (k : Nat) (v : EgCh) : (s.setEgCh k v).fab.staged1 = s.fab.staged1 := rfl
@[simp] theorem setEgCh_fab_session (s : State) (k : Nat) (v : EgCh) : (s.setEgCh k v).fab.session = s.fab.session := rfl
@[simp] theorem setEgCh_fab_commit (s : State) (k : Nat) (v : EgCh) : (s.setEgCh k v).fab.commit = s.fab.commit := rfl
@[simp] theorem setEgCh_fab_commitFor (s : State) (k : Nat) (v : EgCh) : (s.setEgCh k v).fab.commitFor = s.fab.commitFor := rfl
@[simp] theorem setEgCh_fab_commitAt (s : State) (k : Nat) (v : EgCh) : (s.setEgCh k v).fab.commitAt = s.fab.commitAt := rfl
@[simp] theorem setEgCh_fab_inCh (s : State) (k : Nat) (v : EgCh) : (s.setEgCh k v).fab.inCh = s.fab.inCh := rfl
@[simp] theorem setEgCh_fab_holds (s : State) (k : Nat) (v : EgCh) : (s.setEgCh k v).fab.holds = s.fab.holds := rfl
@[simp] theorem setEgCh_fab_limiters (s : State) (k : Nat) (v : EgCh) : (s.setEgCh k v).fab.limiters = s.fab.limiters := rfl
@[simp] theorem setEgCh_fab_mirrors (s : State) (k : Nat) (v : EgCh) : (s.setEgCh k v).fab.mirrors = s.fab.mirrors := rfl
@[simp] theorem setEgCh_fab_mirrorWait (s : State) (k : Nat) (v : EgCh) : (s.setEgCh k v).fab.mirrorWait = s.fab.mirrorWait := rfl
@[simp] theorem setEgCh_fab_takeover (s : State) (k : Nat) (v : EgCh) : (s.setEgCh k v).fab.takeover = s.fab.takeover := rfl
@[simp] theorem setEgCh_fab_log (s : State) (k : Nat) (v : EgCh) : (s.setEgCh k v).fab.log = s.fab.log := rfl

/-! ### setHold -/

@[simp] theorem setHold_ident (s : State) (k : Nat) (v : Hold) : (s.setHold k v).ident = s.ident := rfl
@[simp] theorem setHold_ctl (s : State) (k : Nat) (v : Hold) : (s.setHold k v).ctl = s.ctl := rfl
@[simp] theorem setHold_svc (s : State) (k : Nat) (v : Hold) : (s.setHold k v).svc = s.svc := rfl
@[simp] theorem setHold_faults (s : State) (k : Nat) (v : Hold) : (s.setHold k v).faults = s.faults := rfl
@[simp] theorem setHold_time (s : State) (k : Nat) (v : Hold) : (s.setHold k v).time = s.time := rfl
@[simp] theorem setHold_aon (s : State) (k : Nat) (v : Hold) : (s.setHold k v).aon = s.aon := rfl
@[simp] theorem setHold_tele (s : State) (k : Nat) (v : Hold) : (s.setHold k v).tele = s.tele := rfl
@[simp] theorem setHold_links (s : State) (k : Nat) (v : Hold) : (s.setHold k v).links = s.links := rfl
@[simp] theorem setHold_sw (s : State) (k : Nat) (v : Hold) : (s.setHold k v).sw = s.sw := rfl
@[simp] theorem setHold_vats (s : State) (k : Nat) (v : Hold) : (s.setHold k v).vats = s.vats := rfl
@[simp] theorem setHold_sync (s : State) (k : Nat) (v : Hold) : (s.setHold k v).sync = s.sync := rfl
@[simp] theorem setHold_press (s : State) (k : Nat) (v : Hold) : (s.setHold k v).press = s.press := rfl
@[simp] theorem setHold_cel (s : State) (k : Nat) (v : Hold) : (s.setHold k v).cel = s.cel := rfl
@[simp] theorem setHold_adm (s : State) (k : Nat) (v : Hold) : (s.setHold k v).adm = s.adm := rfl
@[simp] theorem setHold_pwr (s : State) (k : Nat) (v : Hold) : (s.setHold k v).pwr = s.pwr := rfl
@[simp] theorem setHold_fw (s : State) (k : Nat) (v : Hold) : (s.setHold k v).fw = s.fw := rfl
@[simp] theorem setHold_smbIndex (s : State) (k : Nat) (v : Hold) : (s.setHold k v).smbIndex = s.smbIndex := rfl
@[simp] theorem setHold_out (s : State) (k : Nat) (v : Hold) : (s.setHold k v).out = s.out := rfl
@[simp] theorem setHold_free (s : State) (k : Nat) (v : Hold) : (s.setHold k v).free = s.free := rfl
@[simp] theorem setHold_pending (s : State) (k : Nat) (v : Hold) : (s.setHold k v).pending = s.pending := rfl
@[simp] theorem hold_setHold_self (s : State) (k : Nat) (v : Hold) : (s.setHold k v).hold k = v := look_put_self _ _ _ _
theorem hold_setHold_of_ne (s : State) {k j : Nat} (v : Hold) (h : j ≠ k) : (s.setHold k v).hold j = s.hold j :=
  look_put_of_ne _ _ _ h
@[simp] theorem setHold_fab_fna (s : State) (k : Nat) (v : Hold) : (s.setHold k v).fab.fna = s.fab.fna := rfl
@[simp] theorem setHold_fab_ndim (s : State) (k : Nat) (v : Hold) : (s.setHold k v).fab.ndim = s.fab.ndim := rfl
@[simp] theorem setHold_fab_twisted (s : State) (k : Nat) (v : Hold) : (s.setHold k v).fab.twisted = s.fab.twisted := rfl
@[simp] theorem setHold_fab_disc (s : State) (k : Nat) (v : Hold) : (s.setHold k v).fab.disc = s.fab.disc := rfl
@[simp] theorem setHold_fab_discFor (s : State) (k : Nat) (v : Hold) : (s.setHold k v).fab.discFor = s.fab.discFor := rfl
@[simp] theorem setHold_fab_marked (s : State) (k : Nat) (v : Hold) : (s.setHold k v).fab.marked = s.fab.marked := rfl
@[simp] theorem setHold_fab_rootFna (s : State) (k : Nat) (v : Hold) : (s.setHold k v).fab.rootFna = s.fab.rootFna := rfl
@[simp] theorem setHold_fab_root (s : State) (k : Nat) (v : Hold) : (s.setHold k v).fab.root = s.fab.root := rfl
@[simp] theorem setHold_fab_seenMarked (s : State) (k : Nat) (v : Hold) : (s.setHold k v).fab.seenMarked = s.fab.seenMarked := rfl
@[simp] theorem setHold_fab_coords (s : State) (k : Nat) (v : Hold) : (s.setHold k v).fab.coords = s.fab.coords := rfl
@[simp] theorem setHold_fab_map (s : State) (k : Nat) (v : Hold) : (s.setHold k v).fab.map = s.fab.map := rfl
@[simp] theorem setHold_fab_dims (s : State) (k : Nat) (v : Hold) : (s.setHold k v).fab.dims = s.fab.dims := rfl
@[simp] theorem setHold_fab_holes (s : State) (k : Nat) (v : Hold) : (s.setHold k v).fab.holes = s.fab.holes := rfl
@[simp] theorem setHold_fab_recompute (s : State) (k : Nat) (v : Hold) : (s.setHold k v).fab.recompute = s.fab.recompute := rfl
@[simp] theorem setHold_fab_relayWait (s : State) (k : Nat) (v : Hold) : (s.setHold k v).fab.relayWait = s.fab.relayWait := rfl
@[simp] theorem setHold_fab_seen (s : State) (k : Nat) (v : Hold) : (s.setHold k v).fab.seen = s.fab.seen := rfl
@[simp] theorem setHold_fab_slots (s : State) (k : Nat) (v : Hold) : (s.setHold k v).fab.slots = s.fab.slots := rfl
@[simp] theorem setHold_fab_dual (s : State) (k : Nat) (v : Hold) : (s.setHold k v).fab.dual = s.fab.dual := rfl
@[simp] theorem setHold_fab_bank0 (s : State) (k : Nat) (v : Hold) : (s.setHold k v).fab.bank0 = s.fab.bank0 := rfl
@[simp] theorem setHold_fab_bank1 (s : State) (k : Nat) (v : Hold) : (s.setHold k v).fab.bank1 = s.fab.bank1 := rfl
@[simp] theorem setHold_fab_live (s : State) (k : Nat) (v : Hold) : (s.setHold k v).fab.live = s.fab.live := rfl
@[simp] theorem setHold_fab_oldHeld (s : State) (k : Nat) (v : Hold) : (s.setHold k v).fab.oldHeld = s.fab.oldHeld := rfl
@[simp] theorem setHold_fab_staged0 (s : State) (k : Nat) (v : Hold) : (s.setHold k v).fab.staged0 = s.fab.staged0 := rfl
@[simp] theorem setHold_fab_staged1 (s : State) (k : Nat) (v : Hold) : (s.setHold k v).fab.staged1 = s.fab.staged1 := rfl
@[simp] theorem setHold_fab_session (s : State) (k : Nat) (v : Hold) : (s.setHold k v).fab.session = s.fab.session := rfl
@[simp] theorem setHold_fab_commit (s : State) (k : Nat) (v : Hold) : (s.setHold k v).fab.commit = s.fab.commit := rfl
@[simp] theorem setHold_fab_commitFor (s : State) (k : Nat) (v : Hold) : (s.setHold k v).fab.commitFor = s.fab.commitFor := rfl
@[simp] theorem setHold_fab_commitAt (s : State) (k : Nat) (v : Hold) : (s.setHold k v).fab.commitAt = s.fab.commitAt := rfl
@[simp] theorem setHold_fab_inCh (s : State) (k : Nat) (v : Hold) : (s.setHold k v).fab.inCh = s.fab.inCh := rfl
@[simp] theorem setHold_fab_egCh (s : State) (k : Nat) (v : Hold) : (s.setHold k v).fab.egCh = s.fab.egCh := rfl
@[simp] theorem setHold_fab_limiters (s : State) (k : Nat) (v : Hold) : (s.setHold k v).fab.limiters = s.fab.limiters := rfl
@[simp] theorem setHold_fab_mirrors (s : State) (k : Nat) (v : Hold) : (s.setHold k v).fab.mirrors = s.fab.mirrors := rfl
@[simp] theorem setHold_fab_mirrorWait (s : State) (k : Nat) (v : Hold) : (s.setHold k v).fab.mirrorWait = s.fab.mirrorWait := rfl
@[simp] theorem setHold_fab_takeover (s : State) (k : Nat) (v : Hold) : (s.setHold k v).fab.takeover = s.fab.takeover := rfl
@[simp] theorem setHold_fab_log (s : State) (k : Nat) (v : Hold) : (s.setHold k v).fab.log = s.fab.log := rfl

/-! ### setLimiter -/

@[simp] theorem setLimiter_ident (s : State) (k : Nat) (v : Limiter) : (s.setLimiter k v).ident = s.ident := rfl
@[simp] theorem setLimiter_ctl (s : State) (k : Nat) (v : Limiter) : (s.setLimiter k v).ctl = s.ctl := rfl
@[simp] theorem setLimiter_svc (s : State) (k : Nat) (v : Limiter) : (s.setLimiter k v).svc = s.svc := rfl
@[simp] theorem setLimiter_faults (s : State) (k : Nat) (v : Limiter) : (s.setLimiter k v).faults = s.faults := rfl
@[simp] theorem setLimiter_time (s : State) (k : Nat) (v : Limiter) : (s.setLimiter k v).time = s.time := rfl
@[simp] theorem setLimiter_aon (s : State) (k : Nat) (v : Limiter) : (s.setLimiter k v).aon = s.aon := rfl
@[simp] theorem setLimiter_tele (s : State) (k : Nat) (v : Limiter) : (s.setLimiter k v).tele = s.tele := rfl
@[simp] theorem setLimiter_links (s : State) (k : Nat) (v : Limiter) : (s.setLimiter k v).links = s.links := rfl
@[simp] theorem setLimiter_sw (s : State) (k : Nat) (v : Limiter) : (s.setLimiter k v).sw = s.sw := rfl
@[simp] theorem setLimiter_vats (s : State) (k : Nat) (v : Limiter) : (s.setLimiter k v).vats = s.vats := rfl
@[simp] theorem setLimiter_sync (s : State) (k : Nat) (v : Limiter) : (s.setLimiter k v).sync = s.sync := rfl
@[simp] theorem setLimiter_press (s : State) (k : Nat) (v : Limiter) : (s.setLimiter k v).press = s.press := rfl
@[simp] theorem setLimiter_cel (s : State) (k : Nat) (v : Limiter) : (s.setLimiter k v).cel = s.cel := rfl
@[simp] theorem setLimiter_adm (s : State) (k : Nat) (v : Limiter) : (s.setLimiter k v).adm = s.adm := rfl
@[simp] theorem setLimiter_pwr (s : State) (k : Nat) (v : Limiter) : (s.setLimiter k v).pwr = s.pwr := rfl
@[simp] theorem setLimiter_fw (s : State) (k : Nat) (v : Limiter) : (s.setLimiter k v).fw = s.fw := rfl
@[simp] theorem setLimiter_smbIndex (s : State) (k : Nat) (v : Limiter) : (s.setLimiter k v).smbIndex = s.smbIndex := rfl
@[simp] theorem setLimiter_out (s : State) (k : Nat) (v : Limiter) : (s.setLimiter k v).out = s.out := rfl
@[simp] theorem setLimiter_free (s : State) (k : Nat) (v : Limiter) : (s.setLimiter k v).free = s.free := rfl
@[simp] theorem setLimiter_pending (s : State) (k : Nat) (v : Limiter) : (s.setLimiter k v).pending = s.pending := rfl
@[simp] theorem limiter_setLimiter_self (s : State) (k : Nat) (v : Limiter) : (s.setLimiter k v).limiter k = v := look_put_self _ _ _ _
theorem limiter_setLimiter_of_ne (s : State) {k j : Nat} (v : Limiter) (h : j ≠ k) : (s.setLimiter k v).limiter j = s.limiter j :=
  look_put_of_ne _ _ _ h
@[simp] theorem setLimiter_fab_fna (s : State) (k : Nat) (v : Limiter) : (s.setLimiter k v).fab.fna = s.fab.fna := rfl
@[simp] theorem setLimiter_fab_ndim (s : State) (k : Nat) (v : Limiter) : (s.setLimiter k v).fab.ndim = s.fab.ndim := rfl
@[simp] theorem setLimiter_fab_twisted (s : State) (k : Nat) (v : Limiter) : (s.setLimiter k v).fab.twisted = s.fab.twisted := rfl
@[simp] theorem setLimiter_fab_disc (s : State) (k : Nat) (v : Limiter) : (s.setLimiter k v).fab.disc = s.fab.disc := rfl
@[simp] theorem setLimiter_fab_discFor (s : State) (k : Nat) (v : Limiter) : (s.setLimiter k v).fab.discFor = s.fab.discFor := rfl
@[simp] theorem setLimiter_fab_marked (s : State) (k : Nat) (v : Limiter) : (s.setLimiter k v).fab.marked = s.fab.marked := rfl
@[simp] theorem setLimiter_fab_rootFna (s : State) (k : Nat) (v : Limiter) : (s.setLimiter k v).fab.rootFna = s.fab.rootFna := rfl
@[simp] theorem setLimiter_fab_root (s : State) (k : Nat) (v : Limiter) : (s.setLimiter k v).fab.root = s.fab.root := rfl
@[simp] theorem setLimiter_fab_seenMarked (s : State) (k : Nat) (v : Limiter)
    : (s.setLimiter k v).fab.seenMarked = s.fab.seenMarked := rfl
@[simp] theorem setLimiter_fab_coords (s : State) (k : Nat) (v : Limiter) : (s.setLimiter k v).fab.coords = s.fab.coords := rfl
@[simp] theorem setLimiter_fab_map (s : State) (k : Nat) (v : Limiter) : (s.setLimiter k v).fab.map = s.fab.map := rfl
@[simp] theorem setLimiter_fab_dims (s : State) (k : Nat) (v : Limiter) : (s.setLimiter k v).fab.dims = s.fab.dims := rfl
@[simp] theorem setLimiter_fab_holes (s : State) (k : Nat) (v : Limiter) : (s.setLimiter k v).fab.holes = s.fab.holes := rfl
@[simp] theorem setLimiter_fab_recompute (s : State) (k : Nat) (v : Limiter)
    : (s.setLimiter k v).fab.recompute = s.fab.recompute := rfl
@[simp] theorem setLimiter_fab_relayWait (s : State) (k : Nat) (v : Limiter)
    : (s.setLimiter k v).fab.relayWait = s.fab.relayWait := rfl
@[simp] theorem setLimiter_fab_seen (s : State) (k : Nat) (v : Limiter) : (s.setLimiter k v).fab.seen = s.fab.seen := rfl
@[simp] theorem setLimiter_fab_slots (s : State) (k : Nat) (v : Limiter) : (s.setLimiter k v).fab.slots = s.fab.slots := rfl
@[simp] theorem setLimiter_fab_dual (s : State) (k : Nat) (v : Limiter) : (s.setLimiter k v).fab.dual = s.fab.dual := rfl
@[simp] theorem setLimiter_fab_bank0 (s : State) (k : Nat) (v : Limiter) : (s.setLimiter k v).fab.bank0 = s.fab.bank0 := rfl
@[simp] theorem setLimiter_fab_bank1 (s : State) (k : Nat) (v : Limiter) : (s.setLimiter k v).fab.bank1 = s.fab.bank1 := rfl
@[simp] theorem setLimiter_fab_live (s : State) (k : Nat) (v : Limiter) : (s.setLimiter k v).fab.live = s.fab.live := rfl
@[simp] theorem setLimiter_fab_oldHeld (s : State) (k : Nat) (v : Limiter) : (s.setLimiter k v).fab.oldHeld = s.fab.oldHeld := rfl
@[simp] theorem setLimiter_fab_staged0 (s : State) (k : Nat) (v : Limiter) : (s.setLimiter k v).fab.staged0 = s.fab.staged0 := rfl
@[simp] theorem setLimiter_fab_staged1 (s : State) (k : Nat) (v : Limiter) : (s.setLimiter k v).fab.staged1 = s.fab.staged1 := rfl
@[simp] theorem setLimiter_fab_session (s : State) (k : Nat) (v : Limiter) : (s.setLimiter k v).fab.session = s.fab.session := rfl
@[simp] theorem setLimiter_fab_commit (s : State) (k : Nat) (v : Limiter) : (s.setLimiter k v).fab.commit = s.fab.commit := rfl
@[simp] theorem setLimiter_fab_commitFor (s : State) (k : Nat) (v : Limiter)
    : (s.setLimiter k v).fab.commitFor = s.fab.commitFor := rfl
@[simp] theorem setLimiter_fab_commitAt (s : State) (k : Nat) (v : Limiter)
    : (s.setLimiter k v).fab.commitAt = s.fab.commitAt := rfl
@[simp] theorem setLimiter_fab_inCh (s : State) (k : Nat) (v : Limiter) : (s.setLimiter k v).fab.inCh = s.fab.inCh := rfl
@[simp] theorem setLimiter_fab_egCh (s : State) (k : Nat) (v : Limiter) : (s.setLimiter k v).fab.egCh = s.fab.egCh := rfl
@[simp] theorem setLimiter_fab_holds (s : State) (k : Nat) (v : Limiter) : (s.setLimiter k v).fab.holds = s.fab.holds := rfl
@[simp] theorem setLimiter_fab_mirrors (s : State) (k : Nat) (v : Limiter) : (s.setLimiter k v).fab.mirrors = s.fab.mirrors := rfl
@[simp] theorem setLimiter_fab_mirrorWait (s : State) (k : Nat) (v : Limiter)
    : (s.setLimiter k v).fab.mirrorWait = s.fab.mirrorWait := rfl
@[simp] theorem setLimiter_fab_takeover (s : State) (k : Nat) (v : Limiter)
    : (s.setLimiter k v).fab.takeover = s.fab.takeover := rfl
@[simp] theorem setLimiter_fab_log (s : State) (k : Nat) (v : Limiter) : (s.setLimiter k v).fab.log = s.fab.log := rfl

/-! ### setContract -/

@[simp] theorem setContract_ident (s : State) (k : Nat) (v : Option Contract) : (s.setContract k v).ident = s.ident := rfl
@[simp] theorem setContract_ctl (s : State) (k : Nat) (v : Option Contract) : (s.setContract k v).ctl = s.ctl := rfl
@[simp] theorem setContract_svc (s : State) (k : Nat) (v : Option Contract) : (s.setContract k v).svc = s.svc := rfl
@[simp] theorem setContract_faults (s : State) (k : Nat) (v : Option Contract) : (s.setContract k v).faults = s.faults := rfl
@[simp] theorem setContract_time (s : State) (k : Nat) (v : Option Contract) : (s.setContract k v).time = s.time := rfl
@[simp] theorem setContract_aon (s : State) (k : Nat) (v : Option Contract) : (s.setContract k v).aon = s.aon := rfl
@[simp] theorem setContract_tele (s : State) (k : Nat) (v : Option Contract) : (s.setContract k v).tele = s.tele := rfl
@[simp] theorem setContract_links (s : State) (k : Nat) (v : Option Contract) : (s.setContract k v).links = s.links := rfl
@[simp] theorem setContract_sw (s : State) (k : Nat) (v : Option Contract) : (s.setContract k v).sw = s.sw := rfl
@[simp] theorem setContract_fab (s : State) (k : Nat) (v : Option Contract) : (s.setContract k v).fab = s.fab := rfl
@[simp] theorem setContract_sync (s : State) (k : Nat) (v : Option Contract) : (s.setContract k v).sync = s.sync := rfl
@[simp] theorem setContract_press (s : State) (k : Nat) (v : Option Contract) : (s.setContract k v).press = s.press := rfl
@[simp] theorem setContract_cel (s : State) (k : Nat) (v : Option Contract) : (s.setContract k v).cel = s.cel := rfl
@[simp] theorem setContract_adm (s : State) (k : Nat) (v : Option Contract) : (s.setContract k v).adm = s.adm := rfl
@[simp] theorem setContract_pwr (s : State) (k : Nat) (v : Option Contract) : (s.setContract k v).pwr = s.pwr := rfl
@[simp] theorem setContract_fw (s : State) (k : Nat) (v : Option Contract) : (s.setContract k v).fw = s.fw := rfl
@[simp] theorem setContract_smbIndex (s : State) (k : Nat) (v : Option Contract) : (s.setContract k v).smbIndex = s.smbIndex := rfl
@[simp] theorem setContract_out (s : State) (k : Nat) (v : Option Contract) : (s.setContract k v).out = s.out := rfl
@[simp] theorem setContract_free (s : State) (k : Nat) (v : Option Contract) : (s.setContract k v).free = s.free := rfl
@[simp] theorem setContract_pending (s : State) (k : Nat) (v : Option Contract) : (s.setContract k v).pending = s.pending := rfl
@[simp] theorem contract_setContract_self (s : State) (k : Nat) (v : Option Contract) : (s.setContract k v).contract k = v := look_put_self _ _ _ _
theorem contract_setContract_of_ne (s : State) {k j : Nat} (v : Option Contract) (h : j ≠ k) : (s.setContract k v).contract j = s.contract j :=
  look_put_of_ne _ _ _ h
@[simp] theorem setContract_vats_vats (s : State) (k : Nat) (v : Option Contract)
    : (s.setContract k v).vats.vats = s.vats.vats := rfl
@[simp] theorem setContract_vats_corrected (s : State) (k : Nat) (v : Option Contract)
    : (s.setContract k v).vats.corrected = s.vats.corrected := rfl
@[simp] theorem setContract_vats_order (s : State) (k : Nat) (v : Option Contract)
    : (s.setContract k v).vats.order = s.vats.order := rfl

/-! ### setVat -/

@[simp] theorem setVat_ident (s : State) (k : Nat) (v : Vat) : (s.setVat k v).ident = s.ident := rfl
@[simp] theorem setVat_ctl (s : State) (k : Nat) (v : Vat) : (s.setVat k v).ctl = s.ctl := rfl
@[simp] theorem setVat_svc (s : State) (k : Nat) (v : Vat) : (s.setVat k v).svc = s.svc := rfl
@[simp] theorem setVat_faults (s : State) (k : Nat) (v : Vat) : (s.setVat k v).faults = s.faults := rfl
@[simp] theorem setVat_time (s : State) (k : Nat) (v : Vat) : (s.setVat k v).time = s.time := rfl
@[simp] theorem setVat_aon (s : State) (k : Nat) (v : Vat) : (s.setVat k v).aon = s.aon := rfl
@[simp] theorem setVat_tele (s : State) (k : Nat) (v : Vat) : (s.setVat k v).tele = s.tele := rfl
@[simp] theorem setVat_links (s : State) (k : Nat) (v : Vat) : (s.setVat k v).links = s.links := rfl
@[simp] theorem setVat_sw (s : State) (k : Nat) (v : Vat) : (s.setVat k v).sw = s.sw := rfl
@[simp] theorem setVat_fab (s : State) (k : Nat) (v : Vat) : (s.setVat k v).fab = s.fab := rfl
@[simp] theorem setVat_sync (s : State) (k : Nat) (v : Vat) : (s.setVat k v).sync = s.sync := rfl
@[simp] theorem setVat_press (s : State) (k : Nat) (v : Vat) : (s.setVat k v).press = s.press := rfl
@[simp] theorem setVat_cel (s : State) (k : Nat) (v : Vat) : (s.setVat k v).cel = s.cel := rfl
@[simp] theorem setVat_adm (s : State) (k : Nat) (v : Vat) : (s.setVat k v).adm = s.adm := rfl
@[simp] theorem setVat_pwr (s : State) (k : Nat) (v : Vat) : (s.setVat k v).pwr = s.pwr := rfl
@[simp] theorem setVat_fw (s : State) (k : Nat) (v : Vat) : (s.setVat k v).fw = s.fw := rfl
@[simp] theorem setVat_smbIndex (s : State) (k : Nat) (v : Vat) : (s.setVat k v).smbIndex = s.smbIndex := rfl
@[simp] theorem setVat_out (s : State) (k : Nat) (v : Vat) : (s.setVat k v).out = s.out := rfl
@[simp] theorem setVat_free (s : State) (k : Nat) (v : Vat) : (s.setVat k v).free = s.free := rfl
@[simp] theorem setVat_pending (s : State) (k : Nat) (v : Vat) : (s.setVat k v).pending = s.pending := rfl
@[simp] theorem vat_setVat_self (s : State) (k : Nat) (v : Vat) : (s.setVat k v).vat k = v := look_put_self _ _ _ _
theorem vat_setVat_of_ne (s : State) {k j : Nat} (v : Vat) (h : j ≠ k) : (s.setVat k v).vat j = s.vat j :=
  look_put_of_ne _ _ _ h
@[simp] theorem setVat_vats_contracts (s : State) (k : Nat) (v : Vat) : (s.setVat k v).vats.contracts = s.vats.contracts := rfl
@[simp] theorem setVat_vats_corrected (s : State) (k : Nat) (v : Vat) : (s.setVat k v).vats.corrected = s.vats.corrected := rfl
@[simp] theorem setVat_vats_order (s : State) (k : Nat) (v : Vat) : (s.setVat k v).vats.order = s.vats.order := rfl

/-! ### setCounter -/

@[simp] theorem setCounter_ident (s : State) (k : Nat) (v : Counter) : (s.setCounter k v).ident = s.ident := rfl
@[simp] theorem setCounter_ctl (s : State) (k : Nat) (v : Counter) : (s.setCounter k v).ctl = s.ctl := rfl
@[simp] theorem setCounter_svc (s : State) (k : Nat) (v : Counter) : (s.setCounter k v).svc = s.svc := rfl
@[simp] theorem setCounter_faults (s : State) (k : Nat) (v : Counter) : (s.setCounter k v).faults = s.faults := rfl
@[simp] theorem setCounter_time (s : State) (k : Nat) (v : Counter) : (s.setCounter k v).time = s.time := rfl
@[simp] theorem setCounter_aon (s : State) (k : Nat) (v : Counter) : (s.setCounter k v).aon = s.aon := rfl
@[simp] theorem setCounter_tele (s : State) (k : Nat) (v : Counter) : (s.setCounter k v).tele = s.tele := rfl
@[simp] theorem setCounter_links (s : State) (k : Nat) (v : Counter) : (s.setCounter k v).links = s.links := rfl
@[simp] theorem setCounter_sw (s : State) (k : Nat) (v : Counter) : (s.setCounter k v).sw = s.sw := rfl
@[simp] theorem setCounter_fab (s : State) (k : Nat) (v : Counter) : (s.setCounter k v).fab = s.fab := rfl
@[simp] theorem setCounter_vats (s : State) (k : Nat) (v : Counter) : (s.setCounter k v).vats = s.vats := rfl
@[simp] theorem setCounter_press (s : State) (k : Nat) (v : Counter) : (s.setCounter k v).press = s.press := rfl
@[simp] theorem setCounter_cel (s : State) (k : Nat) (v : Counter) : (s.setCounter k v).cel = s.cel := rfl
@[simp] theorem setCounter_adm (s : State) (k : Nat) (v : Counter) : (s.setCounter k v).adm = s.adm := rfl
@[simp] theorem setCounter_pwr (s : State) (k : Nat) (v : Counter) : (s.setCounter k v).pwr = s.pwr := rfl
@[simp] theorem setCounter_fw (s : State) (k : Nat) (v : Counter) : (s.setCounter k v).fw = s.fw := rfl
@[simp] theorem setCounter_smbIndex (s : State) (k : Nat) (v : Counter) : (s.setCounter k v).smbIndex = s.smbIndex := rfl
@[simp] theorem setCounter_out (s : State) (k : Nat) (v : Counter) : (s.setCounter k v).out = s.out := rfl
@[simp] theorem setCounter_free (s : State) (k : Nat) (v : Counter) : (s.setCounter k v).free = s.free := rfl
@[simp] theorem setCounter_pending (s : State) (k : Nat) (v : Counter) : (s.setCounter k v).pending = s.pending := rfl
@[simp] theorem counter_setCounter_self (s : State) (k : Nat) (v : Counter) : (s.setCounter k v).counter k = v := look_put_self _ _ _ _
theorem counter_setCounter_of_ne (s : State) {k j : Nat} (v : Counter) (h : j ≠ k) : (s.setCounter k v).counter j = s.counter j :=
  look_put_of_ne _ _ _ h

/-! ### setPr -/

@[simp] theorem setPr_ident (s : State) (k : Nat) (v : Press) : (s.setPr k v).ident = s.ident := rfl
@[simp] theorem setPr_ctl (s : State) (k : Nat) (v : Press) : (s.setPr k v).ctl = s.ctl := rfl
@[simp] theorem setPr_svc (s : State) (k : Nat) (v : Press) : (s.setPr k v).svc = s.svc := rfl
@[simp] theorem setPr_faults (s : State) (k : Nat) (v : Press) : (s.setPr k v).faults = s.faults := rfl
@[simp] theorem setPr_time (s : State) (k : Nat) (v : Press) : (s.setPr k v).time = s.time := rfl
@[simp] theorem setPr_aon (s : State) (k : Nat) (v : Press) : (s.setPr k v).aon = s.aon := rfl
@[simp] theorem setPr_tele (s : State) (k : Nat) (v : Press) : (s.setPr k v).tele = s.tele := rfl
@[simp] theorem setPr_links (s : State) (k : Nat) (v : Press) : (s.setPr k v).links = s.links := rfl
@[simp] theorem setPr_sw (s : State) (k : Nat) (v : Press) : (s.setPr k v).sw = s.sw := rfl
@[simp] theorem setPr_fab (s : State) (k : Nat) (v : Press) : (s.setPr k v).fab = s.fab := rfl
@[simp] theorem setPr_vats (s : State) (k : Nat) (v : Press) : (s.setPr k v).vats = s.vats := rfl
@[simp] theorem setPr_sync (s : State) (k : Nat) (v : Press) : (s.setPr k v).sync = s.sync := rfl
@[simp] theorem setPr_cel (s : State) (k : Nat) (v : Press) : (s.setPr k v).cel = s.cel := rfl
@[simp] theorem setPr_adm (s : State) (k : Nat) (v : Press) : (s.setPr k v).adm = s.adm := rfl
@[simp] theorem setPr_pwr (s : State) (k : Nat) (v : Press) : (s.setPr k v).pwr = s.pwr := rfl
@[simp] theorem setPr_fw (s : State) (k : Nat) (v : Press) : (s.setPr k v).fw = s.fw := rfl
@[simp] theorem setPr_smbIndex (s : State) (k : Nat) (v : Press) : (s.setPr k v).smbIndex = s.smbIndex := rfl
@[simp] theorem setPr_out (s : State) (k : Nat) (v : Press) : (s.setPr k v).out = s.out := rfl
@[simp] theorem setPr_free (s : State) (k : Nat) (v : Press) : (s.setPr k v).free = s.free := rfl
@[simp] theorem setPr_pending (s : State) (k : Nat) (v : Press) : (s.setPr k v).pending = s.pending := rfl
@[simp] theorem pr_setPr_self (s : State) (k : Nat) (v : Press) : (s.setPr k v).pr k = v := look_put_self _ _ _ _
theorem pr_setPr_of_ne (s : State) {k j : Nat} (v : Press) (h : j ≠ k) : (s.setPr k v).pr j = s.pr j :=
  look_put_of_ne _ _ _ h
@[simp] theorem setPr_press_pad (s : State) (k : Nat) (v : Press) : (s.setPr k v).press.pad = s.press.pad := rfl
@[simp] theorem setPr_press_imem (s : State) (k : Nat) (v : Press) : (s.setPr k v).press.imem = s.press.imem := rfl
@[simp] theorem setPr_press_dmem (s : State) (k : Nat) (v : Press) : (s.setPr k v).press.dmem = s.press.dmem := rfl
@[simp] theorem setPr_press_padErr (s : State) (k : Nat) (v : Press) : (s.setPr k v).press.padErr = s.press.padErr := rfl
@[simp] theorem setPr_press_imemErr (s : State) (k : Nat) (v : Press) : (s.setPr k v).press.imemErr = s.press.imemErr := rfl
@[simp] theorem setPr_press_dmemErr (s : State) (k : Nat) (v : Press) : (s.setPr k v).press.dmemErr = s.press.dmemErr := rfl
@[simp] theorem setPr_press_gs (s : State) (k : Nat) (v : Press) : (s.setPr k v).press.gs = s.press.gs := rfl
@[simp] theorem setPr_press_gsWait (s : State) (k : Nat) (v : Press) : (s.setPr k v).press.gsWait = s.press.gsWait := rfl

/-! ### setStave -/

@[simp] theorem setStave_ident (s : State) (k : Nat) (v : Stave) : (s.setStave k v).ident = s.ident := rfl
@[simp] theorem setStave_ctl (s : State) (k : Nat) (v : Stave) : (s.setStave k v).ctl = s.ctl := rfl
@[simp] theorem setStave_svc (s : State) (k : Nat) (v : Stave) : (s.setStave k v).svc = s.svc := rfl
@[simp] theorem setStave_faults (s : State) (k : Nat) (v : Stave) : (s.setStave k v).faults = s.faults := rfl
@[simp] theorem setStave_time (s : State) (k : Nat) (v : Stave) : (s.setStave k v).time = s.time := rfl
@[simp] theorem setStave_aon (s : State) (k : Nat) (v : Stave) : (s.setStave k v).aon = s.aon := rfl
@[simp] theorem setStave_tele (s : State) (k : Nat) (v : Stave) : (s.setStave k v).tele = s.tele := rfl
@[simp] theorem setStave_links (s : State) (k : Nat) (v : Stave) : (s.setStave k v).links = s.links := rfl
@[simp] theorem setStave_sw (s : State) (k : Nat) (v : Stave) : (s.setStave k v).sw = s.sw := rfl
@[simp] theorem setStave_fab (s : State) (k : Nat) (v : Stave) : (s.setStave k v).fab = s.fab := rfl
@[simp] theorem setStave_vats (s : State) (k : Nat) (v : Stave) : (s.setStave k v).vats = s.vats := rfl
@[simp] theorem setStave_sync (s : State) (k : Nat) (v : Stave) : (s.setStave k v).sync = s.sync := rfl
@[simp] theorem setStave_press (s : State) (k : Nat) (v : Stave) : (s.setStave k v).press = s.press := rfl
@[simp] theorem setStave_adm (s : State) (k : Nat) (v : Stave) : (s.setStave k v).adm = s.adm := rfl
@[simp] theorem setStave_pwr (s : State) (k : Nat) (v : Stave) : (s.setStave k v).pwr = s.pwr := rfl
@[simp] theorem setStave_fw (s : State) (k : Nat) (v : Stave) : (s.setStave k v).fw = s.fw := rfl
@[simp] theorem setStave_smbIndex (s : State) (k : Nat) (v : Stave) : (s.setStave k v).smbIndex = s.smbIndex := rfl
@[simp] theorem setStave_out (s : State) (k : Nat) (v : Stave) : (s.setStave k v).out = s.out := rfl
@[simp] theorem setStave_free (s : State) (k : Nat) (v : Stave) : (s.setStave k v).free = s.free := rfl
@[simp] theorem setStave_pending (s : State) (k : Nat) (v : Stave) : (s.setStave k v).pending = s.pending := rfl
@[simp] theorem stave_setStave_self (s : State) (k : Nat) (v : Stave) : (s.setStave k v).stave k = v := look_put_self _ _ _ _
theorem stave_setStave_of_ne (s : State) {k j : Nat} (v : Stave) (h : j ≠ k) : (s.setStave k v).stave j = s.stave j :=
  look_put_of_ne _ _ _ h
@[simp] theorem setStave_cel_mem (s : State) (k : Nat) (v : Stave) : (s.setStave k v).cel.mem = s.cel.mem := rfl
@[simp] theorem setStave_cel_stale (s : State) (k : Nat) (v : Stave) : (s.setStave k v).cel.stale = s.cel.stale := rfl
@[simp] theorem setStave_cel_known (s : State) (k : Nat) (v : Stave) : (s.setStave k v).cel.known = s.cel.known := rfl
@[simp] theorem setStave_cel_poison (s : State) (k : Nat) (v : Stave) : (s.setStave k v).cel.poison = s.cel.poison := rfl
@[simp] theorem setStave_cel_err (s : State) (k : Nat) (v : Stave) : (s.setStave k v).cel.err = s.cel.err := rfl
@[simp] theorem setStave_cel_plan (s : State) (k : Nat) (v : Stave) : (s.setStave k v).cel.plan = s.cel.plan := rfl
@[simp] theorem setStave_cel_windows (s : State) (k : Nat) (v : Stave) : (s.setStave k v).cel.windows = s.cel.windows := rfl
@[simp] theorem setStave_cel_accesses (s : State) (k : Nat) (v : Stave) : (s.setStave k v).cel.accesses = s.cel.accesses := rfl
@[simp] theorem setStave_cel_nextAcc (s : State) (k : Nat) (v : Stave) : (s.setStave k v).cel.nextAcc = s.cel.nextAcc := rfl
@[simp] theorem setStave_cel_fences (s : State) (k : Nat) (v : Stave) : (s.setStave k v).cel.fences = s.cel.fences := rfl
@[simp] theorem setStave_cel_changing (s : State) (k : Nat) (v : Stave) : (s.setStave k v).cel.changing = s.cel.changing := rfl
@[simp] theorem setStave_cel_retained (s : State) (k : Nat) (v : Stave) : (s.setStave k v).cel.retained = s.cel.retained := rfl
@[simp] theorem setStave_cel_decanted (s : State) (k : Nat) (v : Stave) : (s.setStave k v).cel.decanted = s.cel.decanted := rfl
@[simp] theorem setStave_cel_skipped (s : State) (k : Nat) (v : Stave) : (s.setStave k v).cel.skipped = s.cel.skipped := rfl
@[simp] theorem setStave_cel_ready (s : State) (k : Nat) (v : Stave) : (s.setStave k v).cel.ready = s.cel.ready := rfl
@[simp] theorem setStave_cel_saves (s : State) (k : Nat) (v : Stave) : (s.setStave k v).cel.saves = s.cel.saves := rfl
@[simp] theorem setStave_cel_nextSys (s : State) (k : Nat) (v : Stave) : (s.setStave k v).cel.nextSys = s.cel.nextSys := rfl
@[simp] theorem setStave_cel_scrubFrom (s : State) (k : Nat) (v : Stave) : (s.setStave k v).cel.scrubFrom = s.cel.scrubFrom := rfl

/-! ### setWindow -/

@[simp] theorem setWindow_ident (s : State) (k : Nat) (v : Window) : (s.setWindow k v).ident = s.ident := rfl
@[simp] theorem setWindow_ctl (s : State) (k : Nat) (v : Window) : (s.setWindow k v).ctl = s.ctl := rfl
@[simp] theorem setWindow_svc (s : State) (k : Nat) (v : Window) : (s.setWindow k v).svc = s.svc := rfl
@[simp] theorem setWindow_faults (s : State) (k : Nat) (v : Window) : (s.setWindow k v).faults = s.faults := rfl
@[simp] theorem setWindow_time (s : State) (k : Nat) (v : Window) : (s.setWindow k v).time = s.time := rfl
@[simp] theorem setWindow_aon (s : State) (k : Nat) (v : Window) : (s.setWindow k v).aon = s.aon := rfl
@[simp] theorem setWindow_tele (s : State) (k : Nat) (v : Window) : (s.setWindow k v).tele = s.tele := rfl
@[simp] theorem setWindow_links (s : State) (k : Nat) (v : Window) : (s.setWindow k v).links = s.links := rfl
@[simp] theorem setWindow_sw (s : State) (k : Nat) (v : Window) : (s.setWindow k v).sw = s.sw := rfl
@[simp] theorem setWindow_fab (s : State) (k : Nat) (v : Window) : (s.setWindow k v).fab = s.fab := rfl
@[simp] theorem setWindow_vats (s : State) (k : Nat) (v : Window) : (s.setWindow k v).vats = s.vats := rfl
@[simp] theorem setWindow_sync (s : State) (k : Nat) (v : Window) : (s.setWindow k v).sync = s.sync := rfl
@[simp] theorem setWindow_press (s : State) (k : Nat) (v : Window) : (s.setWindow k v).press = s.press := rfl
@[simp] theorem setWindow_adm (s : State) (k : Nat) (v : Window) : (s.setWindow k v).adm = s.adm := rfl
@[simp] theorem setWindow_pwr (s : State) (k : Nat) (v : Window) : (s.setWindow k v).pwr = s.pwr := rfl
@[simp] theorem setWindow_fw (s : State) (k : Nat) (v : Window) : (s.setWindow k v).fw = s.fw := rfl
@[simp] theorem setWindow_smbIndex (s : State) (k : Nat) (v : Window) : (s.setWindow k v).smbIndex = s.smbIndex := rfl
@[simp] theorem setWindow_out (s : State) (k : Nat) (v : Window) : (s.setWindow k v).out = s.out := rfl
@[simp] theorem setWindow_free (s : State) (k : Nat) (v : Window) : (s.setWindow k v).free = s.free := rfl
@[simp] theorem setWindow_pending (s : State) (k : Nat) (v : Window) : (s.setWindow k v).pending = s.pending := rfl
@[simp] theorem window_setWindow_self (s : State) (k : Nat) (v : Window) : (s.setWindow k v).window k = v := look_put_self _ _ _ _
theorem window_setWindow_of_ne (s : State) {k j : Nat} (v : Window) (h : j ≠ k) : (s.setWindow k v).window j = s.window j :=
  look_put_of_ne _ _ _ h
@[simp] theorem setWindow_cel_mem (s : State) (k : Nat) (v : Window) : (s.setWindow k v).cel.mem = s.cel.mem := rfl
@[simp] theorem setWindow_cel_stale (s : State) (k : Nat) (v : Window) : (s.setWindow k v).cel.stale = s.cel.stale := rfl
@[simp] theorem setWindow_cel_known (s : State) (k : Nat) (v : Window) : (s.setWindow k v).cel.known = s.cel.known := rfl
@[simp] theorem setWindow_cel_poison (s : State) (k : Nat) (v : Window) : (s.setWindow k v).cel.poison = s.cel.poison := rfl
@[simp] theorem setWindow_cel_err (s : State) (k : Nat) (v : Window) : (s.setWindow k v).cel.err = s.cel.err := rfl
@[simp] theorem setWindow_cel_plan (s : State) (k : Nat) (v : Window) : (s.setWindow k v).cel.plan = s.cel.plan := rfl
@[simp] theorem setWindow_cel_accesses (s : State) (k : Nat) (v : Window) : (s.setWindow k v).cel.accesses = s.cel.accesses := rfl
@[simp] theorem setWindow_cel_nextAcc (s : State) (k : Nat) (v : Window) : (s.setWindow k v).cel.nextAcc = s.cel.nextAcc := rfl
@[simp] theorem setWindow_cel_fences (s : State) (k : Nat) (v : Window) : (s.setWindow k v).cel.fences = s.cel.fences := rfl
@[simp] theorem setWindow_cel_staves (s : State) (k : Nat) (v : Window) : (s.setWindow k v).cel.staves = s.cel.staves := rfl
@[simp] theorem setWindow_cel_changing (s : State) (k : Nat) (v : Window) : (s.setWindow k v).cel.changing = s.cel.changing := rfl
@[simp] theorem setWindow_cel_retained (s : State) (k : Nat) (v : Window) : (s.setWindow k v).cel.retained = s.cel.retained := rfl
@[simp] theorem setWindow_cel_decanted (s : State) (k : Nat) (v : Window) : (s.setWindow k v).cel.decanted = s.cel.decanted := rfl
@[simp] theorem setWindow_cel_skipped (s : State) (k : Nat) (v : Window) : (s.setWindow k v).cel.skipped = s.cel.skipped := rfl
@[simp] theorem setWindow_cel_ready (s : State) (k : Nat) (v : Window) : (s.setWindow k v).cel.ready = s.cel.ready := rfl
@[simp] theorem setWindow_cel_saves (s : State) (k : Nat) (v : Window) : (s.setWindow k v).cel.saves = s.cel.saves := rfl
@[simp] theorem setWindow_cel_nextSys (s : State) (k : Nat) (v : Window) : (s.setWindow k v).cel.nextSys = s.cel.nextSys := rfl
@[simp] theorem setWindow_cel_scrubFrom (s : State) (k : Nat) (v : Window) : (s.setWindow k v).cel.scrubFrom = s.cel.scrubFrom := rfl

/-! ### setDomain -/

@[simp] theorem setDomain_ident (s : State) (k : Nat) (v : Domain) : (s.setDomain k v).ident = s.ident := rfl
@[simp] theorem setDomain_ctl (s : State) (k : Nat) (v : Domain) : (s.setDomain k v).ctl = s.ctl := rfl
@[simp] theorem setDomain_svc (s : State) (k : Nat) (v : Domain) : (s.setDomain k v).svc = s.svc := rfl
@[simp] theorem setDomain_faults (s : State) (k : Nat) (v : Domain) : (s.setDomain k v).faults = s.faults := rfl
@[simp] theorem setDomain_time (s : State) (k : Nat) (v : Domain) : (s.setDomain k v).time = s.time := rfl
@[simp] theorem setDomain_aon (s : State) (k : Nat) (v : Domain) : (s.setDomain k v).aon = s.aon := rfl
@[simp] theorem setDomain_tele (s : State) (k : Nat) (v : Domain) : (s.setDomain k v).tele = s.tele := rfl
@[simp] theorem setDomain_links (s : State) (k : Nat) (v : Domain) : (s.setDomain k v).links = s.links := rfl
@[simp] theorem setDomain_sw (s : State) (k : Nat) (v : Domain) : (s.setDomain k v).sw = s.sw := rfl
@[simp] theorem setDomain_fab (s : State) (k : Nat) (v : Domain) : (s.setDomain k v).fab = s.fab := rfl
@[simp] theorem setDomain_vats (s : State) (k : Nat) (v : Domain) : (s.setDomain k v).vats = s.vats := rfl
@[simp] theorem setDomain_sync (s : State) (k : Nat) (v : Domain) : (s.setDomain k v).sync = s.sync := rfl
@[simp] theorem setDomain_press (s : State) (k : Nat) (v : Domain) : (s.setDomain k v).press = s.press := rfl
@[simp] theorem setDomain_cel (s : State) (k : Nat) (v : Domain) : (s.setDomain k v).cel = s.cel := rfl
@[simp] theorem setDomain_adm (s : State) (k : Nat) (v : Domain) : (s.setDomain k v).adm = s.adm := rfl
@[simp] theorem setDomain_fw (s : State) (k : Nat) (v : Domain) : (s.setDomain k v).fw = s.fw := rfl
@[simp] theorem setDomain_smbIndex (s : State) (k : Nat) (v : Domain) : (s.setDomain k v).smbIndex = s.smbIndex := rfl
@[simp] theorem setDomain_out (s : State) (k : Nat) (v : Domain) : (s.setDomain k v).out = s.out := rfl
@[simp] theorem setDomain_free (s : State) (k : Nat) (v : Domain) : (s.setDomain k v).free = s.free := rfl
@[simp] theorem setDomain_pending (s : State) (k : Nat) (v : Domain) : (s.setDomain k v).pending = s.pending := rfl
@[simp] theorem domain_setDomain_self (s : State) (k : Nat) (v : Domain) : (s.setDomain k v).domain k = v := look_put_self _ _ _ _
theorem domain_setDomain_of_ne (s : State) {k j : Nat} (v : Domain) (h : j ≠ k) : (s.setDomain k v).domain j = s.domain j :=
  look_put_of_ne _ _ _ h
@[simp] theorem setDomain_pwr_rails (s : State) (k : Nat) (v : Domain) : (s.setDomain k v).pwr.rails = s.pwr.rails := rfl
@[simp] theorem setDomain_pwr_cap (s : State) (k : Nat) (v : Domain) : (s.setDomain k v).pwr.cap = s.pwr.cap := rfl
@[simp] theorem setDomain_pwr_capGid (s : State) (k : Nat) (v : Domain) : (s.setDomain k v).pwr.capGid = s.pwr.capGid := rfl
@[simp] theorem setDomain_pwr_samples (s : State) (k : Nat) (v : Domain) : (s.setDomain k v).pwr.samples = s.pwr.samples := rfl
@[simp] theorem setDomain_pwr_avg (s : State) (k : Nat) (v : Domain) : (s.setDomain k v).pwr.avg = s.pwr.avg := rfl
@[simp] theorem setDomain_pwr_capPace (s : State) (k : Nat) (v : Domain) : (s.setDomain k v).pwr.capPace = s.pwr.capPace := rfl
@[simp] theorem setDomain_pwr_vintage (s : State) (k : Nat) (v : Domain) : (s.setDomain k v).pwr.vintage = s.pwr.vintage := rfl
@[simp] theorem setDomain_pwr_planned (s : State) (k : Nat) (v : Domain) : (s.setDomain k v).pwr.planned = s.pwr.planned := rfl
@[simp] theorem setDomain_pwr_cause (s : State) (k : Nat) (v : Domain) : (s.setDomain k v).pwr.cause = s.pwr.cause := rfl
@[simp] theorem setDomain_pwr_celFj (s : State) (k : Nat) (v : Domain) : (s.setDomain k v).pwr.celFj = s.pwr.celFj := rfl
@[simp] theorem setDomain_pwr_plan (s : State) (k : Nat) (v : Domain) : (s.setDomain k v).pwr.plan = s.pwr.plan := rfl
@[simp] theorem setDomain_pwr_planDue (s : State) (k : Nat) (v : Domain) : (s.setDomain k v).pwr.planDue = s.pwr.planDue := rfl
@[simp] theorem setDomain_pwr_profileOff (s : State) (k : Nat) (v : Domain)
    : (s.setDomain k v).pwr.profileOff = s.pwr.profileOff := rfl

/-! ### setRail -/

@[simp] theorem setRail_ident (s : State) (k : Nat) (v : Rail) : (s.setRail k v).ident = s.ident := rfl
@[simp] theorem setRail_ctl (s : State) (k : Nat) (v : Rail) : (s.setRail k v).ctl = s.ctl := rfl
@[simp] theorem setRail_svc (s : State) (k : Nat) (v : Rail) : (s.setRail k v).svc = s.svc := rfl
@[simp] theorem setRail_faults (s : State) (k : Nat) (v : Rail) : (s.setRail k v).faults = s.faults := rfl
@[simp] theorem setRail_time (s : State) (k : Nat) (v : Rail) : (s.setRail k v).time = s.time := rfl
@[simp] theorem setRail_aon (s : State) (k : Nat) (v : Rail) : (s.setRail k v).aon = s.aon := rfl
@[simp] theorem setRail_tele (s : State) (k : Nat) (v : Rail) : (s.setRail k v).tele = s.tele := rfl
@[simp] theorem setRail_links (s : State) (k : Nat) (v : Rail) : (s.setRail k v).links = s.links := rfl
@[simp] theorem setRail_sw (s : State) (k : Nat) (v : Rail) : (s.setRail k v).sw = s.sw := rfl
@[simp] theorem setRail_fab (s : State) (k : Nat) (v : Rail) : (s.setRail k v).fab = s.fab := rfl
@[simp] theorem setRail_vats (s : State) (k : Nat) (v : Rail) : (s.setRail k v).vats = s.vats := rfl
@[simp] theorem setRail_sync (s : State) (k : Nat) (v : Rail) : (s.setRail k v).sync = s.sync := rfl
@[simp] theorem setRail_press (s : State) (k : Nat) (v : Rail) : (s.setRail k v).press = s.press := rfl
@[simp] theorem setRail_cel (s : State) (k : Nat) (v : Rail) : (s.setRail k v).cel = s.cel := rfl
@[simp] theorem setRail_adm (s : State) (k : Nat) (v : Rail) : (s.setRail k v).adm = s.adm := rfl
@[simp] theorem setRail_fw (s : State) (k : Nat) (v : Rail) : (s.setRail k v).fw = s.fw := rfl
@[simp] theorem setRail_smbIndex (s : State) (k : Nat) (v : Rail) : (s.setRail k v).smbIndex = s.smbIndex := rfl
@[simp] theorem setRail_out (s : State) (k : Nat) (v : Rail) : (s.setRail k v).out = s.out := rfl
@[simp] theorem setRail_free (s : State) (k : Nat) (v : Rail) : (s.setRail k v).free = s.free := rfl
@[simp] theorem setRail_pending (s : State) (k : Nat) (v : Rail) : (s.setRail k v).pending = s.pending := rfl
@[simp] theorem rail_setRail_self (s : State) (k : Nat) (v : Rail) : (s.setRail k v).rail k = v := look_put_self _ _ _ _
theorem rail_setRail_of_ne (s : State) {k j : Nat} (v : Rail) (h : j ≠ k) : (s.setRail k v).rail j = s.rail j :=
  look_put_of_ne _ _ _ h
@[simp] theorem setRail_pwr_domains (s : State) (k : Nat) (v : Rail) : (s.setRail k v).pwr.domains = s.pwr.domains := rfl
@[simp] theorem setRail_pwr_cap (s : State) (k : Nat) (v : Rail) : (s.setRail k v).pwr.cap = s.pwr.cap := rfl
@[simp] theorem setRail_pwr_capGid (s : State) (k : Nat) (v : Rail) : (s.setRail k v).pwr.capGid = s.pwr.capGid := rfl
@[simp] theorem setRail_pwr_samples (s : State) (k : Nat) (v : Rail) : (s.setRail k v).pwr.samples = s.pwr.samples := rfl
@[simp] theorem setRail_pwr_avg (s : State) (k : Nat) (v : Rail) : (s.setRail k v).pwr.avg = s.pwr.avg := rfl
@[simp] theorem setRail_pwr_capPace (s : State) (k : Nat) (v : Rail) : (s.setRail k v).pwr.capPace = s.pwr.capPace := rfl
@[simp] theorem setRail_pwr_vintage (s : State) (k : Nat) (v : Rail) : (s.setRail k v).pwr.vintage = s.pwr.vintage := rfl
@[simp] theorem setRail_pwr_planned (s : State) (k : Nat) (v : Rail) : (s.setRail k v).pwr.planned = s.pwr.planned := rfl
@[simp] theorem setRail_pwr_cause (s : State) (k : Nat) (v : Rail) : (s.setRail k v).pwr.cause = s.pwr.cause := rfl
@[simp] theorem setRail_pwr_celFj (s : State) (k : Nat) (v : Rail) : (s.setRail k v).pwr.celFj = s.pwr.celFj := rfl
@[simp] theorem setRail_pwr_plan (s : State) (k : Nat) (v : Rail) : (s.setRail k v).pwr.plan = s.pwr.plan := rfl
@[simp] theorem setRail_pwr_planDue (s : State) (k : Nat) (v : Rail) : (s.setRail k v).pwr.planDue = s.pwr.planDue := rfl
@[simp] theorem setRail_pwr_profileOff (s : State) (k : Nat) (v : Rail) : (s.setRail k v).pwr.profileOff = s.pwr.profileOff := rfl

/-! ### setAon -/

@[simp] theorem setAon_aon (s : State) (v : Aon) : (s.setAon v).aon = v := rfl
@[simp] theorem setAon_ident (s : State) (v : Aon) : (s.setAon v).ident = s.ident := rfl
@[simp] theorem setAon_ctl (s : State) (v : Aon) : (s.setAon v).ctl = s.ctl := rfl
@[simp] theorem setAon_svc (s : State) (v : Aon) : (s.setAon v).svc = s.svc := rfl
@[simp] theorem setAon_faults (s : State) (v : Aon) : (s.setAon v).faults = s.faults := rfl
@[simp] theorem setAon_time (s : State) (v : Aon) : (s.setAon v).time = s.time := rfl
@[simp] theorem setAon_tele (s : State) (v : Aon) : (s.setAon v).tele = s.tele := rfl
@[simp] theorem setAon_links (s : State) (v : Aon) : (s.setAon v).links = s.links := rfl
@[simp] theorem setAon_sw (s : State) (v : Aon) : (s.setAon v).sw = s.sw := rfl
@[simp] theorem setAon_fab (s : State) (v : Aon) : (s.setAon v).fab = s.fab := rfl
@[simp] theorem setAon_vats (s : State) (v : Aon) : (s.setAon v).vats = s.vats := rfl
@[simp] theorem setAon_sync (s : State) (v : Aon) : (s.setAon v).sync = s.sync := rfl
@[simp] theorem setAon_press (s : State) (v : Aon) : (s.setAon v).press = s.press := rfl
@[simp] theorem setAon_cel (s : State) (v : Aon) : (s.setAon v).cel = s.cel := rfl
@[simp] theorem setAon_adm (s : State) (v : Aon) : (s.setAon v).adm = s.adm := rfl
@[simp] theorem setAon_pwr (s : State) (v : Aon) : (s.setAon v).pwr = s.pwr := rfl
@[simp] theorem setAon_fw (s : State) (v : Aon) : (s.setAon v).fw = s.fw := rfl
@[simp] theorem setAon_smbIndex (s : State) (v : Aon) : (s.setAon v).smbIndex = s.smbIndex := rfl
@[simp] theorem setAon_out (s : State) (v : Aon) : (s.setAon v).out = s.out := rfl
@[simp] theorem setAon_free (s : State) (v : Aon) : (s.setAon v).free = s.free := rfl
@[simp] theorem setAon_pending (s : State) (v : Aon) : (s.setAon v).pending = s.pending := rfl

/-! ### setTime -/

@[simp] theorem setTime_time (s : State) (v : Time) : (s.setTime v).time = v := rfl
@[simp] theorem setTime_ident (s : State) (v : Time) : (s.setTime v).ident = s.ident := rfl
@[simp] theorem setTime_ctl (s : State) (v : Time) : (s.setTime v).ctl = s.ctl := rfl
@[simp] theorem setTime_svc (s : State) (v : Time) : (s.setTime v).svc = s.svc := rfl
@[simp] theorem setTime_faults (s : State) (v : Time) : (s.setTime v).faults = s.faults := rfl
@[simp] theorem setTime_aon (s : State) (v : Time) : (s.setTime v).aon = s.aon := rfl
@[simp] theorem setTime_tele (s : State) (v : Time) : (s.setTime v).tele = s.tele := rfl
@[simp] theorem setTime_links (s : State) (v : Time) : (s.setTime v).links = s.links := rfl
@[simp] theorem setTime_sw (s : State) (v : Time) : (s.setTime v).sw = s.sw := rfl
@[simp] theorem setTime_fab (s : State) (v : Time) : (s.setTime v).fab = s.fab := rfl
@[simp] theorem setTime_vats (s : State) (v : Time) : (s.setTime v).vats = s.vats := rfl
@[simp] theorem setTime_sync (s : State) (v : Time) : (s.setTime v).sync = s.sync := rfl
@[simp] theorem setTime_press (s : State) (v : Time) : (s.setTime v).press = s.press := rfl
@[simp] theorem setTime_cel (s : State) (v : Time) : (s.setTime v).cel = s.cel := rfl
@[simp] theorem setTime_adm (s : State) (v : Time) : (s.setTime v).adm = s.adm := rfl
@[simp] theorem setTime_pwr (s : State) (v : Time) : (s.setTime v).pwr = s.pwr := rfl
@[simp] theorem setTime_fw (s : State) (v : Time) : (s.setTime v).fw = s.fw := rfl
@[simp] theorem setTime_smbIndex (s : State) (v : Time) : (s.setTime v).smbIndex = s.smbIndex := rfl
@[simp] theorem setTime_out (s : State) (v : Time) : (s.setTime v).out = s.out := rfl
@[simp] theorem setTime_free (s : State) (v : Time) : (s.setTime v).free = s.free := rfl
@[simp] theorem setTime_pending (s : State) (v : Time) : (s.setTime v).pending = s.pending := rfl

/-! ### setPwr -/

@[simp] theorem setPwr_pwr (s : State) (v : Power) : (s.setPwr v).pwr = v := rfl
@[simp] theorem setPwr_ident (s : State) (v : Power) : (s.setPwr v).ident = s.ident := rfl
@[simp] theorem setPwr_ctl (s : State) (v : Power) : (s.setPwr v).ctl = s.ctl := rfl
@[simp] theorem setPwr_svc (s : State) (v : Power) : (s.setPwr v).svc = s.svc := rfl
@[simp] theorem setPwr_faults (s : State) (v : Power) : (s.setPwr v).faults = s.faults := rfl
@[simp] theorem setPwr_time (s : State) (v : Power) : (s.setPwr v).time = s.time := rfl
@[simp] theorem setPwr_aon (s : State) (v : Power) : (s.setPwr v).aon = s.aon := rfl
@[simp] theorem setPwr_tele (s : State) (v : Power) : (s.setPwr v).tele = s.tele := rfl
@[simp] theorem setPwr_links (s : State) (v : Power) : (s.setPwr v).links = s.links := rfl
@[simp] theorem setPwr_sw (s : State) (v : Power) : (s.setPwr v).sw = s.sw := rfl
@[simp] theorem setPwr_fab (s : State) (v : Power) : (s.setPwr v).fab = s.fab := rfl
@[simp] theorem setPwr_vats (s : State) (v : Power) : (s.setPwr v).vats = s.vats := rfl
@[simp] theorem setPwr_sync (s : State) (v : Power) : (s.setPwr v).sync = s.sync := rfl
@[simp] theorem setPwr_press (s : State) (v : Power) : (s.setPwr v).press = s.press := rfl
@[simp] theorem setPwr_cel (s : State) (v : Power) : (s.setPwr v).cel = s.cel := rfl
@[simp] theorem setPwr_adm (s : State) (v : Power) : (s.setPwr v).adm = s.adm := rfl
@[simp] theorem setPwr_fw (s : State) (v : Power) : (s.setPwr v).fw = s.fw := rfl
@[simp] theorem setPwr_smbIndex (s : State) (v : Power) : (s.setPwr v).smbIndex = s.smbIndex := rfl
@[simp] theorem setPwr_out (s : State) (v : Power) : (s.setPwr v).out = s.out := rfl
@[simp] theorem setPwr_free (s : State) (v : Power) : (s.setPwr v).free = s.free := rfl
@[simp] theorem setPwr_pending (s : State) (v : Power) : (s.setPwr v).pending = s.pending := rfl

/-! ### setCtl -/

@[simp] theorem setCtl_ctl (s : State) (v : Ctl) : (s.setCtl v).ctl = v := rfl
@[simp] theorem setCtl_ident (s : State) (v : Ctl) : (s.setCtl v).ident = s.ident := rfl
@[simp] theorem setCtl_svc (s : State) (v : Ctl) : (s.setCtl v).svc = s.svc := rfl
@[simp] theorem setCtl_faults (s : State) (v : Ctl) : (s.setCtl v).faults = s.faults := rfl
@[simp] theorem setCtl_time (s : State) (v : Ctl) : (s.setCtl v).time = s.time := rfl
@[simp] theorem setCtl_aon (s : State) (v : Ctl) : (s.setCtl v).aon = s.aon := rfl
@[simp] theorem setCtl_tele (s : State) (v : Ctl) : (s.setCtl v).tele = s.tele := rfl
@[simp] theorem setCtl_links (s : State) (v : Ctl) : (s.setCtl v).links = s.links := rfl
@[simp] theorem setCtl_sw (s : State) (v : Ctl) : (s.setCtl v).sw = s.sw := rfl
@[simp] theorem setCtl_fab (s : State) (v : Ctl) : (s.setCtl v).fab = s.fab := rfl
@[simp] theorem setCtl_vats (s : State) (v : Ctl) : (s.setCtl v).vats = s.vats := rfl
@[simp] theorem setCtl_sync (s : State) (v : Ctl) : (s.setCtl v).sync = s.sync := rfl
@[simp] theorem setCtl_press (s : State) (v : Ctl) : (s.setCtl v).press = s.press := rfl
@[simp] theorem setCtl_cel (s : State) (v : Ctl) : (s.setCtl v).cel = s.cel := rfl
@[simp] theorem setCtl_adm (s : State) (v : Ctl) : (s.setCtl v).adm = s.adm := rfl
@[simp] theorem setCtl_pwr (s : State) (v : Ctl) : (s.setCtl v).pwr = s.pwr := rfl
@[simp] theorem setCtl_fw (s : State) (v : Ctl) : (s.setCtl v).fw = s.fw := rfl
@[simp] theorem setCtl_smbIndex (s : State) (v : Ctl) : (s.setCtl v).smbIndex = s.smbIndex := rfl
@[simp] theorem setCtl_out (s : State) (v : Ctl) : (s.setCtl v).out = s.out := rfl
@[simp] theorem setCtl_free (s : State) (v : Ctl) : (s.setCtl v).free = s.free := rfl
@[simp] theorem setCtl_pending (s : State) (v : Ctl) : (s.setCtl v).pending = s.pending := rfl

/-! ### setFab -/

@[simp] theorem setFab_fab (s : State) (v : Fabric) : (s.setFab v).fab = v := rfl
@[simp] theorem setFab_ident (s : State) (v : Fabric) : (s.setFab v).ident = s.ident := rfl
@[simp] theorem setFab_ctl (s : State) (v : Fabric) : (s.setFab v).ctl = s.ctl := rfl
@[simp] theorem setFab_svc (s : State) (v : Fabric) : (s.setFab v).svc = s.svc := rfl
@[simp] theorem setFab_faults (s : State) (v : Fabric) : (s.setFab v).faults = s.faults := rfl
@[simp] theorem setFab_time (s : State) (v : Fabric) : (s.setFab v).time = s.time := rfl
@[simp] theorem setFab_aon (s : State) (v : Fabric) : (s.setFab v).aon = s.aon := rfl
@[simp] theorem setFab_tele (s : State) (v : Fabric) : (s.setFab v).tele = s.tele := rfl
@[simp] theorem setFab_links (s : State) (v : Fabric) : (s.setFab v).links = s.links := rfl
@[simp] theorem setFab_sw (s : State) (v : Fabric) : (s.setFab v).sw = s.sw := rfl
@[simp] theorem setFab_vats (s : State) (v : Fabric) : (s.setFab v).vats = s.vats := rfl
@[simp] theorem setFab_sync (s : State) (v : Fabric) : (s.setFab v).sync = s.sync := rfl
@[simp] theorem setFab_press (s : State) (v : Fabric) : (s.setFab v).press = s.press := rfl
@[simp] theorem setFab_cel (s : State) (v : Fabric) : (s.setFab v).cel = s.cel := rfl
@[simp] theorem setFab_adm (s : State) (v : Fabric) : (s.setFab v).adm = s.adm := rfl
@[simp] theorem setFab_pwr (s : State) (v : Fabric) : (s.setFab v).pwr = s.pwr := rfl
@[simp] theorem setFab_fw (s : State) (v : Fabric) : (s.setFab v).fw = s.fw := rfl
@[simp] theorem setFab_smbIndex (s : State) (v : Fabric) : (s.setFab v).smbIndex = s.smbIndex := rfl
@[simp] theorem setFab_out (s : State) (v : Fabric) : (s.setFab v).out = s.out := rfl
@[simp] theorem setFab_free (s : State) (v : Fabric) : (s.setFab v).free = s.free := rfl
@[simp] theorem setFab_pending (s : State) (v : Fabric) : (s.setFab v).pending = s.pending := rfl

/-! ### setSw -/

@[simp] theorem setSw_sw (s : State) (v : Switch) : (s.setSw v).sw = v := rfl
@[simp] theorem setSw_ident (s : State) (v : Switch) : (s.setSw v).ident = s.ident := rfl
@[simp] theorem setSw_ctl (s : State) (v : Switch) : (s.setSw v).ctl = s.ctl := rfl
@[simp] theorem setSw_svc (s : State) (v : Switch) : (s.setSw v).svc = s.svc := rfl
@[simp] theorem setSw_faults (s : State) (v : Switch) : (s.setSw v).faults = s.faults := rfl
@[simp] theorem setSw_time (s : State) (v : Switch) : (s.setSw v).time = s.time := rfl
@[simp] theorem setSw_aon (s : State) (v : Switch) : (s.setSw v).aon = s.aon := rfl
@[simp] theorem setSw_tele (s : State) (v : Switch) : (s.setSw v).tele = s.tele := rfl
@[simp] theorem setSw_links (s : State) (v : Switch) : (s.setSw v).links = s.links := rfl
@[simp] theorem setSw_fab (s : State) (v : Switch) : (s.setSw v).fab = s.fab := rfl
@[simp] theorem setSw_vats (s : State) (v : Switch) : (s.setSw v).vats = s.vats := rfl
@[simp] theorem setSw_sync (s : State) (v : Switch) : (s.setSw v).sync = s.sync := rfl
@[simp] theorem setSw_press (s : State) (v : Switch) : (s.setSw v).press = s.press := rfl
@[simp] theorem setSw_cel (s : State) (v : Switch) : (s.setSw v).cel = s.cel := rfl
@[simp] theorem setSw_adm (s : State) (v : Switch) : (s.setSw v).adm = s.adm := rfl
@[simp] theorem setSw_pwr (s : State) (v : Switch) : (s.setSw v).pwr = s.pwr := rfl
@[simp] theorem setSw_fw (s : State) (v : Switch) : (s.setSw v).fw = s.fw := rfl
@[simp] theorem setSw_smbIndex (s : State) (v : Switch) : (s.setSw v).smbIndex = s.smbIndex := rfl
@[simp] theorem setSw_out (s : State) (v : Switch) : (s.setSw v).out = s.out := rfl
@[simp] theorem setSw_free (s : State) (v : Switch) : (s.setSw v).free = s.free := rfl
@[simp] theorem setSw_pending (s : State) (v : Switch) : (s.setSw v).pending = s.pending := rfl

/-! ### setCel -/

@[simp] theorem setCel_cel (s : State) (v : Cellar) : (s.setCel v).cel = v := rfl
@[simp] theorem setCel_ident (s : State) (v : Cellar) : (s.setCel v).ident = s.ident := rfl
@[simp] theorem setCel_ctl (s : State) (v : Cellar) : (s.setCel v).ctl = s.ctl := rfl
@[simp] theorem setCel_svc (s : State) (v : Cellar) : (s.setCel v).svc = s.svc := rfl
@[simp] theorem setCel_faults (s : State) (v : Cellar) : (s.setCel v).faults = s.faults := rfl
@[simp] theorem setCel_time (s : State) (v : Cellar) : (s.setCel v).time = s.time := rfl
@[simp] theorem setCel_aon (s : State) (v : Cellar) : (s.setCel v).aon = s.aon := rfl
@[simp] theorem setCel_tele (s : State) (v : Cellar) : (s.setCel v).tele = s.tele := rfl
@[simp] theorem setCel_links (s : State) (v : Cellar) : (s.setCel v).links = s.links := rfl
@[simp] theorem setCel_sw (s : State) (v : Cellar) : (s.setCel v).sw = s.sw := rfl
@[simp] theorem setCel_fab (s : State) (v : Cellar) : (s.setCel v).fab = s.fab := rfl
@[simp] theorem setCel_vats (s : State) (v : Cellar) : (s.setCel v).vats = s.vats := rfl
@[simp] theorem setCel_sync (s : State) (v : Cellar) : (s.setCel v).sync = s.sync := rfl
@[simp] theorem setCel_press (s : State) (v : Cellar) : (s.setCel v).press = s.press := rfl
@[simp] theorem setCel_adm (s : State) (v : Cellar) : (s.setCel v).adm = s.adm := rfl
@[simp] theorem setCel_pwr (s : State) (v : Cellar) : (s.setCel v).pwr = s.pwr := rfl
@[simp] theorem setCel_fw (s : State) (v : Cellar) : (s.setCel v).fw = s.fw := rfl
@[simp] theorem setCel_smbIndex (s : State) (v : Cellar) : (s.setCel v).smbIndex = s.smbIndex := rfl
@[simp] theorem setCel_out (s : State) (v : Cellar) : (s.setCel v).out = s.out := rfl
@[simp] theorem setCel_free (s : State) (v : Cellar) : (s.setCel v).free = s.free := rfl
@[simp] theorem setCel_pending (s : State) (v : Cellar) : (s.setCel v).pending = s.pending := rfl

/-! ### emit -/

@[simp] theorem emit_out (s : State) (o : Out) : (s.emit o).out = o :: s.out := rfl
@[simp] theorem emit_ident (s : State) (o : Out) : (s.emit o).ident = s.ident := rfl
@[simp] theorem emit_ctl (s : State) (o : Out) : (s.emit o).ctl = s.ctl := rfl
@[simp] theorem emit_svc (s : State) (o : Out) : (s.emit o).svc = s.svc := rfl
@[simp] theorem emit_faults (s : State) (o : Out) : (s.emit o).faults = s.faults := rfl
@[simp] theorem emit_time (s : State) (o : Out) : (s.emit o).time = s.time := rfl
@[simp] theorem emit_aon (s : State) (o : Out) : (s.emit o).aon = s.aon := rfl
@[simp] theorem emit_tele (s : State) (o : Out) : (s.emit o).tele = s.tele := rfl
@[simp] theorem emit_links (s : State) (o : Out) : (s.emit o).links = s.links := rfl
@[simp] theorem emit_sw (s : State) (o : Out) : (s.emit o).sw = s.sw := rfl
@[simp] theorem emit_fab (s : State) (o : Out) : (s.emit o).fab = s.fab := rfl
@[simp] theorem emit_vats (s : State) (o : Out) : (s.emit o).vats = s.vats := rfl
@[simp] theorem emit_sync (s : State) (o : Out) : (s.emit o).sync = s.sync := rfl
@[simp] theorem emit_press (s : State) (o : Out) : (s.emit o).press = s.press := rfl
@[simp] theorem emit_cel (s : State) (o : Out) : (s.emit o).cel = s.cel := rfl
@[simp] theorem emit_adm (s : State) (o : Out) : (s.emit o).adm = s.adm := rfl
@[simp] theorem emit_pwr (s : State) (o : Out) : (s.emit o).pwr = s.pwr := rfl
@[simp] theorem emit_fw (s : State) (o : Out) : (s.emit o).fw = s.fw := rfl
@[simp] theorem emit_smbIndex (s : State) (o : Out) : (s.emit o).smbIndex = s.smbIndex := rfl
@[simp] theorem emit_free (s : State) (o : Out) : (s.emit o).free = s.free := rfl
@[simp] theorem emit_pending (s : State) (o : Out) : (s.emit o).pending = s.pending := rfl

/-! ### msix -/

@[simp] theorem msix_out (s : State) (v : Nat) : (s.msix v).out = .msix v :: s.out := rfl
@[simp] theorem msix_ident (s : State) (v : Nat) : (s.msix v).ident = s.ident := rfl
@[simp] theorem msix_ctl (s : State) (v : Nat) : (s.msix v).ctl = s.ctl := rfl
@[simp] theorem msix_svc (s : State) (v : Nat) : (s.msix v).svc = s.svc := rfl
@[simp] theorem msix_faults (s : State) (v : Nat) : (s.msix v).faults = s.faults := rfl
@[simp] theorem msix_time (s : State) (v : Nat) : (s.msix v).time = s.time := rfl
@[simp] theorem msix_aon (s : State) (v : Nat) : (s.msix v).aon = s.aon := rfl
@[simp] theorem msix_tele (s : State) (v : Nat) : (s.msix v).tele = s.tele := rfl
@[simp] theorem msix_links (s : State) (v : Nat) : (s.msix v).links = s.links := rfl
@[simp] theorem msix_sw (s : State) (v : Nat) : (s.msix v).sw = s.sw := rfl
@[simp] theorem msix_fab (s : State) (v : Nat) : (s.msix v).fab = s.fab := rfl
@[simp] theorem msix_vats (s : State) (v : Nat) : (s.msix v).vats = s.vats := rfl
@[simp] theorem msix_sync (s : State) (v : Nat) : (s.msix v).sync = s.sync := rfl
@[simp] theorem msix_press (s : State) (v : Nat) : (s.msix v).press = s.press := rfl
@[simp] theorem msix_cel (s : State) (v : Nat) : (s.msix v).cel = s.cel := rfl
@[simp] theorem msix_adm (s : State) (v : Nat) : (s.msix v).adm = s.adm := rfl
@[simp] theorem msix_pwr (s : State) (v : Nat) : (s.msix v).pwr = s.pwr := rfl
@[simp] theorem msix_fw (s : State) (v : Nat) : (s.msix v).fw = s.fw := rfl
@[simp] theorem msix_smbIndex (s : State) (v : Nat) : (s.msix v).smbIndex = s.smbIndex := rfl
@[simp] theorem msix_free (s : State) (v : Nat) : (s.msix v).free = s.free := rfl
@[simp] theorem msix_pending (s : State) (v : Nat) : (s.msix v).pending = s.pending := rfl

end Sys2Proof.Machine.State
end

