-- ==== Sys2Proof/Laws/Shared.lean ====
section
/-!
SUPPORT. One law for each shared operation: what it changes of the state, and everything else it leaves. Records and
interrupts, originated packets, replies, sticky bits, semaphores, memories of a press.
-/

namespace Sys2Proof.Machine

namespace State

/-! ### Records and interrupts -/

/-- A step of the event ring and of what has been sent, with nothing else. -/
def OnlyLogged (s t : State) : Prop := t = { s with tele := { s.tele with events := t.tele.events }, out := t.out }

theorem OnlyLogged.refl (s : State) : OnlyLogged s s := rfl

theorem OnlyLogged.trans {s t u : State} (h : OnlyLogged s t) (k : OnlyLogged t u) : OnlyLogged s u := by
  unfold OnlyLogged at *
  rw [k, h]

theorem logEvent_only (s : State) (e : EvRec) : OnlyLogged s (s.logEvent e) := by
  unfold logEvent
  dsimp only
  split
  · rfl
  · split <;> rfl

/-- An event record is written while its ring has an entry free (R341, R419). -/
theorem logEvent_out (s : State) (e : EvRec) (he : s.tele.events.enable = true) (hf : recFull s.tele.events = false) :
    (s.logEvent e).out = .msix 5 :: .eventRec s.tele.events.prod { e with time := s.ns } :: s.out := by
  simp [logEvent, he, hf, msix, emit]

/-- A full ring counts the record as dropped (R341). -/
theorem logEvent_full (s : State) (e : EvRec) (he : s.tele.events.enable = true) (hf : recFull s.tele.events = true) :
    s.logEvent e = { s with tele := { s.tele with events := recDrop s.tele.events } } := by
  simp [logEvent, he, hf]

theorem logEvent_off (s : State) (e : EvRec) (he : s.tele.events.enable = false) : s.logEvent e = s := by
  simp [logEvent, he]

theorem logHarvest_only (s : State) (ty index layer op : Nat) (ps : List (Nat × Nat)) :
    s.logHarvest ty index layer op ps =
      { s with tele := { s.tele with harvest := (s.logHarvest ty index layer op ps).tele.harvest },
               out := (s.logHarvest ty index layer op ps).out } := by
  unfold logHarvest
  dsimp only
  split
  · rfl
  · split <;> rfl

/-! ### Originated packets (R139, R143) -/

@[simp] theorem originateMany_nil (s : State) (p : Packet) : s.originateMany [] p = s := rfl

theorem originateMany_eq (s : State) {on : List Nat} (p : Packet) (h : on ≠ []) :
    s.originateMany on p = { s with sw := { s.sw with originWait := s.sw.originWait ++ [(on, p)] } } := by
  cases on with
  | nil => exact absurd rfl h
  | cons => rfl

@[simp] theorem originate_eq (s : State) (n : Nat) (p : Packet) :
    s.originate n p = { s with sw := { s.sw with originWait := s.sw.originWait ++ [([n], p)] } } := rfl

/-! ### Messages of command service (R306, R312-R314) -/

theorem onlyReplied_refl (s : State) : OnlyReplied s s := rfl

theorem onlyReplied_trans {s t u : State} (h : OnlyReplied s t) (k : OnlyReplied t u) : OnlyReplied s u := by
  unfold OnlyReplied at *
  rw [k, h]

theorem rrWrite_onlyReplied (s : State) (k : Nat) (m : SpMsg) : OnlyReplied s (s.rrWrite k m) := rfl

theorem sendMsg_onlyReplied (s : State) (src : Nat) (dev res : Bool) (m : SpMsg) :
    OnlyReplied s (s.sendMsg src dev res m) := by
  unfold sendMsg
  dsimp only
  split
  · split
    · rfl
    · split
      · rfl
      · split <;> rfl
  · rfl

/-- Outside a ring's sources a message waits to leave as a SPAGIL packet on TC7 (R314). -/
theorem sendMsg_inband (s : State) (src : Nat) (dev res : Bool) (m : SpMsg) (h : 4 ≤ src) :
    s.sendMsg src dev res m = s.originate 256
      { ty := 0x08, tc := 7, devt := dev, dst := BitVec.ofNat 26 (src - 4), src := s.ownAddr, payload := msgBytes m } := by
  simp [sendMsg, Nat.not_lt.mpr h]

theorem sendEvent_onlyReplied (s : State) (h : SpHdr) (m : SpMsg) : OnlyReplied s (s.sendEvent h m) :=
  sendMsg_onlyReplied ..

theorem untake_onlyReplied (s : State) (h : SpHdr) : OnlyReplied s (s.untake h) := by
  unfold untake
  split
  · rfl
  · dsimp only
    split <;> rfl

theorem takePair_onlyReplied (s : State) (h : SpHdr) : OnlyReplied s (s.takePair h) := rfl

/-! ### Sticky bits (R347, R348) -/

/-- A sticky bit, the event ring and what has been sent: all that a source of severity 0 to 2 changes. -/
def OnlyAsserted (s t : State) : Prop :=
  t = { s with faults := { s.faults with sticky := t.faults.sticky }, tele := { s.tele with events := t.tele.events },
               out := t.out }

theorem OnlyAsserted.refl (s : State) : OnlyAsserted s s := rfl

theorem OnlyAsserted.trans {s t u : State} (h : OnlyAsserted s t) (k : OnlyAsserted t u) : OnlyAsserted s u := by
  unfold OnlyAsserted at *
  rw [k, h]

theorem OnlyLogged.asserted {s t : State} (h : OnlyLogged s t) : OnlyAsserted s t := by
  unfold OnlyLogged at h
  unfold OnlyAsserted
  rw [h]

/-- A bit that is set, or a source that the fault table does not have, changes nothing (R348, R353). -/
theorem assertIn_set (s : State) (i : Nat) (u : FUnit) (h : look false s.faults.sticky i = true) : s.assertIn i u = s := by
  simp [assertIn, assertWith, h]

theorem assertPlain_set (s : State) (i : Nat) (h : look false s.faults.sticky i = true) : s.assertPlain i = s := by
  simp [assertPlain, h]

/-- What a source of severity 0 to 2 changes. -/
theorem assertPlain_only (s : State) (i : Nat) (h : Mild s i) : OnlyAsserted s (s.assertPlain i) := by
  unfold Mild at h
  unfold assertPlain
  split
  · exact .refl _
  · dsimp only
    have h3 : ¬ 3 ≤ s.severity i := by omega
    have h5 : s.severity i ≠ 5 := by omega
    simp only [h3, h5, if_false]
    refine OnlyAsserted.trans
      (t := { s with faults := { s.faults with sticky := put false s.faults.sticky i true } }) rfl ?_
    split
    · split
      · exact ((logEvent_only _ _).asserted).trans rfl
      · exact (logEvent_only _ _).asserted
    · split
      · rfl
      · exact .refl _

theorem assertIn_mild (s : State) (i : Nat) (u : FUnit) (h : Mild s i) : s.assertIn i u = s.assertPlain i := by
  unfold Mild at h
  have hv : s.severity i < 3 := by omega
  by_cases hc : faultDefault i = none ∨ look false s.faults.sticky i = true
  · have e : (decide (faultDefault i = none) || look false s.faults.sticky i) = true := by simpa using hc
    simp only [assertIn, assertWith, assertPlain, e, if_true]
  · have e : (decide (faultDefault i = none) || look false s.faults.sticky i) = false := by
      simpa [not_or] using hc
    simp [assertIn, assertWith, e, hv]

/-- An assertion of a source of severity 0 to 2, in any unit. -/
theorem assertIn_only (s : State) (i : Nat) (u : FUnit) (h : Mild s i) : OnlyAsserted s (s.assertIn i u) := by
  rw [assertIn_mild s i u h]
  exact assertPlain_only s i h

theorem assertSrc_only (s : State) (i : Nat) (h : Mild s i) : OnlyAsserted s (s.assertSrc i) := assertIn_only s i _ h

/-! ### Replies (R306, R328) -/

/-- What a reply changes: command service, what has been sent, packets that wait to leave, and the sticky bits of malformed
commands and of missing authority. -/
def OnlyAnswered (s t : State) : Prop :=
  t = { s with svc := t.svc, out := t.out, sw := { s.sw with originWait := t.sw.originWait },
               faults := { s.faults with sticky := t.faults.sticky }, tele := { s.tele with events := t.tele.events } }

theorem OnlyAnswered.trans {s t u : State} (h : OnlyAnswered s t) (k : OnlyAnswered t u) : OnlyAnswered s u := by
  unfold OnlyAnswered at *
  rw [k, h]

theorem onlyReplied_answered {s t : State} (h : OnlyReplied s t) : OnlyAnswered s t := by
  unfold OnlyReplied at h
  unfold OnlyAnswered
  rw [h]

theorem OnlyAsserted.answered {s t : State} (h : OnlyAsserted s t) : OnlyAnswered s t := by
  unfold OnlyAsserted at h
  unfold OnlyAnswered
  rw [h]

theorem severity_of_faults (s t : State) (i : Nat) (h : t.faults.sev = s.faults.sev) : t.severity i = s.severity i := by
  simp [severity, h]

/-- The reply of a command, when the sources of malformed and of unauthorised commands are of severity 0 to 2. -/
theorem sendReply_only (s : State) (h : SpHdr) (m : SpMsg) (a : Mild s 0x6A0) (b : Mild s 0x6A1) :
    OnlyAnswered s (s.sendReply h m) := by
  unfold sendReply
  dsimp only
  generalize (if s.replyLimit h < plenOf (m.params.map Prod.fst) then
    { m with status := 0x0502, detail := plenOf (m.params.map Prod.fst), params := [] } else m) = m'
  have hr : OnlyReplied s ((s.sendMsg h.src h.devsrc (s.takenOf h).isSome m').untake h) :=
    onlyReplied_trans (sendMsg_onlyReplied ..) (untake_onlyReplied ..)
  have hf : ((s.sendMsg h.src h.devsrc (s.takenOf h).isSome m').untake h).faults = s.faults := by
    rw [hr]
  split
  · refine (onlyReplied_answered hr).trans (assertSrc_only _ _ ?_).answered
    exact (congrArg (· ≤ 2) (severity_of_faults _ _ _ (congrArg _ hf))).mpr a
  · split
    · refine (onlyReplied_answered hr).trans (assertSrc_only _ _ ?_).answered
      exact (congrArg (· ≤ 2) (severity_of_faults _ _ _ (congrArg _ hf))).mpr b
    · exact onlyReplied_answered hr

/-- A refusal changes nothing but what a reply changes. -/
theorem refuse_only (s : State) (h : SpHdr) (f : Fail) (a : Mild s 0x6A0) (b : Mild s 0x6A1) :
    OnlyAnswered s (s.refuse h f) := sendReply_only s h _ a b

/-- A completion with status 0 changes nothing but what a reply changes. -/
theorem complete_only (h : SpHdr) (d : Done) (hs : d.status = 0) : OnlyReplied d.st (complete h d) := by
  unfold complete sendReply
  dsimp only
  have hr := fun m => onlyReplied_trans (takePair_onlyReplied d.st h)
    (onlyReplied_trans (sendMsg_onlyReplied (d.st.takePair h) h.src h.devsrc ((d.st.takePair h).takenOf h).isSome m)
      (untake_onlyReplied _ h))
  have g1 : ∀ m : SpMsg, m.status.toNat / 256 = 0 ∨ m.status.toNat / 256 = 5 →
      ¬ m.status.toNat / 256 = 1 ∧ ¬ m.status.toNat / 256 = 4 := fun m hm => by omega
  have hm := g1 (if (d.st.takePair h).replyLimit h < plenOf (d.params.map Prod.fst) then
      { (d.st.takePair h).message h false d.status with
        params := [], gid := d.gid, detail := plenOf (d.params.map Prod.fst), status := 0x0502 }
      else { (d.st.takePair h).message h false d.status with params := d.params, gid := d.gid, detail := d.detail })
    (by split <;> simp [message, hs])
  rw [if_neg hm.1, if_neg hm.2]
  exact hr _

/-! ### The course of a command (R315, R320, R322) -/

theorem run_unserved (s : State) (i : Instr) (c : Cmd) (h : s.serving c.hdr = false ∨ s.mustWait c.hdr = true) :
    s.run i c = s := by
  have : (!s.serving c.hdr || s.mustWait c.hdr) = true := by rcases h with h | h <;> simp [h]
  simp [run, this]

/-- The first check that fails refuses the command (R315). -/
theorem run_refused (s : State) (i : Instr) (c : Cmd) (f : Fail) (hs : s.serving c.hdr = true)
    (hw : s.mustWait c.hdr = false) (ht : c.hdr.src < 4 → s.otherTarget c.hdr = none)
    (hf : s.failure c.hdr c.spec c.checks = some f) : s.run i c = s.refuse c.hdr f := by
  have h0 : (!s.serving c.hdr || s.mustWait c.hdr) = false := by simp [hs, hw]
  have h1 : (if c.hdr.src < 4 then s.otherTarget c.hdr else none) = none := by split <;> simp_all
  simp [run, h0, h1, hf]

/-- A command that passes its checks and is neither staged nor phased has its effect and is answered (R306, R315). -/
theorem run_applies (s : State) (i : Instr) (c : Cmd) (h : Applies s c) (hw : (c.eff s).wait = false) :
    s.run i c = complete c.hdr (c.eff s) := by
  obtain ⟨⟨hs, hm, ht, hf⟩, hst, hdr⟩ := h
  have h0 : (!s.serving c.hdr || s.mustWait c.hdr) = false := by simp [hs, hm]
  have h1 : (if c.hdr.src < 4 then s.otherTarget c.hdr else none) = none := by split <;> simp_all
  have h2 : (c.hdr.stage && !c.spec.epoch) = false := by
    cases hx : c.hdr.stage with
    | false => rfl
    | true => simp [hst hx]
  have h3 : (c.hdr.drain && !c.checks.phases.isEmpty) = false := by
    cases hx : c.hdr.drain with
    | false => rfl
    | true => simp [hdr hx]
  simp [run, h0, h1, hf, h2, h3, hw]

/-- … or waits for its completion elsewhere. -/
theorem run_waits (s : State) (i : Instr) (c : Cmd) (h : Applies s c) (hw : (c.eff s).wait = true) :
    s.run i c = (c.eff s).st := by
  obtain ⟨⟨hs, hm, ht, hf⟩, hst, hdr⟩ := h
  have h0 : (!s.serving c.hdr || s.mustWait c.hdr) = false := by simp [hs, hm]
  have h1 : (if c.hdr.src < 4 then s.otherTarget c.hdr else none) = none := by split <;> simp_all
  have h2 : (c.hdr.stage && !c.spec.epoch) = false := by
    cases hx : c.hdr.stage with
    | false => rfl
    | true => simp [hst hx]
  have h3 : (c.hdr.drain && !c.checks.phases.isEmpty) = false := by
    cases hx : c.hdr.drain with
    | false => rfl
    | true => simp [hdr hx]
  simp [run, h0, h1, hf, h2, h3, hw]

/-- A staged command waits in the staging list (R320). -/
theorem run_staged (s : State) (i : Instr) (c : Cmd) (h : Passes s c) (hs : c.hdr.stage = true) (he : c.spec.epoch = false) :
    s.run i c = s.stage i c := by
  obtain ⟨h1, hm, ht, hf⟩ := h
  have h0 : (!s.serving c.hdr || s.mustWait c.hdr) = false := by simp [h1, hm]
  have h2 : (if c.hdr.src < 4 then s.otherTarget c.hdr else none) = none := by split <;> simp_all
  simp [run, h0, h2, hf, hs, he]

/-- A command with DRAIN that needs phases begins them (R322). -/
theorem run_phased (s : State) (i : Instr) (c : Cmd) (h : Passes s c) (hs : c.hdr.stage = false) (hd : c.hdr.drain = true)
    (hp : c.checks.phases ≠ []) : s.run i c = s.beginPhases i c := by
  obtain ⟨h1, hm, ht, hf⟩ := h
  have h0 : (!s.serving c.hdr || s.mustWait c.hdr) = false := by simp [h1, hm]
  have h2 : (if c.hdr.src < 4 then s.otherTarget c.hdr else none) = none := by split <;> simp_all
  simp [run, h0, h2, hf, hs, hd, hp]

/-! ### Semaphores (R207, R208, R210) -/

theorem semCount_setSemCount_self (s : State) (g : Bool) (p n v : Nat) : (s.setSemCount g p n v).semCount g p n = v := by
  cases g <;> simp [semCount, setSemCount]

theorem semCount_setSemCount_of_ne (s : State) (g : Bool) (p n v m : Nat) (h : m ≠ n) :
    (s.setSemCount g p n v).semCount g p m = s.semCount g p m := by
  cases g <;> simp [semCount, setSemCount, look_put_of_ne _ _ _ h]

/-- A signal adds to the count, which stays at its maximum; it reports a count that would pass it (R208). -/
theorem semSignal_count (s : State) (g : Bool) (p n k : Nat) :
    (s.semSignal g p n k).2.semCount g p n = min (s.semCount g p n + k) (semMax g) ∧
      ((s.semSignal g p n k).1 = true ↔ semMax g < s.semCount g p n + k) := by
  simp [semSignal, semCount_setSemCount_self]

/-- A wait that completes takes what it needs; one that does not leaves the count (R208). -/
theorem semWait_count (s : State) (g : Bool) (n : Nat) (w : SemWaiter) :
    if (s.semWait g n w).1 then
      s.semWaiters g w.press n = [] ∧ w.need ≤ s.semCount g w.press n ∧
        (s.semWait g n w).2.semCount g w.press n = s.semCount g w.press n - w.need
    else (s.semWait g n w).2.semCount g w.press n = s.semCount g w.press n := by
  unfold semWait
  dsimp only
  split
  · rename_i h
    simp only [Bool.and_eq_true, List.isEmpty_iff, decide_eq_true_eq] at h
    simp [h.1, h.2, semCount_setSemCount_self]
  · split
    · simp
    · cases g <;> simp [setSemWaiters, semCount]

/-! ### Memories of the presses -/

/-- Any change that `setMem` makes to a memory keeps the canonical form, when the new table has it. -/
theorem setMem_canonical (s : State) (m : Mem) (t : Tab Byte) (h : MemoriesCanonical s) (ht : Memory.wf t = true) :
    MemoriesCanonical (s.setMem m t) := by
  obtain ⟨h1, h2, h3, h4, h5⟩ := h
  cases m <;> simp only [setMem, MemoriesCanonical] <;> simp_all

theorem memOf_canonical (s : State) (m : Mem) (h : MemoriesCanonical s) : Memory.wf (s.memOf m) = true := by
  obtain ⟨h1, h2, h3, h4, h5⟩ := h
  cases m <;> assumption

theorem setMemErr_canonical (s : State) (m : Mem) (t : Tab Nat) (h : MemoriesCanonical s) :
    MemoriesCanonical (s.setMemErr m t) := by
  cases m <;> exact h

theorem memOf_setMem (s : State) (m : Mem) (t : Tab Byte) : (s.setMem m t).memOf m = t := by cases m <;> rfl

/-- A change that leaves the five memories as they are keeps their canonical form. -/
theorem MemoriesCanonical.of_eq {s t : State} (h : MemoriesCanonical s) (hp : t.press = s.press) (hc : t.cel = s.cel)
    (hf : t.fw = s.fw) : MemoriesCanonical t := by
  unfold MemoriesCanonical at *
  rw [hp, hc, hf]
  exact h

theorem injTakeN_canonical (s : State) (g p n : Nat) (h : MemoriesCanonical s) : MemoriesCanonical (s.injTakeN g p n).2 := by
  unfold injTakeN
  dsimp only
  split <;> exact h

/-- A change of the press memories' words, their errors and running injections keeps the form (R213, R356). -/
theorem memWrite_canonical (s : State) (m : Mem) (p a : Nat) (bs : List Byte) (h : MemoriesCanonical s) :
    MemoriesCanonical (s.memWrite m p a bs) := by
  unfold memWrite
  dsimp only
  generalize hu : (s.setMem m (writeMem (s.memOf m) (p * memSize m + a) bs)).setMemErr m _ = u
  have hc : MemoriesCanonical u := by
    rw [← hu]
    exact setMemErr_canonical _ _ _ (setMem_canonical _ _ _ h (Memory.wf_writeMem _ _ (memOf_canonical s m h)))
  split
  · exact hc
  · exact setMemErr_canonical _ _ _ (injTakeN_canonical _ _ _ _ hc)

/-- A line of the cellar stored (R267, R272). -/
theorem storeLine_canonical (s : State) (a : Nat) (bs : List Byte) (h : MemoriesCanonical s) :
    MemoriesCanonical (s.storeLine a bs) := by
  obtain ⟨h1, h2, h3, h4, h5⟩ := h
  unfold storeLine
  dsimp only
  split
  · exact ⟨h1, h2, h3, Memory.wf_writeMem _ _ h4, h5⟩
  · exact ⟨h1, h2, h3, Memory.wf_writeMem _ _ (Memory.wf_writeMem _ _ h4), h5⟩

/-- The cellar initialised (R265). -/
theorem cellarInit_canonical (s : State) (h : MemoriesCanonical s) : MemoriesCanonical s.cellarInit := by
  obtain ⟨h1, h2, h3, h4, h5⟩ := h
  exact ⟨h1, h2, h3, rfl, h5⟩

/-- A block of a firmware image stored (R406). -/
theorem effBlock_canonical (s : State) (src o : Nat) (bs : List Byte) (h : MemoriesCanonical s) :
    MemoriesCanonical (s.effBlock src o bs) := by
  obtain ⟨h1, h2, h3, h4, h5⟩ := h
  refine ⟨h1, h2, h3, h4, ?_⟩
  unfold effBlock
  dsimp only
  split
  · exact Memory.wf_writeMem _ _ rfl
  · exact Memory.wf_writeMem _ _ h5

/-- Regions left with unspecified contents (R230). -/
theorem spoil_canonical (p : Nat) (rs : List (Nat × Nat)) (s : State) (h : MemoriesCanonical s) :
    MemoriesCanonical (s.spoil p rs) := by
  induction rs generalizing s with
  | nil => exact h
  | cons r rs ih =>
    obtain ⟨a, n⟩ := r
    obtain ⟨h1, h2, h3, h4, h5⟩ := h
    unfold spoil
    dsimp only
    apply ih
    split
    · exact ⟨Memory.wf_writeMem _ _ h1, h2, h3, h4, h5⟩
    · split
      · exact ⟨h1, h2, h3, Memory.wf_writeMem _ _ h4, h5⟩
      · exact ⟨Memory.wf_writeMem _ _ h1, h2, h3, h4, h5⟩

/-- A filter of the cellar's bytes keeps the form (R272, R377). -/
theorem filter_wf {m : Tab Byte} (f : Nat × Byte → Bool) (h : Memory.wf m = true) : Memory.wf (m.filter f) = true :=
  canon_filter f h

end State

/-! ### The CP and the engines -/

/-- The row of the instruction that the CP is at has its meaning (R252). -/
theorem cpRow_at {s : State} {p c w : Nat} (op : Nat) (f : Nat → Nat → State) (h : CpAt s p c w) (ho : w / 2 ^ 24 = op) :
    s.cpRow p op f = f c w := by
  obtain ⟨h1, h2, h3, h4, -⟩ := h
  simp only [State.cpRow, h1, h2, h3, h4, ho]
  simp only [ne_eq, not_true_eq_false, decide_false, Bool.not_true, Bool.or_false, if_false, if_true, Bool.false_eq_true]

/-- A row of another instruction changes nothing (log 40). -/
theorem cpRow_other {s : State} {p c w : Nat} (op : Nat) (f : Nat → Nat → State) (h : CpAt s p c w) (ho : w / 2 ^ 24 ≠ op)
    (hk : cpOpcodes.contains (w / 2 ^ 24) = true) : s.cpRow p op f = s := by
  obtain ⟨h1, h2, h3, h4, -⟩ := h
  simp only [State.cpRow, h1, h2, h3, h4]
  simp only [ne_eq, not_true_eq_false, decide_false, Bool.not_true, Bool.or_false, if_false, ho, hk, if_true,
    Bool.false_eq_true]

/-- An unassigned opcode faults with ILLEGAL under any row (R252, R260). -/
theorem cpRow_illegal {s : State} {p c w : Nat} (op : Nat) (f : Nat → Nat → State) (h : CpAt s p c w) (ho : w / 2 ^ 24 ≠ op)
    (hk : cpOpcodes.contains (w / 2 ^ 24) = false) : s.cpRow p op f = s.cpFault p c cIllegal 0 := by
  obtain ⟨h1, h2, h3, h4, -⟩ := h
  simp only [State.cpRow, h1, h2, h3, h4]
  simp only [ne_eq, not_true_eq_false, decide_false, Bool.not_true, Bool.or_false, if_false, ho, hk, Bool.false_eq_true]

/-- A row changes nothing while no context issues on the press (R221). -/
theorem cpRow_idle {s : State} {p : Nat} (op : Nat) (f : Nat → Nat → State) (h : s.issuing p = none) :
    s.cpRow p op f = s := by
  simp [State.cpRow, h]

/-- s0 discards what is written to it, and every other register holds it (R250, R252). -/
theorem cp_reg_setReg (k : Cp) (r q : Nat) (v : BitVec 64) :
    (k.setReg r v).reg q = if q = 0 then 0 else if q = r then v else k.reg q := by
  by_cases hr : r = 0
  · subst hr
    rw [show k.setReg 0 v = k from rfl]
    by_cases hq : q = 0 <;> simp [Cp.reg, hq]
  · by_cases hq : q = 0
    · simp [Cp.reg, hq]
    · simp [Cp.setReg, Cp.reg, hr, hq, look_put]

/-- An instruction whose wait is over and that passes its checks begins: its body runs from the begun state (R233, R237). -/
theorem engineRow_ready {s : State} {p c e op : Nat} {q : QMacro} (check : List Byte → Option Nat)
    (dest : Stream → List Byte → List (Nat × Nat)) (body : Nat → List Byte → State → Met × State)
    (h : HeadReady s p c e q) (ho : mOpc q.bytes = op) (hc : check q.bytes = none) :
    s.engineRow p e op check dest body =
      match body c q.bytes (s.beginHead p c e (dest (s.streamOf p c e) q.bytes)) with
      | (some x, t) => t.pressFault p c e q.pc x.1 x.2
      | (none, t) => t := by
  obtain ⟨⟨h1, h2, h3, h4, h5, h6⟩, h7⟩ := h
  have hw : ((s.streamOf p c e).waited || decide (mWaitK q.bytes = 0)) = true := by
    rcases h7 with h7 | h7 <;> simp [h7]
  have h8 : ((s.headerCheck p c e q.bytes).orElse fun _ => check q.bytes) = none := by simp [h6, hc]
  subst ho
  simp only [State.engineRow, h1, h2, h3, h4, h5, h8, hw]
  simp only [ne_eq, not_true_eq_false, if_false, Bool.not_true, Bool.false_eq_true, if_true]
  generalize body c q.bytes _ = y
  obtain ⟨x | x, t⟩ := y <;> rfl

/-- A row changes nothing while no context issues on the press, or the queue is empty. -/
theorem engineRow_idle {s : State} {p e : Nat} (op : Nat) (check : List Byte → Option Nat)
    (dest : Stream → List Byte → List (Nat × Nat)) (body : Nat → List Byte → State → Met × State)
    (h : s.issuing p = none ∨ ∃ c, s.issuing p = some c ∧ (s.streamOf p c e).queue = []) :
    s.engineRow p e op check dest body = s := by
  rcases h with h | ⟨c, h, hq⟩
  · simp [State.engineRow, h]
  · simp [State.engineRow, h, hq]

end Sys2Proof.Machine
end

