-- ==== Sys2Proof/Tests/Slice0.lean ====
section
/-!
SUPPORT. Tests: ill-formed commands are refused by `Instr.wf`; for every statement with hypotheses, states and operands that meet them
(`test_meets_<name of the statement>`, one conjunct a clause); one step of chosen commands.
-/

open Sys2Proof Sys2Proof.Machine

set_option Elab.async false

namespace Sys2Proof.Tests

/-! ### Devices and operands that the tests use -/

/-- A device that serves commands: firmware ready, every domain active, discovered as position 0 of a fabric of two dimensions, all
features agreed on ring 0. -/
def up : State :=
  { ctl := { fwReady := true }
    svc := { rings := [(0, { enable := true })], sources := [(0, { agreed := BitVec.allOnes 256 })] }
    fab := { fna := some 0, ndim := 2, disc := .ready, map := [(0, some (0, 0)), (1, some (1, 0))] }
    pwr := { domains := (List.range 80).map fun d => (d, { st := .active }) }
    cel := { ready := true } }

/-- The header that a command needs: its opcode and length, FULL authority, from ring 0. -/
def hd (f : SpHdr → Cmd) : SpHdr :=
  let c := f { src := 0, opcode := 0, plen := 0, auth := 4 }
  { src := 0, opcode := BitVec.ofNat 16 c.spec.op, plen := BitVec.ofNat 32 (c.spec.plen.getD (plenOf c.spec.widths)), auth := 4 }

def applies (s : State) (c : Cmd) : Bool :=
  s.serving c.hdr && !s.mustWait c.hdr && (decide (4 ≤ c.hdr.src) || (s.otherTarget c.hdr).isNone) &&
    (s.failure c.hdr c.spec c.checks).isNone && (!c.hdr.stage || c.spec.epoch) && (!c.hdr.drain || c.checks.phases.isEmpty)

theorem applies_iff (s : State) (c : Cmd) : applies s c = true ↔ Applies s c := by
  simp only [applies, Applies, Passes, Bool.and_eq_true, Bool.or_eq_true, Bool.not_eq_true', decide_eq_true_eq,
    Option.isNone_iff_eq_none, List.isEmpty_iff]
  constructor
  · rintro ⟨⟨⟨⟨⟨a, b⟩, c'⟩, d⟩, e⟩, f⟩
    exact ⟨⟨a, b, fun h => c'.resolve_left (by omega), d⟩, fun h => by simp_all, fun h => by simp_all⟩
  · rintro ⟨⟨a, b, c', d⟩, e, f⟩
    refine ⟨⟨⟨⟨⟨a, b⟩, ?_⟩, d⟩, ?_⟩, ?_⟩
    · by_cases h : 4 ≤ c.hdr.src
      · exact .inl h
      · exact .inr (c' (by omega))
    · cases h : c.hdr.stage <;> simp_all
    · cases h : c.hdr.drain <;> simp_all

def coll : CollP :=
  { ckey := 5, devMask := 0, devValue := 0, slots := 0, presses := 3, receive := 0, root := 0, op := 2, format := 0x12, count := 64,
    pourBytes := 64, tc := 0, acc := 0, algo := 0, window := 0, deadline := 0, pin := 0xFF, quantum := 64, replay := 0, segments := 0,
    anchor := 0, seed := 0, stepBase := 0, tinv := 0, group := 0, tapPresses := 0, tapBase := 0, tapSlots := 0, fill := 0,
    free := 0, tapMode := 0, seg := [] }
def qp : QosProfileP :=
  { profile := 0, ageing := 10, lees := 200, proportion := [25, 25, 25, 25], account := [(16, 4096), (16, 4096), (16, 4096)], aiShift := 8 }
def win : WindowP :=
  { window := 1, base := 0x01000000, size := 4096, perm := 3, srcValue := 0, srcMask := 0, pcie := true, fence := false, claim := 0 }
def bkt : BucketP := { link := 40, cls := 1, rate := 1000, burst := 20, resetTo := false }
def lau : PressLaunchP := { presses := 1, context := 0, args := List.replicate 64 0 }
def sess (u : State) : State := { u with fab := { u.fab with session := true } }
def opened (u : State) : State := (u.effOpen (u.contractOf (hd fun h => cmdCollOpenExpert h coll u) coll)).2
def bound (u : State) : State := u.setCounter 3 { op := 1 }
def bundle : List Byte := [90, 80, 66, 76, 1, 0, 1, 0, 84, 0, 0, 0, 0, 0, 0, 0, 1, 0, 0, 0, 0, 16, 0, 0, 0, 4, 0, 0, 0, 4, 0, 0, 0, 0, 0, 0, 0, 0, 0, 0, 1, 0, 0, 0, 0, 0, 0, 0, 197, 54, 44, 215, 0, 0, 0, 0, 0, 0, 0, 0, 0, 0, 0, 0, 1, 0, 0, 0, 80, 0, 0, 0, 4, 0, 0, 0, 0, 0, 0, 0, 0, 0, 0, 63]
def stored (u : State) : State :=
  ({ u with cel := { u.cel with mem := writeMem [] 0 bundle } } : State).setCtx 0 0 { recorded := some { gsFirst := 0 } }
def loaded (u : State) : State := u.setCtx 0 0 { st := .loaded, set := 1, lay := { padSize := 4096, imemSize := 1024, dmemSize := 1024, lsCount := 1 }, maxBeats := 1 }
def running (u : State) : State := u.setCtx 0 0 { st := .running, set := 1, lay := { padSize := 4096, imemSize := 1024, dmemSize := 1024, lsCount := 1 }, maxBeats := 1 }
def windowed (u : State) : State := u.effWindow 0 win
def steady (u : State) : State := { u with aon := { u.aon with cmp0 := { lvl := true, band := false }, cmp1 := { lvl := true, band := false } }, time := { now := 2 ^ 40 * 10 ^ 9 } }

/-- Every Spagil command, with a state in which it passes its checks and takes effect at once. -/
def commands : List (State × (State → SpHdr → Cmd)) :=
  [ (up, fun s h => cmdDevIdentify h s),
    (up, fun s h => cmdDevNegotiate h 1 3 s),
    (up, fun s h => cmdDevReset h 0 0 s),
    (up, fun s h => cmdDevResetControlComplex h 0 s),
    (up, fun s h => cmdDevResetUnit h 12 s),
    (up.effQosProfile (defaultQos 1), fun s h => cmdDevProfile h 1 s),
    (up, fun s h => cmdLinkConfig h 10 0 2 s),
    (up, fun s h => cmdLinkConfigExpert h { lane := 40, eqMode := 0xFF, taps := 0, fomMin := 0, ret := false } s),
    (up, fun s h => cmdLinkStatus h 10 s),
    (up, fun s h => cmdLinkEyescanStart h 40 16 s),
    (up, fun s h => cmdLinkEyescanRead h 40 1 0 4 s),
    (up, fun s h => cmdLinkIdle h 10 true 5 s),
    (up,
      fun s h => cmdFabDiscoverExpert h { ndim := 1, twisted := false, marked := false, rootFna := 0, map := (0, 0) :: List.replicate 63 (0xFF, 0) } s),
    (sess up, fun s h => cmdFabRoute { h with stage := true } 7 s),
    (sess up, fun s h => cmdFabRouteExpert { h with stage := true } { kind := 1, mask := 1, value := 0 } s),
    (up, fun s h => cmdFabEpochStage h 0 0 s),
    (sess up, fun s h => cmdFabEpochCommit { h with time := 50000 } 0 0 false s),
    (up,
      fun s h => cmdFabEndpoint h { identity := 0, port := 10, port2 := 0xFF, fna2 := 0, echo := 0xFF, portAuth := 2 } s),
    (up, fun s h => cmdFabWindow h 0 0 0 win s),
    (up.effQosProfile qp, fun s h => cmdQosProfile h qp s),
    (up, fun s h => cmdQosQueue h { link := 40, cls := 1, weight := 100, ovh := 0, markDepth := 100 } s),
    (up, fun s h => cmdQosShaper h bkt s),
    (up, fun s h => cmdQosPolicer h bkt s),
    (up,
      fun s h => cmdQosGates { h with time := 10000 } { link := 40, guardBand := false, guarantee := false, claim := List.replicate 8 0, entries := [(0xFF, 100)] } s),
    (up, fun s h => cmdCollOpenExpert h coll s),
    (opened up, fun s h => cmdCollClose h 5 s),
    (opened up, fun s h => cmdCollQuery h 5 0 1 s),
    (up,
      fun s h => cmdSyncOpen h { syncId := 3, syncOp := 1, devMask := 0, devValue := 0, slots := 0, presses := 3, deadline := 0 } s),
    (bound up,
      fun s h => cmdSyncUnbind h { syncId := 3, syncOp := 0, devMask := 0, devValue := 0, slots := 0, presses := 0, deadline := 0 } s),
    (stored up,
      fun s h => cmdPressLoad h { presses := 1, context := 0, bundle := 0, range := [0], spareBase := 0, spareSize := 0 } s),
    (loaded up, fun s h => cmdPressLaunch h lau s),
    (loaded up, fun s h => cmdPressLaunchExpert h lau s),
    (up, fun s h => cmdPressLayoutRecord h lau s),
    (running up, fun s h => cmdPressStopGraceful h 1 0 0 s),
    (running up, fun s h => cmdPressStopImmediate h 1 0 s),
    (up, fun s h => cmdPressQuery h 0 0 s),
    (up, fun s h => cmdCelPlan h s),
    (up, fun s h => cmdCelPlanExpert h 16 96 128 0 s),
    (up, fun s h => cmdCelAccessCreate h win s),
    (windowed up, fun s h => cmdCelAccessChange h win s),
    (windowed up, fun s h => cmdCelAccessRevoke h win s),
    (windowed up, fun s h => cmdCelAccessFence h win s),
    (up, fun s h => cmdCelArb h 0 3 1 10 false s),
    (up, fun s h => cmdPwrProfile h 1 s),
    (up, fun s h => cmdPwrProfileExpert h 20 2 0 s),
    (up, fun s h => cmdPwrCap h 500000 s),
    (up, fun s h => cmdTimeSetStep h 0 1000 s),
    (up, fun s h => cmdTimeSetSlew h 0 s),
    (up, fun s h => cmdTimeAlarmSet h 100 1 s),
    (up, fun s h => cmdTimeAlarmCancel h 0 s),
    (up, fun s h => cmdHarvestCfg h 1000 s),
    (up, fun s h => cmdHarvestCfgExpert h 1000 0 8 s),
    (up, fun s h => cmdFaultCfg h 0x100 1 [2] s),
    (up, fun s h => cmdFaultInjectLevel0 h 0 0x100 5 s),
    (up, fun s h => cmdFaultInjectLevel1 h 0x44 1 s),
    (up, fun s h => cmdFaultQuery h 0 64 s),
    (up, fun s h => cmdFwBlock h 0 16 (List.replicate 16 0) s),
    (up, fun s h => cmdFwVerify h s),
    ({ up with fw := { verified := true } }, fun s h => cmdFwActivate h s),
    (steady up, fun s h => cmdLcTransition h 3 s),
    (up, fun s h => cmdGradePin h 56 s),
    (up, fun s h => cmdBookRead h 0 0 s),
    (up, fun s h => cmdAdmitDryRun h (.linkStatus (hd fun h => cmdLinkStatus h 10 s) 10) s),
    (up, fun _ h => cmdAdmitReadmit h 0),
    (up, fun _ h => cmdAdmitReport h 2 0) ]

set_option maxRecDepth 100000 in
theorem test_commands_apply : ∀ e ∈ commands, Applies e.1 (e.2 e.1 (hd (e.2 e.1))) := by
  have h : (commands.all fun e => applies e.1 (e.2 e.1 (hd (e.2 e.1)))) = true := by decide +kernel
  exact fun e he => (applies_iff _ _).mp (List.all_eq_true.mp h e he)

theorem applies_congr {s : State} {c d : Cmd} (h : c.hdr = d.hdr) (k : c.spec = d.spec) (m : c.checks = d.checks) :
    applies s c = applies s d := by
  simp only [applies, h, k, m]

def discover8 (n : Nat) : Cmd :=
  cmdDiscover { src := 0, opcode := 0x0301, plen := 8, auth := 4 } 0x0301 { op := 0x0301, need := 3, widths := [8] }
    [badField [8] 0 ((8#8).toNat < 1 || 8 < (8#8).toNat)] n false false 0 (bundleMap n (8#8).toNat) up

/-- FAB_DISCOVER in its basic form, whatever number of dimensions it takes. -/
theorem test_fab_discover_applies :
    Applies up (cmdFabDiscover { src := 0, opcode := 0x0301, plen := 8, auth := 4 } 8 up) := by
  have h : ∀ n < min 18 (64 / (8#8).toNat) + 1, applies up (discover8 n) = true := by decide +kernel
  have k : applies up (cmdFabDiscover { src := 0, opcode := 0x0301, plen := 8, auth := 4 } 8 up) =
      applies up (discover8 (Config.freeNat up.free % (min 18 (64 / (8#8).toNat) + 1))) := by
    unfold cmdFabDiscover discover8
    exact applies_congr rfl rfl rfl
  exact (applies_iff _ _).mp (k.trans (h _ (Nat.mod_lt _ (Nat.succ_pos _))))

/-- COLL_OPEN in its basic form: only pours of 4,064 bytes suit so many elements. -/
def collBig : CollP := { coll with format := 0x20, count := 266338304 }

theorem test_coll_open_applies : Applies up (cmdCollOpen { src := 0, opcode := 0x0501, plen := 144, auth := 4 } collBig up) := by
  have f : (((List.range 128).map (· * 32)).filter fun b => pourFits (groupOf (basicPar collBig)) (segsOf (basicPar collBig)) b &&
    decide (((segsOf (basicPar collBig)).map (segPours b (groupOf (basicPar collBig)))).sum ≤ 65536)) = [4064] := by decide +kernel
  have b : pourBytesOf (basicPar collBig) (up.freeDims (basicPar collBig).devMask.toNat).length
      (!(up.cubeHoles (basicPar collBig).devMask.toNat (basicPar collBig).devValue.toNat).isEmpty) up.free = 4064 := by
    unfold pourBytesOf
    rw [if_neg (by decide)]
    simp only [f]
    have g : ([4064].filter fun b => !(decide (algoOf (basicPar collBig) (up.freeDims (basicPar collBig).devMask.toNat).length
        ((segsOf (basicPar collBig)).map (segPours b (groupOf (basicPar collBig)))).sum b
        (!(up.cubeHoles (basicPar collBig).devMask.toNat (basicPar collBig).devValue.toNat).isEmpty) = 3) &&
        decide (((segsOf (basicPar collBig)).map (segPours b (groupOf (basicPar collBig)))).sum <
          2 ^ (up.freeDims (basicPar collBig).devMask.toNat).length))) = [4064] := by decide +kernel
    simp only [g, List.isEmpty_cons, Bool.false_eq_true, if_false, List.length_cons, List.length_nil, Nat.zero_add, Nat.mod_one]
    rfl
  have e : up.contractOf { src := 0, opcode := 0x0501, plen := 144, auth := 4 } (basicPar collBig) =
      { up.contractOf { src := 0, opcode := 0x0501, plen := 144, auth := 4 } { basicPar collBig with pourBytes := 4064 } with
        par := { basicPar collBig with group := BitVec.ofNat 16 (groupOf (basicPar collBig)) } } := by
    unfold State.contractOf
    dsimp only
    rw [b]
    rfl
  rw [← applies_iff]
  unfold cmdCollOpen cmdColl
  rw [e]
  decide +kernel

/-! ### What meets the hypotheses of the statements, chapter by chapter -/

namespace C1


set_option maxRecDepth 100000 in
theorem test_meets_RingsTakeCommandsAndAnswer :
    (let r : Fin 4 := 0; let v : BitVec 32 := 15; let s : State := up; s.pcieUp = true ∧
      v.toNat % 4096 < 2 ^ (s.ring r.val).sizeK) ∧
    (let r : Fin 4 := 0; let v : BitVec 32 := 15; let s : State := up.setRing 0 {rrProd := 15}; s.pcieUp = true ∧
      v.toNat % 4096 < 2 ^ (s.ring r.val).sizeK ∧
      (v.toNat % 4096 + 2 ^ (s.ring r.val).sizeK - (s.ring r.val).rrHead) % 2 ^ (s.ring r.val).sizeK ≤ ((s.ring r.val).rrProd + 2 ^ (s.ring r.val).sizeK - (s.ring r.val).rrHead) % 2 ^ (s.ring r.val).sizeK) := by
  refine ⟨⟨?_, ?_⟩, ⟨?_, ?_, ?_⟩⟩ <;>
    decide +kernel

end C1

namespace C2
def h0 : SpHdr := { src := 0, opcode := 0x0101, plen := 0, auth := 4 }
def cfg : SpHdr := { src := 0, opcode := 0x0201, plen := 8, auth := 4, drain := true }
def shp : SpHdr := { src := 0, opcode := 0x0483, plen := 16, auth := 4, stage := true, time := 20000 }
def eye : SpHdr := { src := 0, opcode := 0x0283, plen := 8, auth := 4 }
def scn : State := up.setLane 40 { scan := true }
def st1 : State := { up with time := { now := 30000 * 2^40}, svc := { up.svc with staged := [{ time := 20000, hdr := shp, instr := .qosShaper shp bkt, gid := 0xFFFF }] } }
def x2 : Phased := { hdr := cfg, instr := .linkConfig cfg 10 1 0xFF, phase := 0, bounds := [0, 1] }
def sx2 : State := { up with svc := { up.svc with phased := some x2 } }
def x1 : Phased := { hdr := cfg, instr := .linkConfig cfg 10 1 0xFF, phase := 0, bounds := [0] }
def sx1 : State := { up with svc := { up.svc with phased := some x1 } }
def hr : SpHdr := { h0 with opcode := 0x0401, tag := 7 }
def m1 : SpMsg := { opcode := 0x0401, tag := 7 }
def w1 : Waiting := { hdr := hr, relay := true, left := 1 }
def sw1 (w : Waiting) : State := { up with svc := { up.svc with waiting := [w] } }
def qph : SpHdr := hd fun h => cmdQosProfile h qp up
def hc (op : BitVec 16) : SpHdr := { h0 with opcode := op, tag := 7 }
def mc (op : BitVec 16) : SpMsg := { opcode := op, tag := 7 }
def stopH : SpHdr := hd fun h => cmdPressStopGraceful h 1 0 0 (running up)

set_option maxRecDepth 100000 in
theorem test_meets_AppliedCommandsAreAnswered :
    (let i : Instr := .devIdentify h0; let c : Cmd := cmdDevIdentify h0 up; let s : State := up; cmdOf s i = some c ∧
      Applies s c ∧ (c.eff s).wait = false ∧ (c.eff s).status = 0) ∧
    (let i : Instr := .pressStopGraceful stopH 1 0 0; let c : Cmd := cmdPressStopGraceful stopH 1 0 0 (running up);
      let s : State := running up; cmdOf s i = some c ∧ Applies s c ∧ (c.eff s).wait = true) := by
  refine ⟨⟨?_, ?_, ?_, ?_⟩, ⟨?_, ?_, ?_⟩⟩ <;>
    first
    | decide +kernel
    | exact (applies_iff _ _).mp (by decide +kernel)
    | rfl

set_option maxRecDepth 100000 in
theorem test_meets_RefusedCommandsOnlyReply :
    (let i : Instr := .linkEyescanStart eye 40 16; let c : Cmd := cmdLinkEyescanStart eye 40 16 scn;
      let f : Fail := {status := 0x0302}; let s : State := scn; cmdOf s i = some c ∧ s.serving c.hdr = true ∧
      s.mustWait c.hdr = false ∧ (c.hdr.src < 4 → s.otherTarget c.hdr = none) ∧ s.failure c.hdr c.spec c.checks = some f ∧
      f.status < 65536 ∧ f.status / 256 ≠ 1 ∧ f.status / 256 ≠ 4) ∧
    (let i : Instr := .devIdentify {h0 with plen := 8}; let c : Cmd := cmdDevIdentify {h0 with plen := 8} up;
      let f : Fail := {status := 0x0103, detail := 0xFFFFFFFF}; let s : State := up; cmdOf s i = some c ∧ s.serving c.hdr = true ∧
      s.mustWait c.hdr = false ∧ (c.hdr.src < 4 → s.otherTarget c.hdr = none) ∧ s.failure c.hdr c.spec c.checks = some f ∧
      f.status < 65536) ∧
    (let i : Instr := .devIdentify {h0 with plen := 8}; let c : Cmd := cmdDevIdentify {h0 with plen := 8} up; let s : State := up;
      cmdOf s i = some c ∧ State.hdrCheck c.hdr = none ∧ c.hdr.opcode.toNat = c.spec.op ∧
      c.hdr.plen.toNat ≠ c.spec.plen.getD (plenOf c.spec.widths)) := by
  refine ⟨⟨?_, ?_, ?_, ?_, ?_, ?_, ?_, ?_⟩, ⟨?_, ?_, ?_, ?_, ?_, ?_⟩, ⟨?_, ?_, ?_, ?_⟩⟩ <;>
    first
    | decide +kernel
    | rfl

set_option maxRecDepth 100000 in
theorem test_meets_StagedCommandsWaitForTheirTime :
    (let i : Instr := .qosShaper shp bkt; let c : Cmd := cmdQosShaper shp bkt up; let s : State := up; cmdOf s i = some c ∧
      Passes s c ∧ c.hdr.stage = true ∧ c.spec.epoch = false ∧ (c.claim s).status = 0 ∧ s.ns + 10000 ≤ c.hdr.time.toNat ∧
      c.hdr.time.toNat ≤ s.ns + 10 ^ 10 ∧ s.svc.staged.length < 256) ∧
    (let i : Instr := .qosShaper shp bkt; let c : Cmd := cmdQosShaper shp bkt up; let s : State := up; cmdOf s i = some c ∧
      c.spec.stage = true ∧ c.spec.epoch = false ∧ ¬ ∃ h p, i = .qosProfile h p) ∧
    (let i : Instr := .qosProfile qph qp; let c : Cmd := cmdQosProfile qph qp (up.effQosProfile qp);
      let s : State := up.effQosProfile qp; cmdOf s i = some c ∧
      c.spec.stage = true ∧ c.spec.epoch = false ∧ (c.eff s).st.sw.pools = s.sw.pools) ∧
    (let p : QosProfileP := qp; let s : State := up; (s.effQosProfile p).sw.pools ≠ s.sw.pools) ∧
    (let e : Staged := { time := 20000, hdr := shp, instr := .qosShaper shp bkt, gid := 0xFFFF }; let es : List Staged := [];
      let s : State := st1; s.svc.staged = e :: es ∧ e.time ≤ s.ns ∧ (∀ x ∈ es, s.ns < x.time)) := by
  refine ⟨⟨?_, ?_, ?_, ?_, ?_, ?_, ?_, ?_⟩, ⟨?_, ?_, ?_, ?_⟩, ⟨?_, ?_, ?_, ?_⟩, ?_, ⟨?_, ?_, ?_⟩⟩ <;>
    first
    | decide +kernel
    | (unfold Passes; decide +kernel)
    | rfl
    | (rintro ⟨_, _, h⟩; cases h)

set_option maxRecDepth 100000 in
theorem test_meets_PhasesAndOtherDevicesCompleteCommands :
    (let i : Instr := .linkConfig cfg 10 1 0xFF; let c : Cmd := cmdLinkConfig cfg 10 1 0xFF up; let s : State := up;
      cmdOf s i = some c ∧ Passes s c ∧ (c.hdr.stage = true → c.spec.epoch = true) ∧ c.hdr.drain = true ∧ c.checks.phases ≠ []) ∧
    (let x : Phased := x1; let c : Cmd := cmdLinkConfig cfg 10 1 0xFF sx1; let s : State := sx1; s.svc.phased = some x ∧
      cmdOf s x.instr = some c ∧ c.ready x.phase s = true ∧ x.phase + 1 = x.bounds.length) ∧
    (let x : Phased := x2; let c : Cmd := cmdLinkConfig cfg 10 1 0xFF sx2; let s : State := sx2; s.svc.phased = some x ∧
      cmdOf s x.instr = some c ∧ c.ready x.phase s = true ∧ x.phase + 1 < x.bounds.length) ∧
    (let x : Phased := x2; let c : Cmd := cmdLinkConfig cfg 10 1 0xFF sx2; let s : State := sx2; let status : BitVec 16 := 0x0601;
      s.svc.phased = some x ∧ cmdOf s x.instr = some c ∧ status ≠ 0) ∧
    (let w : Waiting := w1; let m : SpMsg := m1; let s : State := sw1 w1; s.svc.waiting = [w] ∧ w.hdr.tag = m.tag ∧
      w.hdr.opcode = m.opcode ∧ m.event = false ∧ w.relay = true ∧ State.moreComes w.hdr m = false ∧
      plenOf (List.map Prod.fst m.params) ≤ s.replyLimit w.hdr) ∧
    (let w : Waiting := {w1 with relay := false}; let m : SpMsg := m1; let s : State := sw1 {w1 with relay := false};
      s.svc.waiting = [w] ∧ w.hdr.tag = m.tag ∧ w.hdr.opcode = m.opcode ∧ m.event = false ∧ w.relay = false ∧
      s.svc.phased = none ∧ m.status = 0 ∧ w.hdr.opcode ≠ 772 ∧ w.hdr.opcode ≠ 774 ∧ w.hdr.opcode ≠ 1283 ∧ w.left = 1 ∧ w.refusal = none ∧ w.hdr.opcode ≠ 0x0502) ∧
    (let w : Waiting := { hdr := hc 0x0502, relay := false, left := 1 }; let m : SpMsg := mc 0x0502; let s : State := sw1 w;
      s.svc.waiting = [w] ∧ w.hdr.tag = m.tag ∧ w.hdr.opcode = m.opcode ∧ m.event = false ∧ w.relay = false ∧
      s.svc.phased = none ∧ m.status = 0 ∧ w.left = 1 ∧ w.refusal = none ∧ w.hdr.opcode = 0x0502) ∧
    (let w : Waiting := { hdr := hc 0x0501, relay := false, left := 2 }; let m : SpMsg := { mc 0x0501 with status := 0x0303 };
      let s : State := sw1 w; s.svc.waiting = [w] ∧ w.hdr.tag = m.tag ∧ w.hdr.opcode = m.opcode ∧ m.event = false ∧
      w.relay = false ∧ s.svc.phased = none ∧ 1 < m.status.toNat ∧ (w.hdr.opcode = 0x0501 ∨ w.hdr.opcode = 0x0581) ∧
      w.refusal = none ∧ 1 < w.left) ∧
    (let w : Waiting := { hdr := hc 0x0581, relay := false, left := 1, oks := [3] };
      let m : SpMsg := { mc 0x0581 with status := 0x0303 };
      let s : State := sw1 w; s.svc.waiting = [w] ∧ w.hdr.tag = m.tag ∧ w.hdr.opcode = m.opcode ∧ m.event = false ∧
      w.relay = false ∧ s.svc.phased = none ∧ 1 < m.status.toNat ∧ (w.hdr.opcode = 0x0501 ∨ w.hdr.opcode = 0x0581) ∧
      w.refusal = none ∧ w.left = 1 ∧ 3 ∈ w.oks) ∧
    (let w : Waiting := {w1 with relay := false, left := 2}; let m : SpMsg := m1;
      let s : State := sw1 {w1 with relay := false, left := 2}; s.svc.waiting = [w] ∧ w.hdr.tag = m.tag ∧
      w.hdr.opcode = m.opcode ∧ m.event = false ∧ w.relay = false ∧ s.svc.phased = none ∧ m.status = 0 ∧ w.hdr.opcode ≠ 772 ∧
      w.hdr.opcode ≠ 774 ∧ w.hdr.opcode ≠ 1283 ∧ 1 < w.left) ∧
    (let w : Waiting := {w1 with relay := false, left := 2}; let m : SpMsg := {m1 with status := 0x0601};
      let s : State := sw1 {w1 with relay := false, left := 2}; s.svc.waiting = [w] ∧ w.hdr.tag = m.tag ∧
      w.hdr.opcode = m.opcode ∧ m.event = false ∧ w.relay = false ∧ s.svc.phased = none ∧ 1 < m.status.toNat ∧
      m.status.toNat / 256 ≠ 1 ∧ m.status.toNat / 256 ≠ 4 ∧ w.hdr.opcode ≠ 1281 ∧ w.hdr.opcode ≠ 1409 ∧ w.hdr.opcode ≠ 0x0502) := by
  refine ⟨⟨?_, ?_, ?_, ?_, ?_⟩, ⟨?_, ?_, ?_, ?_⟩, ⟨?_, ?_, ?_, ?_⟩, ⟨?_, ?_, ?_⟩, ⟨?_, ?_, ?_, ?_, ?_, ?_, ?_⟩, ?_, ?_, ?_, ?_, ?_, ?_⟩ <;>
    first
    | decide +kernel
    | (unfold Passes; decide +kernel)
    | rfl

set_option maxRecDepth 100000 in
theorem test_meets_RingsTakeCommandsAndAnswer :
    (let v : BitVec 32 := 0x80000001; let s : State := up.setRing 0 {rrProd := 15}; s.pcieUp = true ∧ v.getLsbD 31 = true) ∧
    (let r : Fin 4 := 0; let e : CrEntry := {readOk := true, paramOk := true, hdr := h0};
      let s : State := up.setRing 0 { enable := true, crTail := 15 }; s.serves = some r.val ∧ e.readOk = true ∧
      State.hdrCheck ({ e.hdr with src := r.val }) = none ∧ entryCheck e = none) ∧
    (let h : SpHdr := {h0 with src := 4}; let s : State := up; s.ctl.fwReady = true ∧ s.ctl.cmdPaused = false ∧ 4 ≤ h.src ∧
      State.hdrCheck h = none ∧ h.plen.toNat ≤ 16288 ∧ (s.source h.src).outstanding < 16) ∧
    (let r : Fin 4 := 0; let m : SpMsg := { opcode := 0x0101, tag := 0 }; let ms : List SpMsg := [];
      let s : State := up.setRing 0 { enable := true, held := [{ opcode := 0x0101, tag := 0 }], rrProd := 14 };
      (s.ring r.val).enable = true ∧ (s.ring r.val).held = m :: ms ∧ 0 < State.rrFree (s.ring r.val)) := by
  refine ⟨⟨?_, ?_⟩, ⟨?_, ?_, ?_, ?_⟩, ⟨?_, ?_, ?_, ?_, ?_, ?_⟩, ⟨?_, ?_, ?_⟩⟩ <;>
    decide +kernel

set_option maxRecDepth 100000 in
theorem test_meets_StepRunsTheFrontCommand :
    (let s : State := up; s.pending = [] ∧ s.time.clkLost = false) ∧
    (let s : State := { up with time := { clkLost := true } }; s.pending = [] ∧ s.time.clkLost = true ∧ s.time.slewLeft = 0) := by
  refine ⟨?_, ?_⟩ <;>
    decide +kernel

end C2

namespace C3
def smbd : State := { up with ctl := { up.ctl with bootStage := 5 } }
def sf : State := { up with faults := { sticky := [(0x100, true), (0x101, true)] } }
def okp : State := { up with aon := { cmp1 := { lvl := true } } }
def tx : State := { (up.setLink 0 { st := .active }) with time := { lastRx := [(0, some (3, 4))], parent := some 0, quality := 1, goodRun := 7, now := 2^60 } }

set_option maxRecDepth 100000 in
theorem test_meets_FaultRegistersTakeTheirWrites :
    (let word : Fin 64 := 8; let v : BitVec 32 := 1; let s : State := sf; s.pcieUp = true ∧
      (∀ k < 32, v.getLsbD k = true → look false s.faults.force (32 * word.val + k) = false ∧ look false s.faults.level (32 * word.val + k) = false)) ∧
    (let word : Fin 64 := 6; let s : State := sf; s.pcieUp = true ∧ (∀ k < 32, s.severity (32 * word.val + k) ≤ 2)) ∧
    (let s : State := sf; s.pcieUp = true) := by
  refine ⟨⟨?_, ?_⟩, ⟨?_, ?_⟩, ?_⟩ <;>
    decide +kernel

set_option maxRecDepth 100000 in
theorem test_meets_RegistersAnswerTheirAccesses :
    (let v : BitVec 32 := 0x800005C4; let s : State := up; s.pcieUp = true ∧ v.getLsbD 31 = true ∧ v.toNat % 128 ≤ 70 ∧
      s.injRunning (v.toNat % 128) = false ∧ v.toNat / 256 % 65536 ≠ 0) ∧
    (let s : State := up; s.pcieUp = true) ∧
    (let s : State := {up with tele := {frozen := true}}; s.pcieUp = true) ∧
    (let c : ℕ := 2; let v : BitVec 32 := 1024;
      let s : State := {up with aon := {cmp2 := {lvl := true, chatter := true, inputMv := 920}}}; (c = 2 ∨ c = 3) ∧
      v.toNat = 2 ^ (4 * c + 2) ∧ (s.cmp c).chatter = true ∧ (s.cmpSide c (s.cmp c).inputMv).getD (s.cmp c).lvl = (s.cmp c).lvl) ∧
    (let off : BitVec 26 := 0x30000; let v : ℕ := 7; let s : State := {up with time := {now := 7*2^40+5}}; s.pcieUp = true ∧
      off.toNat % 4 = 0 ∧ s.reg64 off.toNat = some v) ∧
    (let off : BitVec 26 := 0x30004; let v : ℕ := 7; let h : BitVec 32 := 9;
      let s : State := {up with ctl := {up.ctl with latchHi := [(0x30000, some 9)]}, time := {now := 7*2^40+5}}; s.pcieUp = true ∧
      off.toNat % 4 = 0 ∧ 4 ≤ off.toNat ∧ s.reg64 off.toNat = none ∧ s.reg64 (off.toNat - 4) = some v ∧
      look none s.ctl.latchHi (off.toNat - 4) = some h) ∧
    (let r : Fin 4 := 2; let s : State := up; s.pcieUp = true ∧ (s.ring r.val).enable = false) ∧
    (let off : BitVec 26 := 3; let size : ℕ := 4; let s : State := up; s.pcieUp = true ∧
      (¬((size = 4 ∨ size = 8) ∧ off.toNat % size = 0))) ∧
    (let s : State := smbd; s.smbUp = true) ∧
    (let s : State := smbd; let v : BitVec 8 := 63; s.smbUp = true ∧ v.toNat < 64) ∧
    (let s : State := {smbd with smbIndex := 8}; s.smbUp = true) := by
  refine ⟨⟨?_, ?_, ?_, ?_, ?_⟩, ?_, ?_, ⟨?_, ?_, ?_, ?_⟩, ⟨?_, ?_, ?_⟩, ⟨?_, ?_, ?_, ?_, ?_, ?_⟩, ⟨?_, ?_⟩, ⟨?_, ?_⟩, ?_, ⟨?_,
    ?_⟩, ?_⟩ <;>
    decide +kernel

set_option maxRecDepth 100000 in
theorem test_meets_ComparatorsFollowTheirInputs :
    (let c : Fin 4 := 0; let s : State := up; (s.cmp c.val).chatter = false) ∧
    (let mv : ℕ := 0; let s : State := okp; (s.cmp 1).chatter = false ∧ (s.cmp 1).lvl = true ∧ mv < 630 ∧
      canon { } s.pwr.domains = true) ∧
    (let mv : ℕ := 0; let s : State := {up with ctl := { profile := 3}}; (s.cmp 3).chatter = false ∧ (s.cmp 3).lvl = false ∧
      mv < 630 ∧ (s.ctl.profile = 2 ∨ s.ctl.profile = 3)) := by
  refine ⟨?_, ⟨?_, ?_, ?_, ?_⟩, ⟨?_, ?_, ?_, ?_⟩⟩ <;>
    decide +kernel

set_option maxRecDepth 100000 in
theorem test_meets_FabricTimeCountsAndIsExchanged :
    (let s : State := up; s.time.clkLost = false ∧ s.time.slewLeft = 0) ∧
    (let s : State := {up with time := {slewLeft := -123456789, now := 2^60}}; s.time.clkLost = false) ∧
    (let s : State := up; s.ctl.fwReady = true ∧ s.ctl.cmdPaused = false) ∧
    (let s : State := up; s.severity 1890 ≤ 2) ∧
    (let s : State := {up with time := {clkLost := true}}; s.time.clkLost = true) ∧
    (let s : State := {up with tele := {events := {enable := true}}, time := {alarmAction := 2}}; s.time.alarmAction ≠ 0 ∧
      s.time.alarm ≤ s.ns) ∧
    (let o : ℤ := 50; let w : ℕ := 5*2^40; let s : State := {up with time := {stepDue := some (5*2^40)}};
      s.aon.ppsChatter = false ∧ -50 ≤ o ∧ o ≤ 50 ∧ s.time.stepDue = some w) ∧
    (let o : ℤ := -50; let s : State := {up with fab := {up.fab with fna := some 1, root := (9, 0)}}; s.aon.ppsChatter = false ∧
      -50 ≤ o ∧ o ≤ 50 ∧ s.time.stepDue = none ∧ s.isRoot = false) ∧
    (let o : ℤ := -51; let s : State := {up with time := {ppsValid := true}}; s.aon.ppsChatter = false ∧ s.time.ppsValid = true ∧
      s.time.ppsIgnored = [] ∧ 50 < o.natAbs) := by
  refine ⟨⟨?_, ?_⟩, ?_, ⟨?_, ?_⟩, ?_, ?_, ⟨?_, ?_⟩, ⟨?_, ?_, ?_, ?_⟩, ⟨?_, ?_, ?_, ?_, ?_⟩, ⟨?_, ?_, ?_, ?_⟩⟩ <;>
    decide +kernel

end C3

namespace C4
def tx : State := { (up.setLink 0 { st := .active }) with time := { lastRx := [(0, some (3, 4))], parent := some 0, quality := 1, goodRun := 7, now := 2^60 } }
def dg (d : Nat) (x : DomState) : State := (steady up).setDomain d { st := .off, going := some x }
def tier (a b : DomState) : State := [12,13,14,15].foldl (fun s d => s.setDomain d {st := a, going := some b}) (steady up)
def rl (r : Rail) : State := up.setRail 1 r

set_option maxRecDepth 100000 in
theorem test_meets_FabricTimeCountsAndIsExchanged :
    (let port : Fin 64 := 0;
      let m : TimeMsg := {msg := 2, quality := 0, rootQuality := 0, depth := 0, rootFna := 0, errPs := 0, tA := 10, tB := 20};
      let t2 : BitVec 64 := 15; let d : ℕ := 0; let s : State := tx; m.msg = 2 ∧ s.time.parent = some d ∧
      Option.map Prod.fst (look none s.fab.map port.val) = some d ∧ (t2 - m.tA).toInt.natAbs ≤ 10 ^ 6 * 2 ^ 16) ∧
    (let port : Fin 64 := 0;
      let m : TimeMsg := {msg := 3, quality := 0, rootQuality := 0, depth := 0, rootFna := 0, errPs := 0, tA := 10, tB := 200000000};
      let d : ℕ := 0; let s : State := tx; m.msg = 3 ∧ s.time.parent = some d ∧
      Option.map Prod.fst (look none s.fab.map port.val) = some d ∧ 0 ≤ ↑s.time.now + m.tA.toInt * 2 ^ 40) ∧
    (let p : ℕ := 0; let a : BitVec 64 := 3; let b : BitVec 64 := 4; let s : State := tx; p ∈ s.dimPorts ∧
      (s.link (p * 4)).st = LinkState.active ∧ (s.linkDim (p * 4)).any (fun d => (s.dim d).miswired) = false ∧
      look none s.time.lastRx p = some (a, b)) := by
  refine ⟨⟨?_, ?_, ?_, ?_⟩, ⟨?_, ?_, ?_, ?_⟩, ⟨?_, ?_, ?_, ?_⟩⟩ <;>
    decide +kernel

set_option maxRecDepth 100000 in
theorem test_meets_DomainsReachTheirStates :
    (let d : Fin 80 := 20; let x : DomState := .active; let s : State := dg 20 .active; (s.domain d.val).going = some x ∧
      (x = DomState.active → s.domMayRise d.val = true) ∧ (x ≠ .active → s.domMayFall d.val = true) ∧
      (d.val < 12 ∨ 16 ≤ d.val)) ∧
    (let d : Fin 80 := 20; let x : DomState := .off; let s : State := dg 20 .off; (s.domain d.val).going = some x ∧
      (x = DomState.active → s.domMayRise d.val = true) ∧ (x ≠ .active → s.domMayFall d.val = true) ∧
      (d.val < 12 ∨ 16 ≤ d.val)) ∧
    (let d : Fin 80 := 12; let x : DomState := .active; let s : State := tier .off .active; (s.domain d.val).going = some x ∧
      (x = DomState.active → s.domMayRise d.val = true) ∧ (x ≠ .active → s.domMayFall d.val = true) ∧ 12 ≤ d.val ∧ d.val < 16) ∧
    (let p : ℕ := 2; let s : State := {up with pwr := {up.pwr with profileOff := some 2}}; s.pwr.profileOff = some p ∧
      canon { } s.pwr.domains = true) ∧
    (let d : Fin 80 := 20; let s : State := up; (s.domain d.val).dropout = false ∧ (s.domain d.val).st = DomState.active ∧
      railOf d.val ≠ none) ∧
    (let d : Fin 80 := 20; let s : State := up.setDomain 20 {st := .active, dropout := true}; (s.domain d.val).dropout = true) ∧
    (let d : Fin 80 := 20; let s : State := up.setDomain 20 {st := .active, dropout := true}; (s.domain d.val).dropout = true ∧
      s.ctl.fwReady = true) := by
  refine ⟨⟨?_, ?_, ?_, ?_⟩, ⟨?_, ?_, ?_, ?_⟩, ⟨?_, ?_, ?_, ?_, ?_⟩, ⟨?_, ?_⟩, ⟨?_, ?_, ?_⟩, ?_, ⟨?_, ?_⟩⟩ <;>
    decide +kernel

set_option maxRecDepth 100000 in
theorem test_meets_VoltagesStayInTheirBand :
    (let r : Fin 3 := 1; let s : State := rl {commanded := true, modeRead := true, mv := 700}; (s.rail r.val).commanded = true ∧
      (s.rail r.val).dead = false ∧ s.ctl.fwReady = true ∧ (s.rail r.val).modeRead = true) ∧
    (let r : Fin 3 := 1; let mode : BitVec 8 := 0x18; let s : State := rl {commanded := true}; (s.rail r.val).commanded = true ∧
      (s.rail r.val).dead = false ∧ s.ctl.fwReady = true ∧ (s.rail r.val).modeRead = false ∧ mode.toNat / 32 = 0 ∧
      16 ≤ mode.toNat % 32) ∧
    (let r : Fin 3 := 1; let s : State := rl {commanded := true, fails := 2}; (s.rail r.val).commanded = true ∧
      (s.rail r.val).dead = false ∧ s.ctl.fwReady = true) := by
  refine ⟨⟨?_, ?_, ?_, ?_⟩, ⟨?_, ?_, ?_, ?_, ?_, ?_⟩, ⟨?_, ?_, ?_⟩⟩ <;>
    decide +kernel

set_option maxRecDepth 100000 in
theorem test_meets_PowerTemperatureAndAgeingAct :
    (let s : State := up; s.severity 1681 ≤ 2 ∧ s.severity 1884 ≤ 2) ∧
    (let mw : ℕ := 300000; let l : ℕ := 1000;
      let s : State := {up with pwr := {up.pwr with cap := 1000, domains := (List.range 80).map fun d => (d, { st := .active, setpoint := 740 })}};
      s.powerLimit = some l ∧ l < (List.take 100 (mw :: s.pwr.samples)).sum / (List.take 100 (mw :: s.pwr.samples)).length ∧
      (∃ d < 80, beatRated d = true ∧ s.domActive d = true ∧ s.effFloor d < (s.domain d).setpoint)) ∧
    (let d : Fin 80 := 3; let tj : ℤ := 1199; let s : State := up; s.aon.tripped = false ∧
      (s.setDomain d.val { s.domain d.val with tj := tj }).hottest < 1200) ∧
    (let tj : ℤ := 1200; let s : State := up; s.aon.tripped = false ∧ 1200 ≤ tj ∧ canon { } s.pwr.domains = true) ∧
    (let s : State := {up with aon := {tripped := true}}; s.aon.tripped = true) ∧
    (let s : State := up; s.ctl.fwReady = true ∧ s.severity 1716 ≤ 2) ∧
    (let s : State := up; s.ctl.profile ≠ 2 ∧ s.ctl.profile ≠ 3 ∧ s.severity 1906 ≤ 2) ∧
    (let d : Fin 80 := 20; let s : State := up; s.domActive d.val = true ∧ s.ctl.fwReady = true) ∧
    (let d : Fin 80 := 20; let rs : List ℕ := [5,6]; let s : State := up; s.domActive d.val = true ∧ s.ctl.fwReady = true ∧
      (s.domain d.val).base = [] ∧ (s.domain d.val).last = [] ∧ rs.length ≤ 4 ∧ (∀ r ∈ rs, r ≠ 0) ∧ (s.domain d.val).drifts = []) ∧
    (let d : Fin 80 := 20; let s : State := up; s.domActive d.val = true) ∧
    (let c : BitVec 8 := 3; let s : State := {up with pwr := {up.pwr with planDue := some 3}}; (c.toNat < 2 ∨ c.toNat = 3) ∧
      s.pwr.planDue = some c.toNat ∧ s.ctl.fwReady = true) ∧
    (let p : Plan := {number := 1, cause := 1, asked := 1, doms := []};
      let s : State := {up with pwr := {up.pwr with plan := some {number := 1, cause := 1, asked := 1, doms := []}}};
      s.pwr.plan = some p ∧ s.ctl.fwReady = true) := by
  refine ⟨⟨?_, ?_⟩, ⟨?_, ?_, ?_⟩, ⟨?_, ?_⟩, ⟨?_, ?_, ?_⟩, ?_, ⟨?_, ?_⟩, ⟨?_, ?_, ?_⟩, ⟨?_, ?_⟩, ⟨?_, ?_, ?_, ?_, ?_, ?_, ?_⟩, ?_,
    ⟨?_, ?_, ?_⟩, ⟨?_, ?_⟩⟩ <;>
    decide +kernel

end C4

namespace C5
def dry : Instr := .linkStatus (hd fun h => cmdLinkStatus h 10 up) 10
def gr (x : GState) : Guarantee := { gid := 4, claim := .power 100, st := x }
def gs (x : GState) : State := { up with adm := { up.adm with records := [gr x] } }
def fl : State := up.setLane 40 { failed := true }
def qps : State := up.effQosProfile qp
def gp : GatesP := { link := 40, guardBand := false, guarantee := false, claim := List.replicate 8 0, entries := [(0xFF, 100)] }
def gh : SpHdr := { (hd fun h => cmdQosGates h gp up) with time := 10000 }
def full : State := { qps with sw := { qps.sw with accounts := [(3, {used := 2^40})] } }
def ppsv : State := { up with time := { ppsValid := true } }

set_option maxRecDepth 100000 in
theorem test_meets_QueriesReplyWithTheState :
    (let h : SpHdr := hd fun h => cmdDevIdentify h up; let s : State := up; Applies s (cmdDevIdentify h s)) ∧
    (let h : SpHdr := hd fun h => cmdLinkStatus h 10 up; let s : State := up; let p : BitVec 8 := 10;
      Applies s (cmdLinkStatus h p s)) ∧
    (let h : SpHdr := hd fun h => cmdLinkEyescanRead h 40 1 0 4 up; let s : State := up; let l : BitVec 8 := 40;
      let m : BitVec 8 := 1; let a : BitVec 16 := 0; let n : BitVec 16 := 4; Applies s (cmdLinkEyescanRead h l m a n s)) ∧
    (let h : SpHdr := hd fun h => cmdFaultQuery h 0 64 up; let s : State := up; let a : BitVec 16 := 0; let n : BitVec 16 := 64;
      Applies s (cmdFaultQuery h a n s)) ∧
    (let h : SpHdr := hd fun h => cmdPressQuery h 0 0 up; let s : State := up; let p : BitVec 8 := 0; let c : BitVec 8 := 0;
      Applies s (cmdPressQuery h p c s)) ∧
    (let h : SpHdr := hd fun h => cmdBookRead h 0 0 up; let s : State := up; let a : BitVec 64 := 0; let n : BitVec 16 := 0;
      Applies s (cmdBookRead h a n s)) ∧
    (let h : SpHdr := hd fun h => cmdAdmitReport h 2 0; let s : State := up; let m : BitVec 8 := 2; let g : BitVec 16 := 0;
      Applies s (cmdAdmitReport h m g)) ∧
    (let h : SpHdr := hd fun h => cmdAdmitDryRun h dry up; let i : Instr := dry; let s : State := up;
      Applies s (cmdAdmitDryRun h i s)) ∧
    (let h : SpHdr := hd fun h => cmdAdmitReadmit h 4; let g : BitVec 16 := 4; let r : Guarantee := gr .atRisk;
      let s : State := gs .atRisk; Applies s (cmdAdmitReadmit h g) ∧
      List.find? (fun x => decide (x.gid = g.toNat)) s.adm.records = some r ∧ r.st = GState.atRisk ∧
      s.failsWith (List.filter (fun x => decide (x.st = GState.admitted)) s.adm.records) r = []) ∧
    (let h : SpHdr := hd fun h => cmdAdmitReadmit h 4; let g : BitVec 16 := 4; let r : Guarantee := gr .admitted;
      let s : State := gs .admitted; Applies s (cmdAdmitReadmit h g) ∧
      List.find? (fun x => decide (x.gid = g.toNat)) s.adm.records = some r ∧ r.st = GState.admitted) := by
  refine ⟨?_, ?_, ?_, ?_, ?_, ?_, ?_, ?_, ⟨?_, ?_, ?_, ?_⟩, ⟨?_, ?_, ?_⟩⟩ <;>
    first
    | decide +kernel
    | exact (applies_iff _ _).mp (by decide +kernel)

set_option maxRecDepth 100000 in
theorem test_meets_LinkAndQosSettingsTake :
    (let h : SpHdr := hd fun h => cmdLinkIdle h 10 true 5 up; let s : State := up; let p : BitVec 8 := 10; let en : Bool := true;
      let d : BitVec 16 := 5; Applies s (cmdLinkIdle h p en d s)) ∧
    (let h : SpHdr := hd fun h => cmdLinkEyescanStart h 40 16 up; let s : State := up; let l : BitVec 8 := 40;
      let d : BitVec 8 := 16; Applies s (cmdLinkEyescanStart h l d s)) ∧
    (let h : SpHdr := hd fun h => cmdLinkConfigExpert h ({ lane := 40, eqMode := 0xFF, taps := 3, fomMin := 0, ret := false } : LinkCfgX) up;
      let s : State := up; let p : LinkCfgX := ({ lane := 40, eqMode := 0xFF, taps := 3, fomMin := 0, ret := false } : LinkCfgX);
      (p.ret = false ∨ (s.lane p.lane.toNat).failed = false) ∧ Applies s (cmdLinkConfigExpert h p s)) ∧
    (let h : SpHdr := hd fun h => cmdQosQueue h ({ link := 40, cls := 1, weight := 100, ovh := 0, markDepth := 100 } : QosQueueP) up;
      let s : State := up; let p : QosQueueP := ({ link := 40, cls := 1, weight := 100, ovh := 0, markDepth := 100 } : QosQueueP);
      Applies s (cmdQosQueue h p s)) ∧
    (let h : SpHdr := hd fun h => cmdQosShaper h bkt up; let s : State := up; let p : BucketP := bkt;
      Applies s (cmdQosShaper h p s)) ∧
    (let h : SpHdr := hd fun h => cmdQosPolicer h bkt up; let s : State := up; let p : BucketP := bkt;
      Applies s (cmdQosPolicer h p s)) ∧
    (let h : SpHdr := hd fun h => cmdLinkConfig h 10 0 2 up; let p : BitVec 8 := 10; let sp : BitVec 8 := 0;
      let r : BitVec 8 := 2; let s : State := up; Applies s (cmdLinkConfig h p sp r s)) ∧
    (let h : SpHdr := hd fun h => cmdLinkConfigExpert h ({ lane := 40, eqMode := 0xFF, taps := 3, fomMin := 0, ret := true } : LinkCfgX) fl;
      let p : LinkCfgX := ({ lane := 40, eqMode := 0xFF, taps := 3, fomMin := 0, ret := true } : LinkCfgX); let s : State := fl;
      p.ret = true ∧ Applies s (cmdLinkConfigExpert h p s)) ∧
    (let h : SpHdr := hd fun h => cmdQosProfile h qp qps; let p : QosProfileP := qp; let s : State := qps;
      Applies s (cmdQosProfile h p s)) ∧
    (let h : SpHdr := gh; let p : GatesP := gp; let s : State := up; Applies s (cmdQosGates h p s)) := by
  refine ⟨?_, ?_, ⟨?_, ?_⟩, ?_, ?_, ?_, ?_, ⟨?_, ?_⟩, ?_, ?_⟩ <;>
    first
    | decide +kernel
    | exact (applies_iff _ _).mp (by decide +kernel)

set_option maxRecDepth 100000 in
theorem test_meets_AccountLimitsChangeAtOnce :
    (let h : SpHdr := hd fun h => cmdQosProfile h qp qps; let p : QosProfileP := qp; let s : State := qps;
      Applies s (cmdQosProfile h p s)) ∧
    (let a : ℕ := 3; let b : ℕ := 100; let c : ℕ := (up.findCask 100).getD 0; let s : State := qps;
      s.admitTest a b = State.Admit.cask c) ∧
    (let a : ℕ := 3; let s : State := full; (s.acctLimits a).2 < (s.account a).used) := by
  refine ⟨?_, ?_, ?_⟩ <;>
    first
    | decide +kernel
    | exact (applies_iff _ _).mp (by decide +kernel)

set_option maxRecDepth 100000 in
theorem test_meets_ManagementSettingsTake :
    (let h : SpHdr := hd fun h => cmdDevNegotiate h 1 3 up; let v : BitVec 8 := 1; let f : BitVec 256 := 3; let s : State := up;
      Applies s (cmdDevNegotiate h v f s)) ∧
    (let h : SpHdr := hd fun h => cmdHarvestCfg h 1000 up; let s : State := up; let iv : BitVec 32 := 1000;
      Applies s (cmdHarvestCfg h iv s)) ∧
    (let h : SpHdr := hd fun h => cmdHarvestCfgExpert h 1000 0 8 up; let s : State := up; let iv : BitVec 32 := 1000;
      let sel : BitVec 256 := 0; let v : BitVec 8 := 8; Applies s (cmdHarvestCfgExpert h iv sel v s)) ∧
    (let h : SpHdr := hd fun h => cmdFaultCfg h 0x100 1 [2] up; let s : State := up; let a : BitVec 16 := 0x100;
      let n : BitVec 16 := 1; let sev : List (BitVec 8) := [2]; sev.length = n.toNat ∧ Applies s (cmdFaultCfg h a n sev s)) ∧
    (let h : SpHdr := hd fun h => cmdCelArb h 0 3 1 10 false up; let s : State := up; let st : BitVec 8 := 0;
      let rq : BitVec 8 := 3; let lv : BitVec 8 := 1; let qt : BitVec 8 := 10; let pre : Bool := false;
      Applies s (cmdCelArb h st.toNat rq.toNat lv.toNat qt.toNat pre s)) ∧
    (let h : SpHdr := hd fun h => cmdPwrCap h 500000 up; let s : State := up; let cap : BitVec 32 := 500000;
      Applies s (cmdPwrCap h cap s) ∧ s.freeGid ≠ s.pwr.capGid) ∧
    (let h : SpHdr := hd fun h => cmdTimeSetStep h 0 1000 up; let s : State := up; let m : BitVec 8 := 0;
      let x : BitVec 80 := 1000; m = 0 ∧ Applies s (cmdTimeSetStep h m x s)) ∧
    (let h : SpHdr := hd fun h => cmdTimeSetSlew h 0 up; let s : State := up; let x : BitVec 80 := 0;
      Applies s (cmdTimeSetSlew h x s)) ∧
    (let h : SpHdr := hd fun h => cmdTimeAlarmSet h 100 1 up; let s : State := up; let a : BitVec 64 := 100;
      let k : BitVec 8 := 1; k ≠ 0 ∧ Applies s (cmdTimeAlarmSet h a k s)) ∧
    (let h : SpHdr := hd fun h => cmdTimeAlarmCancel h 0 up; let s : State := up; let a : BitVec 64 := 0;
      Applies s (cmdTimeAlarmCancel h a s)) ∧
    (let h : SpHdr := hd fun h => cmdFaultInjectLevel0 h 0 0x100 5 up; let s : State := up; let l : BitVec 8 := 0;
      let src : BitVec 16 := 0x100; let n : BitVec 16 := 5; l = 0 ∧ n ≠ 0 ∧
      Applies s (cmdFaultInjectLevel0 h l src n s)) ∧
    (let h : SpHdr := hd fun h => cmdFaultInjectLevel0 h 0 0x100 0 up; let s : State := up; let l : BitVec 8 := 0;
      let src : BitVec 16 := 0x100; l = 0 ∧ Applies s (cmdFaultInjectLevel0 h l src 0 s)) ∧
    (let h : SpHdr := hd fun h => cmdFaultInjectLevel1 h 0x44 1 up; let s : State := up; let g : BitVec 16 := 0x44;
      let n : BitVec 16 := 1; n ≠ 0 ∧ Applies s (cmdFaultInjectLevel1 h g n s)) := by
  refine ⟨?_, ?_, ?_, ⟨?_, ?_⟩, ?_, ⟨?_, ?_⟩, ⟨?_, ?_⟩, ?_, ⟨?_, ?_⟩, ?_, ⟨?_, ?_, ?_⟩, ⟨?_, ?_⟩, ⟨?_, ?_⟩⟩ <;>
    first
    | decide +kernel
    | exact (applies_iff _ _).mp (by decide +kernel)

set_option maxRecDepth 100000 in
theorem test_meets_PowerAndResetCommandsTake :
    (let h : SpHdr := hd fun h => cmdPwrProfileExpert h 20 2 0 up; let d : BitVec 8 := 20; let k : BitVec 8 := 2;
      let f : BitVec 16 := 0; let s : State := up; Applies s (cmdPwrProfileExpert h d k f s) ∧ canon { } s.pwr.domains = true ∧
      (d.toNat < 12 ∨ 16 ≤ d.toNat)) ∧
    (let h : SpHdr := hd fun h => cmdPwrProfile h 0 up; let k : BitVec 8 := 0; let s : State := up;
      let c : Cmd := cmdPwrProfile (hd fun h => cmdPwrProfile h 0 up) 0 up;
      let i : Instr := .pwrProfile (hd fun h => cmdPwrProfile h 0 up) 0; k.toNat < 2 ∧
      (c, i) ∈ [(cmdPwrProfile h k s, Instr.pwrProfile h k), (cmdDevProfile h k s, Instr.devProfile h k)] ∧ Applies s c) ∧
    (let s : State := up.effQosProfile (defaultQos 1); let h : SpHdr := hd fun h => cmdDevProfile h 1 s; let k : BitVec 8 := 1;
      k.toNat < 2 ∧ Applies s (cmdDevProfile h k s)) ∧
    (let h : SpHdr := hd fun h => cmdDevReset h 0 0 up; let u : BitVec 8 := 0; let s : State := up;
      Applies s (cmdDevReset h 0 u s)) ∧
    (let h : SpHdr := hd fun h => cmdDevResetControlComplex h 0 up; let u : BitVec 8 := 0; let s : State := up;
      Applies s (cmdDevResetControlComplex h u s) ∧ s.domActive 1 = true) ∧
    (let h : SpHdr := hd fun h => cmdDevResetUnit h 12 up; let n : Fin 64 := 0; let s : State := up;
      Applies s (cmdDevResetUnit h (BitVec.ofNat 8 (12 + n.val)) s)) ∧
    (let h : SpHdr := hd fun h => cmdGradePin h 56 up; let g : BitVec 8 := 56; let s : State := up; Applies s (cmdGradePin h g s)) := by
  refine ⟨⟨?_, ?_, ?_⟩, ⟨?_, ?_, ?_⟩, ⟨?_, ?_⟩, ?_, ⟨?_, ?_⟩, ?_, ?_⟩ <;>
    first
    | decide +kernel
    | exact (applies_iff _ _).mp (by decide +kernel)
    | exact .head _

end C5

namespace C6
def dx : DiscoverX := ({ ndim := 1, twisted := false, marked := false, rootFna := 0, map := (0, 0) :: List.replicate 63 (0xFF, 0) } : DiscoverX)
def su : State := sess up
def ech : SpHdr := { (hd fun h => cmdFabEpochCommit h 0 0 false su) with time := 50000 }
def sth (f : SpHdr → Cmd) : SpHdr := { hd f with stage := true }
def pinned : State := su.setBank (!su.fab.live) { su.bank (!su.fab.live) with pins := [(3, [1])], partitions := [(1,1)], redirects := [(2, some 4)] }
def rx1 : RouteX := { kind := 1, mask := 1, value := 0 }
def rx2 : RouteX := { kind := 2, dstFna := 1, cls := 3, hops := 2, seq := [1,0,1] }
def rx3 : RouteX := { kind := 3, dst := 1, toFna := 0 }
def rx4 : RouteX := { kind := 4, first := 0, entries := [1, 0] }
def ep (a : BitVec 8) : EndpointP := { identity := 0, port := 10, port2 := 0xFF, fna2 := 0, echo := 0xFF, portAuth := a }
def wu : State := windowed up
def collD : CollP := { coll with devMask := 3, deadline := 1000000 }
def collP : CollP := { coll with pin := 1 }
def op : State := opened up
def collW : CollP := { coll with devMask := 3 }
def opw : State := (up.effOpen (up.contractOf (hd fun h => cmdCollOpenExpert h collW up) collW)).2
def opc : Contract := up.contractOf (hd fun h => cmdCollOpenExpert h coll up) coll
def sop : SyncOpenP := { syncId := 3, syncOp := 1, devMask := 0, devValue := 0, slots := 0, presses := 3, deadline := 0 }
def sun : SyncOpenP := { syncId := 3, syncOp := 0, devMask := 0, devValue := 0, slots := 0, presses := 3, deadline := 0 }
def bu : State := bound up
def badf : CollP := { coll with format := 0x05 }

set_option maxRecDepth 100000 in
theorem test_meets_FabricCommandsTake :
    (let h : SpHdr := hd fun h => cmdFabDiscoverExpert h dx up; let p : DiscoverX := dx; let s : State := up;
      Applies s (cmdFabDiscoverExpert h p s) ∧ s.svc.phased = none) ∧
    (let h : SpHdr := hd fun h => cmdFabEpochStage h 0 0 up; let m : BitVec 18 := 0; let v : BitVec 18 := 0; let s : State := up;
      Applies s (cmdFabEpochStage h m v s) ∧ s.named m.toNat v.toNat = true) ∧
    (let h : SpHdr := ech; let m : BitVec 18 := 0; let v : BitVec 18 := 0; let f : Bool := false; let s : State := su;
      Applies s (cmdFabEpochCommit h m v f s) ∧ s.named m.toNat v.toNat = true ∧ s.ns ≤ h.time.toNat) ∧
    (let h : SpHdr := sth fun h => cmdFabRoute h 7 pinned; let k : BitVec 8 := 7; let s : State := pinned;
      Applies s (cmdFabRoute h k s)) ∧
    (let h : SpHdr := sth fun h => cmdFabRouteExpert h rx1 pinned; let p : RouteX := rx1; let s : State := pinned;
      Applies s (cmdFabRouteExpert h p s)) ∧
    (let h : SpHdr := hd fun h => cmdFabEndpoint h (ep 2) up; let p : EndpointP := ep 2; let s : State := up;
      Applies s (cmdFabEndpoint h p s) ∧ p.port2 = 255 ∧ State.fna2Of p = none) ∧
    (let h : SpHdr := hd fun h => cmdFabWindow h 0 0 0 win up; let m : BitVec 18 := 0; let v : BitVec 18 := 0;
      let a : BitVec 2 := 0; let p : WindowP := win; let s : State := up; Applies s (cmdFabWindow h m v a p s)) ∧
    (let h : SpHdr := hd fun h => cmdFabWindow h 1 1 0 win up; let m : BitVec 18 := 1; let v : BitVec 18 := 1;
      let a : BitVec 2 := 0; let p : WindowP := win; let s : State := up; Applies s (cmdFabWindow h m v a p s) ∧
      s.named m.toNat v.toNat = false) ∧
    (let h : SpHdr := hd fun h => cmdFabWindow h 0 0 2 win wu; let m : BitVec 18 := 0; let v : BitVec 18 := 0;
      let a : BitVec 2 := 2; let p : WindowP := win; let s : State := wu; Applies s (cmdFabWindow h m v a p s) ∧
      s.named m.toNat v.toNat = true ∧ a = 2) := by
  refine ⟨⟨?_, ?_⟩, ⟨?_, ?_⟩, ⟨?_, ?_, ?_⟩, ?_, ?_, ⟨?_, ?_, ?_⟩, ?_, ⟨?_, ?_⟩, ⟨?_, ?_, ?_⟩⟩ <;>
    first
    | decide +kernel
    | exact (applies_iff _ _).mp (by decide +kernel)

set_option maxRecDepth 100000 in
theorem test_meets_CollectiveCommandsTake :
    (let h : SpHdr := hd fun h => cmdCollOpenExpert h coll up; let p : CollP := coll; let s : State := up;
      Applies s (cmdCollOpenExpert h p s) ∧ p.pin = 255) ∧
    (let h : SpHdr := hd fun h => cmdCollOpenExpert h collP up; let p : CollP := collP; let s : State := up;
      Applies s (cmdCollOpenExpert h p s) ∧ p.pin ≠ 255) ∧
    (let h : SpHdr := hd fun h => cmdCollClose h 5 opw; let k : BitVec 32 := 5; let s : State := opw;
      Applies s (cmdCollClose h k s) ∧ (∀ (c : Contract), s.contract k.toNat = some c → c.pending = [] ∧ c.rounds = []) ∧
      (State.forwarded h = true ∨ s.contractOthers k.toNat = [])) ∧
    (let h : SpHdr := hd fun h => cmdCollClose h 5 op; let k : BitVec 32 := 5; let s : State := op;
      Applies s (cmdCollClose h k s) ∧ (∀ (c : Contract), s.contract k.toNat = some c → c.pending = [] ∧ c.rounds = []) ∧
      State.forwarded h = false ∧ s.contractOthers k.toNat ≠ [] ∧ s.svc.phased = none) ∧
    (let h : SpHdr := hd fun h => cmdCollQuery h 5 0 1 op; let k : BitVec 32 := 5; let a : BitVec 32 := 0; let n : BitVec 16 := 1;
      let c : Contract := opc; let s : State := op; Applies s (cmdCollQuery h k a n s) ∧ s.contract k.toNat = some c) ∧
    (let h : SpHdr := hd fun h => cmdSyncOpen h sop up; let p : SyncOpenP := sop; let s : State := up; p.syncOp ≠ 0 ∧
      p.deadline = 0 ∧ Applies s (cmdSyncOpen h p s)) ∧
    (let h : SpHdr := hd fun h => cmdSyncUnbind h sun bu; let p : SyncOpenP := sun; let s : State := bu;
      Applies s (cmdSyncUnbind h p s)) := by
  refine ⟨⟨?_, ?_⟩, ⟨?_, ?_⟩, ⟨?_, ?_, ?_⟩, ⟨?_, ?_, ?_, ?_, ?_⟩, ⟨?_, ?_⟩, ⟨?_, ?_, ?_⟩, ?_⟩ <;>
    first
    | decide +kernel
    | exact (applies_iff _ _).mp (by decide +kernel)

set_option maxRecDepth 100000 in
theorem test_meets_OtherFormatCodesAreMalformed :
    (let h : SpHdr := hd fun h => cmdCollOpen h badf up; let s : State := up; s.serving h = true ∧ s.mustWait h = false ∧
      (h.src < 4 → s.otherTarget h = none)) ∧
    (let h : SpHdr := hd fun h => cmdCollOpen h badf up; let p : CollP := badf; let s : State := up; s.serving h = true ∧
      s.mustWait h = false ∧ (h.src < 4 → s.otherTarget h = none) ∧ formatOk p.format.toNat = false) ∧
    (let h : SpHdr := hd fun h => cmdCollOpenExpert h badf up; let p : CollP := badf; let s : State := up; s.serving h = true ∧
      s.mustWait h = false ∧ (h.src < 4 → s.otherTarget h = none) ∧ (∃ g ∈ segsOf p, formatOk g.format.toNat = false)) := by
  refine ⟨⟨?_, ?_, ?_⟩, ⟨?_, ?_, ?_, ?_⟩, ⟨?_, ?_, ?_, ?_⟩⟩ <;>
    decide +kernel

end C6

namespace C7
def runS (i : Instr) (s : State) : State := match exec i s with | .next t => t | _ => s
def flitOf (t : State) : Flit := (t.out.findSome? fun o => match o with | .flit _ f _ => some f | _ => none).getD {}
def injOf (t : State) : Option Bool := (t.out.findSome? fun o => match o with | .flit _ _ i => some i | _ => none).getD none
def trOf (t : State) : Training := (t.out.findSome? fun o => match o with | .training _ f => some f | _ => none).getD ⟨0,0,0,0,0,0,[]⟩
def lk (x : Link) : State := up.setLink 40 x
def rep (n : BitVec 12) : Replay := { flit := { seq := n, ftype := 1 }, ends := [] }
def tslot : Slot := [4,0,16,0] ++ List.replicate 12 0
def fl0 : Flit := { ftype := 1, seq := 0, pvc := 3, sync := { syncId := 5, op := 1 }, slots := [tslot, tslot, List.replicate 16 7] ++ List.replicate 34 (List.replicate 16 0) }
def idl : State := { ((lk { st := .active }).setPort 10 { idleEn := true, idleDelay := 0 }) with time := { now := 2^60 } }
def wk : State := lk { st := .active, txIdle := true, syncOut := [{ syncId := 5, op := 1 }] }
def tr (p r w m : BitVec 8) : Training := ⟨p, r, w, m, 100, 7, []⟩
def pm : State := lk { st := .param, paramSent := 3, paramRecv := 1, width := 4 }
def scn : State := up.setLane 40 { scan := true, scanFor := some { src := 0, opcode := 0x0283, plen := 8, auth := 4 } }

def good (l : Fin 256) (f : Flit) (s : State) : Bool :=
  decide ((s.link l.val).st = .active) && !(s.link l.val).rxLow && goodCrc f

set_option maxRecDepth 100000 in
theorem test_meets_FlitsAreAcceptedInOrderOrRetried :
    (let l : Fin 256 := 40; let f : Flit := sealFlit { fl0 with credits := [(3, 2)] };
      let s : State := lk { st := .active, farCredits := [(3, 2)], landing := [(3, [[tslot]])] };
      good l f s = true ∧ f.ftype = 1 ∧ f.seq = (s.link l.val).rxSeq ∧
      (landSlots f.slots (look 0 (s.link l.val).rxLeft f.pvc.toNat) false).2.2 = false ∧
      ((landSlots f.slots (look 0 (s.link l.val).rxLeft f.pvc.toNat) false).1 ≠ [] → 0 < look 0 (s.link l.val).farCredits f.pvc.toNat)) ∧
    (let l : Fin 256 := 40; let f : Flit := sealFlit { fl0 with seq := 7 };
      let s : State := lk { st := .active, farCredits := [(3, 2)], landing := [(3, [[tslot]])] };
      good l f s = true ∧ f.ftype = 1 ∧ f.seq ≠ (s.link l.val).rxSeq) ∧
    (let l : Fin 256 := 40; let f : Flit := { fl0 with crc := 1 }; let s : State := lk { st := .active };
      (s.link l.val).st = LinkState.active ∧ (s.link l.val).rxLow = false ∧ goodCrc f = false) ∧
    (let l : Fin 256 := 40; let f : Flit := sealFlit { ack := 1 };
      let s : State := lk { st := .active, txSeq := 3, replay := [rep 0, rep 1, rep 2] }; good l f s = true) ∧
    (let l : Fin 256 := 40; let s : State := lk { st := .active }; (s.link l.val).st = LinkState.active ∧
      (s.link l.val).rxLow = false ∧ (s.link l.val).badRun < 7) ∧
    (let l : Fin 256 := 40; let s : State := lk { st := .active, badRun := 7, replay := [rep 0] };
      (s.link l.val).st = LinkState.active ∧ (s.link l.val).rxLow = false ∧ 7 ≤ (s.link l.val).badRun ∧
      s.severity (4 * (l.val / 4) + 1) ≤ 2) ∧
    (let l : Fin 256 := 40; let s : State := lk { st := .lock, goodTraining := 5 };
      (s.link l.val).st ∈ [LinkState.base, .eq, .lock, .param] ∧ (s.link l.val).rxLow = false) ∧
    (let l : Fin 256 := 40; let s : State := lk { st := .active, requests := 3, badRun := 7 };
      (s.link l.val).st = LinkState.active ∧ 0 < (s.link l.val).requests ∧ (s.link l.val).requests < 4) ∧
    (let l : Fin 256 := 40; let s : State := lk { st := .active, requests := 4, replay := [rep 0]  };
      (s.link l.val).st = LinkState.active ∧ 4 ≤ (s.link l.val).requests ∧ s.severity (4 * (l.val / 4) + 1) ≤ 2) ∧
    (let l : Fin 256 := 40; let f : Flit := sealFlit { ack := 0, ftype := 2, slots := [[2, 0] ++ List.replicate 14 0] };
      let s : State := lk { st := .active, txSeq := 3, replay := [rep 0, rep 1, rep 2] };
      let kept := (s.link l.val).replay.filter (fun r => linkAfter r.flit.seq f.ack);
      good l f s = true ∧ linkAfter f.ack (s.link l.val).lastAck = true ∧
      (kept.any fun r => decide (r.flit.seq = BitVec.ofNat 12 (leNat (List.take 2 (f.slots.headD []))))) = true) ∧
    (let l : Fin 256 := 40;
      let s : State := { lk { st := .active, txSeq := 3, replay := [rep 0, rep 1, rep 2] } with time := { now := 10000 * 2 ^ 40 } };
      (s.link l.val).st = LinkState.active ∧ (s.link l.val).replay ≠ [] ∧ (s.link l.val).ackAt + 10000 ≤ State.mono s) := by
  refine ⟨⟨?_, ?_, ?_, ?_, ?_⟩, ⟨?_, ?_, ?_⟩, ⟨?_, ?_, ?_⟩, ?_, ⟨?_, ?_, ?_⟩, ⟨?_, ?_, ?_, ?_⟩, ⟨?_, ?_⟩, ⟨?_, ?_, ?_⟩, ⟨?_,
    ?_, ?_⟩, ⟨?_, ?_, ?_⟩, ⟨?_, ?_, ?_⟩⟩ <;>
    decide +kernel

set_option maxRecDepth 100000 in
theorem test_meets_TransmittersFollowTheirQueues :
    (let l : Fin 256 := 40; let s : State := lk { st := .active, sinceRm := 1023 }; (s.link l.val).st = LinkState.active ∧
      (s.link l.val).txIdle = false ∧ (s.link l.val).relock = none) ∧
    (let l : Fin 256 := 40; let s : State := lk { st := .active, zp5208 := true }; (s.link l.val).st = LinkState.active ∧
      (s.link l.val).txIdle = false ∧ (s.link l.val).relock = none ∧ (s.link l.val).sinceRm < 1023 ∧
      (s.link l.val).reqDue = [] ∧ (s.link l.val).resend = [] ∧ (s.link l.val).syncOut = [] ∧ (s.link l.val).owed = [] ∧
      (s.link l.val).txSlots = []) ∧
    (let l : Fin 256 := 40; let x : SyncSlot := { syncId := 5, op := 1 }; let xs : List SyncSlot := [];
      let s : State := lk { st := .active, txSeq := 3, syncOut := [{ syncId := 5, op := 1 }], farReplay := 4 };
      (s.link l.val).st = LinkState.active ∧ (s.link l.val).txIdle = false ∧ (s.link l.val).relock = none ∧
      (s.link l.val).sinceRm < 1023 ∧ (s.link l.val).reqDue = [] ∧ (s.link l.val).resend = [] ∧
      (s.link l.val).syncOut = x :: xs ∧ (s.link l.val).replay.length < s.replayDepth l.val) ∧
    (let l : Fin 256 := 40; let r : Replay := rep 1; let rs : List Replay := [rep 2];
      let s : State := lk { st := .active, txSeq := 3, rxSeq := 5, replay := [rep 1, rep 2], resend := [rep 1, rep 2] };
      (s.link l.val).st = LinkState.active ∧ (s.link l.val).txIdle = false ∧ (s.link l.val).relock = none ∧
      (s.link l.val).sinceRm < 1023 ∧ (s.link l.val).reqDue = [] ∧ (s.link l.val).resend = r :: rs) ∧
    (let l : Fin 256 := 40; let q : BitVec 12 := 5; let qs : List (BitVec 12) := [];
      let s : State := lk { st := .active, reqDue := [5] }; (s.link l.val).st = LinkState.active ∧ (s.link l.val).txIdle = false ∧
      (s.link l.val).relock = none ∧ (s.link l.val).sinceRm < 1023 ∧ (s.link l.val).reqDue = q :: qs) ∧
    (let l : Fin 256 := 40; let s : State := lk { st := .active, badRun := 4 }; (s.link l.val).st = LinkState.active ∧
      (s.link l.val).rxLow = false) ∧
    (let l : Fin 256 := 40; let s : State := idl; (s.link l.val).st = LinkState.active ∧ (s.link l.val).txIdle = false ∧
      (s.port (l.val / 4)).idleEn = true ∧ s.idleOk l.val = true ∧
      (s.link l.val).lastSeq + (s.port (l.val / 4)).idleDelay * 1000 ≤ s.mono) ∧
    (let l : Fin 256 := 40; let s : State := wk; (s.link l.val).st = LinkState.active ∧ (s.link l.val).txIdle = true ∧
      s.idleOk l.val = false) ∧
    (let l : Fin 256 := 40; let s : State := lk { st := .active, sinceRm := 1023 }; (s.link l.val).st = LinkState.active ∧
      (s.link l.val).txIdle = false ∧ (s.link l.val).relock = none ∧ 1023 ≤ (s.link l.val).sinceRm) := by
  refine ⟨⟨?_, ?_, ?_⟩, ⟨?_, ?_, ?_, ?_, ?_, ?_, ?_, ?_, ?_⟩, ⟨?_, ?_, ?_, ?_, ?_, ?_, ?_, ?_⟩, ⟨?_, ?_, ?_, ?_, ?_, ?_⟩,
    ⟨?_, ?_, ?_, ?_, ?_⟩, ⟨?_, ?_⟩, ⟨?_, ?_, ?_, ?_, ?_⟩, ⟨?_, ?_, ?_⟩, ⟨?_, ?_, ?_, ?_⟩⟩ <;>
    decide +kernel

set_option maxRecDepth 100000 in
theorem test_meets_BringUpFollowsItsStates :
    (let l : Fin 256 := 40; let s : State := lk {}; (s.link l.val).st = LinkState.detect ∧ (s.port (l.val / 4)).held = false ∧
      s.domActive (4 + l.val / 32) = true ∧ l.val ∈ s.linksOf (l.val / 4) ∧ (∀ i < 4, s.healthy l.val i = true)) ∧
    (let l : Fin 256 := 40; let x : Training := tr 1 15 7 0; let r : ℕ := 3; let w : ℕ := 4; let s : State := lk { st := .base };
      (s.link l.val).st = LinkState.base ∧ x.tphase = 1 ∧
      commonRate (s.link l.val).tryRate x.rates (decide (x.mode = 1)) = some r ∧
      commonWidth (s.link l.val).width x.widths = some w) ∧
    (let l : Fin 256 := 40; let x : Training := tr 1 15 7 1; let r : ℕ := 2; let w : ℕ := 4; let s : State := lk { st := .base };
      (s.link l.val).st = LinkState.base ∧ x.tphase = 1 ∧
      commonRate (s.link l.val).tryRate x.rates (decide (x.mode = 1)) = some r ∧
      commonWidth (s.link l.val).width x.widths = some w) ∧
    (let l : Fin 256 := 40; let s : State := lk { st := .lock, goodTraining := 3 }; (s.link l.val).st = LinkState.lock) ∧
    (let l : Fin 256 := 40; let s : State := lk { st := .lock, goodTraining := 15 }; (s.link l.val).st = LinkState.lock) ∧
    (let l : Fin 256 := 40; let s : State := pm; (s.link l.val).st = LinkState.param ∧ 3 ≤ (s.link l.val).paramSent ∧
      1 ≤ (s.link l.val).paramRecv ∧ (s.link l.val).sinceRm < 1023) ∧
    (let n : Fin 256 := 40; let s : State := lk { st := .active }; (s.lane n.val).failed = false) ∧
    (let n : Fin 256 := 40; let height : ℕ := 10; let s : State := lk { st := .active }; (s.lane n.val).failed = false ∧
      (s.lane n.val).scan = false ∧ (s.link (s.linkOfLane n.val)).st = LinkState.active ∧
      (s.lane n.val).fomMin ≤ min 65535 (1536 * height)) ∧
    (let n : Fin 256 := 40; let s : State := scn; (s.lane n.val).scan = true) ∧
    (let l : Fin 256 := 40; let s : State := lk { st := .base }; (s.link l.val).st = LinkState.base) ∧
    (let l : Fin 256 := 40; let s : State := lk { st := .eq }; (s.link l.val).st = LinkState.eq ∧ 0 < (s.link l.val).tryRate) ∧
    (let l : Fin 256 := 40; let s : State := lk { st := .eq, tryRate := 0 }; (s.link l.val).st = LinkState.eq ∧
      (s.link l.val).tryRate = 0 ∧ s.severity (4 * (l.val / 4) + 1) ≤ 2) ∧
    (let l : Fin 256 := 40; let s : State := lk { st := .lock }; (s.link l.val).st = LinkState.lock) ∧
    (let l : Fin 256 := 40; let s : State := lk { st := .param }; (s.link l.val).st = LinkState.param) := by
  refine ⟨⟨?_, ?_, ?_, ?_, ?_⟩, ⟨?_, ?_, ?_, ?_⟩, ⟨?_, ?_, ?_, ?_⟩, ?_, ?_, ⟨?_, ?_, ?_, ?_⟩, ?_, ⟨?_, ?_, ?_, ?_⟩, ?_, ?_,
    ⟨?_, ?_⟩, ⟨?_, ?_, ?_⟩, ?_, ?_⟩ <;>
    decide +kernel

set_option maxRecDepth 100000 in
theorem test_meets_HigherRatesAreTriedFirst :
    (let l : Fin 256 := 40; let x : Training := tr 1 15 7 0; let q : ℕ := 1; let w : ℕ := 4; let s : State := lk { st := .base };
      (s.link l.val).st = LinkState.base ∧ x.tphase = 1 ∧
      (q ≤ 3 ∧ q ≤ (s.link l.val).tryRate ∧ x.rates.getLsbD q = true ∧ ¬(x.mode = 1 ∧ q = 3)) ∧
      commonWidth (s.link l.val).width x.widths = some w) ∧
    (let l : Fin 256 := 40; let s : State := lk { st := .eq, rate := 0, tryRate := 0 }; (s.link l.val).st = LinkState.eq ∧
      (s.link l.val).rate = 0 ∧ (s.link l.val).tryRate = (s.link l.val).rate ∧ Mild s (4 * (l.val / 4) + 1)) := by
  refine ⟨⟨?_, ?_, ?_, ?_⟩, ⟨?_, ?_, ?_, ?_⟩⟩ <;>
    first
    | decide +kernel
    | (unfold Mild; decide +kernel)

end C7

namespace C8
def runS (i : Instr) (s : State) : State := match exec i s with | .next t => t | _ => s
def qps : State := { up.effQosProfile qp with time := { now := 2^60 } }
def pk : Packet := { ty := 2, tc := 3, dst := 256, src := 512, dcseq := 9, tspec := List.replicate 16 0, payload := List.replicate 20 7 }
def lnd : State := (qps.setLink 0 { st := .active, landing := [(State.vcOf 3 false, [packetSlots pk])], credits := [(State.vcOf 3 false, 5)] }).setLink 4 { st := .active, credits := [(State.vcOf 3 false, 5)] }
def cst : State := { lnd with sw := { lnd.sw with limits := [(0,0),(0,0),(0,0)] } }
def shut : State := { cst with sw := { cst.sw with closed := [(0,true),(1,true),(2,true),(3,true)] } }
def sel : State := (qps.setLink 0 { st := .active }).setCask 3 { alloc := true, refs := 1, pkt := some pk }
def og : State := { lnd with sw := { lnd.sw with originWait := [([4], pk)] } }
def qe (c : Nat) (t : Nat := 0) : QEntry := { cask := c, dst := 256, enq := t }
def escS : State := lnd.setCask 3 { alloc := true, refs := 1, pkt := some { pk with src := 0 }, escapeSince := some 5 }
def pac : State := lnd.setCask 3 { alloc := true, refs := 1, pkt := some { pk with src := 0 }, paceAt := some 5 }
def qs (k : Nat) (c : Nat) (tag : Nat) (s : State) : State := (s.setCask c { alloc := true, refs := 1, pkt := some pk, stamp := State.mono s }).setQueue k { aLane := [qe c (State.ns s)], tag := tag, rate := 1000, burst := 100, tokens := 10000000, tokenAt := State.ns s }
def lk0 : State := qps.setLink 0 { st := .active, credits := [(State.vcOf 0 false, 5),(State.vcOf 3 false, 5),(State.vcOf 4 false, 5),(State.vcOf 7 false, 5)], width := 4, rate := 3 }
def sch : State := qs 3 30 7 (qs 4 40 7 lk0)
def sch7 : State := qs 3 30 7 (qs 7 70 70 lk0)
def uu := Refilled sch 0
def tt := runS (.egressSelect 0) sch
def uu7 := Refilled sch7 0
def tt7 := runS (.egressSelect 0) sch7
def gt : State := qps.setGate 0 { live := { entries := [(1,100),(2,50)], start := 0 } }
def gt3 : State := { gt with time := { now := 2^60 + 1000 * 2^40 } }
def gt2 : State := qps.setGate 0 { next := some ({ entries := [(1,100),(2,50)] }, State.ns qps) }
def old : State := (qps.setCask 3 { alloc := true, refs := 1, pkt := some pk, stamp := 0 }).setQueue 3 { aLane := [qe 3, qe 3] }
def lee : State := (qps.setCask 3 { alloc := true, refs := 1, pkt := some pk, firstLeft := some 0 }).setQueue 3 { aLane := [qe 3, qe 4] }
def unr : State := (qps.setCask 3 { alloc := true, refs := 1, pkt := some pk, stamp := 0 }).setQueue 323 { aLane := [{ cask := 3, dst := 256, chan := some (4, 9) }], lackSince := some 0 }

def isCask : State.Admit → Bool
  | .cask _ => true
  | _ => false

set_option maxRecDepth 100000 in
theorem test_meets_PacketsAreAdmittedByTheirAccount :
    (let s : State := qps; let b : ℕ := 100; let c : ℕ := 0; (∀ k < 4, s.poolCasks k ≤ 2 ^ 20) ∧ s.findCask b = some c) ∧
    (let l : Fin 256 := 0; let vc : Fin 16 := ⟨State.vcOf 3 false, by decide⟩; let p : Packet := pk; let n : ℕ := 4;
      let d : ℕ := 0; let c : ℕ := 0; let s : State := lnd; HeadPacket s l.val vc.val n p ∧ Transit s l.val d p ∧
      s.findCask (storedLen p) = some c ∧
      (s.account (l.val * 8 + State.cls p)).used + caskSize (caskPool c) ≤ (s.acctLimits (l.val * 8 + State.cls p)).2 ∧
      ((s.sw.shared + s.drawnPart (l.val * 8 + State.cls p) (caskSize (caskPool c)) : Nat) : Int) ≤ s.sharedPool) ∧
    (let l : Fin 256 := 0; let vc : Fin 16 := ⟨State.vcOf 3 false, by decide⟩; let p : Packet := pk; let n : ℕ := 4;
      let d : ℕ := 0; let s : State := cst; HeadPacket s l.val vc.val n p ∧ Transit s l.val d p ∧
      (∀ (c : ℕ), s.admitTest (l.val * 8 + State.cls p) (storedLen p) ≠ State.Admit.cask c) ∧ Mild s 256 ∧ Mild s 257) ∧
    (HeadPacket shut 0 (State.vcOf 3 false) 4 pk ∧ Transit shut 0 0 pk ∧ shut.findCask (storedLen pk) = none) ∧
    (let l : Fin 256 := 7; let k : Fin 256 := 4; let vc : Fin 16 := 0; let p : Packet := pk; let c : ℕ := 0; let s : State := og;
      (look [] (s.link l.val).landing vc.val).flatten.length < 2 ∧ s.sw.originWait = [([k.val], p)] ∧
      (s.link k.val).st = LinkState.active ∧ s.admitTest 2049 (storedLen p) = State.Admit.cask c) := by
  refine ⟨⟨?_, ?_⟩, ⟨?_, ?_, ?_, ?_, ?_⟩, ⟨?_, ?_, ?_, ?_, ?_⟩, ⟨?_, ?_, ?_⟩, ⟨?_, ?_, ?_, ?_⟩⟩ <;>
    first
    | decide +kernel
    | (unfold Mild; decide +kernel)
    | (unfold HeadPacket; decide +kernel)
    | (unfold Transit; decide +kernel)
    | exact fun c h => absurd ((congrArg isCask h).trans rfl : isCask _ = true) (by decide +kernel)

set_option maxRecDepth 100000 in
theorem test_meets_TheScheduledHeadLeaves :
    (let c : ℕ := 3; let l : ℕ := 0; let esc : Bool := false; let p : Packet := { pk with src := 0 }; let s : State := escS;
      (s.cask c).paceAt = none ∧ (s.cask c).escapeSince ≠ none ∧ (s.cask c).pkt = some p ∧ (s.epochBank p.epoch).2.2 = false ∧
      s.choose (s.bank (s.epochBank p.epoch).1) ((s.cask c).toward.getD (State.routeTo (s.bank (s.epochBank p.epoch).1) p)) (State.cls p) = State.Choice.take l esc) ∧
    (let c : ℕ := 3; let x : ℕ := 5; let s : State := pac; (s.cask c).paceAt = some x ∧ x ≤ s.mono ∧ (s.cask c).pkt = some { pk with src := 0 }) ∧
    (let c : ℕ := 3; let x : ℕ := 5; let s : State := escS; (s.cask c).escapeSince = some x ∧ x + 20000 ≤ s.mono ∧
      (s.cask c).refs = 1 ∧ (s.cask c).retired = false ∧ (s.cask c).uncharged = false) ∧
    (let l : Fin 256 := 0; let k : ℕ := 3; let e : QEntry := qe 30 (State.ns lk0); let esc : Bool := false; let p : Packet := pk;
      let s : State := sch; k < 8 ∧ (s.link l.val).st = LinkState.active ∧ s.sw.originWait = [] ∧
      (∀ j < 8, ∀ x ∈ List.take 1 (s.queue (l.val * 8 + j)).eLane ++ List.take 1 (s.queue (l.val * 8 + j)).aLane, s.aged x.cask = false ∧ ∀ (y : Packet), (s.cask x.cask).pkt = some y → s.gateUnfit l.val j y = false) ∧
      (Refilled s l.val).eligible l.val k = some (e, esc) ∧ (k < 7 → (Refilled s l.val).eligible l.val 7 = none) ∧
      (∀ j < 7, k < 7 → j ≠ k → (Refilled s l.val).eligible l.val j ≠ none → (s.queue (l.val * 8 + k)).tag < (s.queue (l.val * 8 + j)).tag ∨
      (s.queue (l.val * 8 + k)).tag = (s.queue (l.val * 8 + j)).tag ∧ k < j) ∧ (s.cask e.cask).pkt = some p ∧
      (s.cask e.cask).err = 0 ∧ 1 ≤ (s.cask e.cask).refs) ∧
    (let l : Fin 256 := 0; let pre : List (ℕ × ℕ) := []; let post : List (ℕ × ℕ) := [(2,50)]; let m : ℕ := 1; let d : ℕ := 100;
      let n : ℕ := State.ns gt / 1500; let x : ℕ := State.ns gt % 1500; let s : State := gt;
      (s.gate l.val).live.entries = pre ++ (m, d) :: post ∧ x < d * 10 ∧
      s.ns = (s.gate l.val).live.start + n * (List.map (fun e => e.2 * 10) (s.gate l.val).live.entries).sum + (List.map (fun e => e.2 * 10) pre).sum + x) ∧
    (let l : Fin 256 := 0; let g : GateList := { entries := [(1,100),(2,50)] }; let x : ℕ := State.ns qps; let s : State := gt2;
      (s.gate l.val).next = some (g, x) ∧ x ≤ s.ns) := by
  refine ⟨⟨?_, ?_, ?_, ?_, ?_⟩, ⟨?_, ?_, ?_⟩, ⟨?_, ?_, ?_, ?_, ?_⟩, ⟨?_, ?_, ?_, ?_, ?_, ?_, ?_, ?_, ?_, ?_⟩, ⟨?_, ?_, ?_⟩, ⟨?_,
    ?_⟩⟩ <;>
    first
    | decide +kernel
    | (unfold Mild; decide +kernel)

set_option maxRecDepth 100000 in
theorem test_meets_QueuesDiscardWhatIsTooOld :
    (let l : Fin 256 := 0; let k : Fin 8 := 3; let e : QEntry := qe 3; let es : List QEntry := [qe 3]; let s : State := old;
      (s.queue (l.val * 8 + k.val)).eLane = [] ∧ (s.queue (l.val * 8 + k.val)).aLane = e :: es ∧
      s.mono > (s.cask e.cask).stamp + s.sw.ageing * 100000 ∧ e.chan = none) ∧
    (let c : ℕ := 3; let x : ℕ := 0; let s : State := lee; (s.cask c).firstLeft = some x ∧ x + s.sw.lees * 1000 ≤ s.mono) ∧
    (let l : Fin 256 := 40; let k : Fin 8 := 3; let x : ℕ := 0; let s : State := unr;
      (s.queue (l.val * 8 + k.val)).lackSince = some x ∧ x + s.sw.ageing * 100000 < s.mono ∧ ∃ e ∈ (s.queue (l.val * 8 + k.val)).aLane, e.chan = some (4, 9)) ∧
    (let c : ℕ := 5; ∀ s ∈ [qps.setCask 5 { alloc := true, gen := true }, qps.setCask 5 { alloc := true }, qps.setCask 5 { alloc := true, candidate := true },
        (qps.setCask 5 { alloc := true }).setQueue 3 { aLane := [qe 5] }, qps.setQueue 3 { aLane := [qe 5] }],
      canon { } s.sw.casks = true ∧ (s.cask c).retired = false) ∧
    (qps.sw.audit = 0 ∧ 5 ∉ (qps.setCask 5 { alloc := true }).referenced ∧ 5 ∈ (qps.setQueue 3 { aLane := [qe 5] }).referenced) ∧
    (let c : ℕ := 3; let s : State := old.setCask 3 { alloc := true, err := 1 }; (s.cask c).alloc = true ∧
      (s.cask c).retired = false ∧ (s.cask c).err ≠ 2) ∧
    ((old.cask 3).err = 0) ∧
    (let c : ℕ := 3; let s : State := old; (s.cask c).alloc = true ∧ (s.cask c).retired = false ∧ (s.cask c).uncharged = false) := by
  refine ⟨⟨?_, ?_, ?_, ?_⟩, ⟨?_, ?_⟩, ⟨?_, ?_, ?_⟩, ?_, ⟨?_, ?_, ?_⟩, ⟨?_, ?_, ?_⟩, ?_, ⟨?_, ?_, ?_⟩⟩ <;> decide +kernel

end C8

namespace C9
def runS (i : Instr) (s : State) : State := match exec i s with | .next t => t | _ => s
def qps : State := { up.effQosProfile qp with time := { now := 2^60 } }
def pk : Packet := { ty := 2, tc := 3, dst := 0, src := 512, dcseq := 9, tspec := List.replicate 16 0, payload := List.replicate 20 7 }
def arr (h : EgCh) (q : BitVec 32) : State := (qps.setEgCh 2 h).setCask 3 { alloc := true, refs := 1, pkt := some { pk with dcseq := q } }
def pw (t : State) : Packet := (t.sw.originWait.getLast?.map Prod.snd).getD pk
def rt (n : Nat) (ag : Bool := false) : Retained := { seq := n, pkt := { pk with dst := 256, src := 0, dcseq := BitVec.ofNat 32 n }, sentAt := 1000, again := ag }
def ic (c : InCh) : State := { qps.setInCh 1 c with cel := { qps.cel with retained := 1000 } }
def bs : State := ic { live := true, next := 7, base := some 5, baseSent := 2, kept := [rt 5, rt 6] }

set_option maxRecDepth 100000 in
theorem test_meets_TheEgressSideOrdersAndAcknowledges :
    (let f : ℕ := 2; let c : ℕ := 3; let p : Packet := { pk with dcseq := 9 };
      let s : State := arr { live := true, expected := 8 } 9; (s.cask c).pkt = some p ∧ (s.egCh f).live = true ∧
      (s.egCh f).takeover = none) ∧
    (let f : BitVec 18 := 2;
      let s : State := arr { live := true, expected := 12, acked := 8, marks := [(9,true)], ackDue := true } 3;
      (s.egCh f.toNat).ackDue = true) ∧
    (let f : BitVec 18 := 2; let s : State := arr { live := true, expected := 8, held := [(12, some 3)] } 3;
      (s.egCh f.toNat).live = true ∧ (s.egCh f.toNat).held ≠ [] ∧ (s.egCh f.toNat).gapSent ≠ some (s.egCh f.toNat).expected) ∧
    (let f : ℕ := 2; let c : ℕ := 3; let p : Packet := { pk with dcseq := 9 };
      let s : State := arr { live := true, expected := 8 } 9; (s.cask c).pkt = some p ∧ (s.egCh f).live = true ∧
      (s.egCh f).takeover = none ∧ 0 < seqDiff p.dcseq.toNat (s.egCh f).expected ∧
      seqDiff p.dcseq.toNat (s.egCh f).expected < 4096 ∧ look none (s.egCh f).held p.dcseq.toNat = none ∧
      look none (s.egCh f).held (s.egCh f).expected = none) ∧
    (let f : ℕ := 2; let c : ℕ := 3; let p : Packet := { pk with dcseq := 7 };
      let s : State := arr { live := true, expected := 8 } 7; (s.cask c).pkt = some p ∧ (s.egCh f).live = true ∧
      (s.egCh f).takeover = none ∧ 2 ^ 32 - 4096 ≤ seqDiff p.dcseq.toNat (s.egCh f).expected ∧ p.dcseq.toNat ∉ (s.egCh f).lost) ∧
    (let f : ℕ := 2; let c : ℕ := 3; let p : Packet := { pk with dcseq := 200000 };
      let s : State := arr { live := true, expected := 8 } 200000; (s.cask c).pkt = some p ∧ (s.egCh f).live = true ∧
      (s.egCh f).takeover = none ∧ 4096 ≤ seqDiff p.dcseq.toNat (s.egCh f).expected ∧
      seqDiff p.dcseq.toNat (s.egCh f).expected < 2 ^ 32 - 4096) := by
  refine ⟨⟨?_, ?_, ?_⟩, ?_, ⟨?_, ?_, ?_⟩, ⟨?_, ?_, ?_, ?_, ?_, ?_, ?_⟩, ⟨?_, ?_, ?_, ?_, ?_⟩, ⟨?_, ?_, ?_, ?_, ?_⟩⟩ <;>
    decide +kernel

set_option maxRecDepth 100000 in
theorem test_meets_TheIngressSideRetainsAndRecovers :
    (let e : BitVec 18 := 1; let q : BitVec 32 := 5; let n : Fin 65 := 2;
      let s : State := ic { live := true, next := 7, kept := [rt 5, rt 6], expiries := 3 }; 0 < n.val ∧
      List.filter (fun r => !seqAfter r.seq q.toNat) (s.inCh (s.chanOf e.toNat q.toNat)).kept ≠ [] ∧
      (∀ r ∈ List.filter (fun r => !seqAfter r.seq q.toNat) (s.inCh (s.chanOf e.toNat q.toNat)).kept, r.relay = none) ∧
      look [] s.fab.takeover (s.chanOf e.toNat q.toNat) = [] ∧
      (∀ h ∈ s.fab.holds, ∀ r ∈ List.filter (fun r => !seqAfter r.seq q.toNat) (s.inCh (s.chanOf e.toNat q.toNat)).kept, h.2.probe ≠ some r.seq) ∧
      (∀ h ∈ s.fab.holds, (s.hold h.1).marked = true ∨ (s.hold h.1).packets = []) ∧ (∀ m ∈ s.fab.relayWait, m.1 ≠ e.toNat)) ∧
    (let e : BitVec 18 := 1; let s : State := bs; let k : ℕ := 1; let c : InCh := bs.inCh 1;
      List.find? (fun x => decide (State.keyEgress x.1 = e.toNat) && x.2.base.isSome) s.fab.inCh = some (k, c) ∧
      (∀ r ∈ c.kept, r.cask = none ∧ r.relay = none ∧ s.mirrorPending e.toNat r.seq = false)) ∧
    (let e : BitVec 18 := 1; let s : State := ic { live := true, next := 7, kept := [rt 5, rt 6] };
      List.find? (fun x => decide (State.keyEgress x.1 = e.toNat) && x.2.base.isSome) s.fab.inCh = none) ∧
    (let e : BitVec 18 := 1; let s : State := ic { live := true, next := 7, kept := [rt 5, rt 6] }; (s.inCh e.toNat).live = true) ∧
    (let e : BitVec 18 := 1; let q : BitVec 32 := 6; let r : Retained := rt 6;
      let s : State := ic { live := true, next := 7, kept := [rt 5, rt 6] };
      List.find? (fun x => decide (x.seq = q.toNat)) (s.inCh (s.chanOf e.toNat q.toNat)).kept = some r ∧
      (s.inCh (s.chanOf e.toNat q.toNat)).base = none ∧ r.unsent = false) ∧
    (let e : BitVec 18 := 1; let k : ℕ := 1; let r : Retained := rt 5; let rs : List Retained := [rt 6];
      let s : State := ic { live := true, next := 7, kept := [rt 5, rt 6], rto := 300000 };
      List.filter (fun x => decide (State.keyEgress x.1 = e.toNat) && x.2.live) s.fab.inCh = [(k, s.inCh k)] ∧
      (s.inCh k).base = none ∧ (s.inCh k).kept = r :: rs ∧ r.unsent = false) ∧
    (let e : BitVec 18 := 1; let q : BitVec 32 := 6; let r : Retained := rt 6;
      let s : State := (ic { live := true, next := 7, kept := [rt 5, rt 6] }).setHold 256 { packets := [pk], probe := none };
      List.find? (fun x => decide (x.seq = q.toNat)) (s.inCh (s.chanOf e.toNat q.toNat)).kept = some r ∧ r.relay = none ∧
      storedLen r.pkt ≤ s.cel.retained ∧ (s.hold r.pkt.dst.toNat).probe ≠ some r.seq) ∧
    (((ic { live := true, next := 7, kept := [rt 5, rt 6] }).setHold 256 { probe := some 6 }).hold 256).probe = some (rt 6).seq ∧
    (let a : BitVec 26 := 256; let p : Packet := (rt 6).pkt; let ps : List Packet := [pk];
      let s : State := (ic { live := true, next := 7 }).setHold 256 { marked := true, packets := [(rt 6).pkt, pk] };
      (s.hold a.toNat).packets = p :: ps ∧ (s.hold a.toNat).marked = true ∧ (s.hold a.toNat).probe = none ∧
      (s.inCh (s.inKey p !fromEndpoint p)).live = true ∧ (s.inCh (s.inKey p !fromEndpoint p)).base = none ∧
      (s.inCh (s.inKey p !fromEndpoint p)).next < 2 ^ 32 ∧ (s.inCh (s.inKey p !fromEndpoint p)).kept.length < 4096 ∧
      storedLen p ≤ s.cel.retained ∧ s.mirrorOf p = none) ∧
    (let n : BitVec 16 := 3; let r : BitVec 64 := 1; let s : State := qps.setLimiter 3 { rate := some 1, line := 100000 };
      (s.limiter n.toNat).rate = some r ∧ (∀ (x : ℕ), (s.limiter n.toNat).lastMark = some x → x + 4000 ≤ s.mono)) ∧
    (let n : BitVec 16 := 3; let s : State := qps.setLimiter 3 { rate := none, line := 100000, lastMark := some 0, lineAt := some 5 };
      (s.limiter n.toNat).rate = none ∧ (∀ (x : ℕ), (s.limiter n.toNat).lastMark = some x → x + 1000000 ≤ s.mono) ∧
      (∀ (x : ℕ), (s.limiter n.toNat).lineAt = some x → x + 1000000 ≤ s.mono)) ∧
    (let p : Packet := (rt 6).pkt; let s : State := qps; s.retentionRoom (storedLen p) = true) ∧
    (let e : BitVec 18 := 1; let q : BitVec 32 := 9; let c : ℕ := 3; let p : Packet := pk; let s : State := let s := arr {} 9;
      { s with fab := { s.fab with mirrorWait := [(1, 9, some 3)] } };
      List.find? (fun m => decide (m.1 = e.toNat) && decide (m.2.1 = q.toNat)) s.fab.mirrorWait = some (e.toNat, q.toNat, some c) ∧
      (s.inCh (s.chanOf e.toNat q.toNat)).base = none ∧ (s.cask c).pkt = some p ∧ (s.limiter (State.limiterOf p)).rate = none) ∧
    (let e : BitVec 18 := 1; let k : ℕ := 1; let r : Retained := rt 5; let rs : List Retained := [rt 6];
      let s : State := ic { live := true, next := 7, kept := [rt 5, rt 6], rto := 300000 };
      List.filter (fun x => decide (State.keyEgress x.1 = e.toNat) && x.2.live) s.fab.inCh = [(k, s.inCh k)] ∧
      (s.inCh k).base = none ∧ (s.inCh k).kept = r :: rs ∧ r.unsent = false ∧ (s.inCh k).expiries < 15) ∧
    (let e : BitVec 18 := 1; let k : ℕ := 1; let r : Retained := rt 5; let rs : List Retained := [rt 6];
      let s : State := ic { live := true, next := 7, kept := [rt 5, rt 6], rto := 300000, expiries := 15 };
      List.filter (fun x => decide (State.keyEgress x.1 = e.toNat) && x.2.live) s.fab.inCh = [(k, s.inCh k)] ∧
      (s.inCh k).base = none ∧ (s.inCh k).kept = r :: rs ∧ r.unsent = false ∧ 15 ≤ (s.inCh k).expiries) := by
  refine ⟨⟨?_, ?_, ?_, ?_, ?_, ?_, ?_⟩, ⟨?_, ?_⟩, ?_, ?_, ⟨?_, ?_, ?_⟩, ⟨?_, ?_, ?_, ?_⟩, ⟨?_, ?_, ?_, ?_⟩, ?_,
    ⟨?_, ?_, ?_, ?_, ?_, ?_, ?_, ?_, ?_⟩, ⟨?_, ?_⟩, ⟨?_, ?_, ?_⟩, ?_, ⟨?_, ?_, ?_, ?_⟩, ⟨?_, ?_, ?_, ?_, ?_⟩,
    ⟨?_, ?_, ?_, ?_, ?_⟩⟩ <;> decide +kernel

end C9

namespace C10
def runS (i : Instr) (s : State) : State := match exec i s with | .next t => t | _ => s
def pk : Packet := { ty := 2, tc := 3, dst := 0, src := 512, dcseq := 9, tspec := List.replicate 16 0, payload := List.replicate 20 7 }
def pw (t : State) : Packet := (t.sw.originWait.getLast?.map Prod.snd).getD pk
def di (x : DiscState) : State := ((up.setLink 0 { st := .active }).setLink 4 { st := .active }).setFab { up.fab with disc := x, ndim := 2, root := (0, false, 0) }
def dj (x : DiscState) : State := (di x).setFab { (di x).fab with root := (9, true, 0), coords := [(1, { msg := 3, fna := 3, fnaValid := true, rootSerial := 9 }), (1, { msg := 3, fna := 2, fnaValid := true, rootSerial := 9 })] }
def opc : Contract := up.contractOf (hd fun h => cmdCollOpenExpert h coll up) coll
def asg : State := (dj .assign).setFab { (dj .assign).fab with discFor := some { src := 0, opcode := 0x0301, plen := 8, auth := 4 } }
def rm (f : Bool) : DiscMsg := { msg := 2, rootSerial := 9, rootMarked := f, rootHops := 3 }
def cm (f : BitVec 18) : DiscMsg := { msg := 3, fna := f, fnaValid := true, rootSerial := 9 }
def hm (f : BitVec 26) (v : BitVec 32) : DiscMsg := { msg := 4, subject := f, value := v }
def am : DiscMsg := { msg := 5, serial := 77 }
def cx : ContribP := { ckey := 5, pour := 0, contributor := 256, seg := 0, phase := 0, step := 0, empty := false, replay := false, ieee := 0, elems := 16, round := 0, gen := 0, saturated := false, poison := false, data := List.replicate 64 1, chan := none }
def cxm : ContribP := { ckey := 0xFFFFFFFF, pour := 0xFFFF, contributor := 0x1FF, seg := 15, phase := 7, step := 0xFF, empty := true, replay := true, ieee := 31, elems := 0xFFFF, round := 0xFFFF, gen := 0xFF, saturated := true, poison := true, data := List.replicate 67 1, chan := none, missing := true }
def cxs : List ContribP := [cx, cxm, { cx with ckey := 0x12345678 }, { cx with pour := 0xABCD }, { cx with contributor := 0x0AA }, { cx with seg := 9, phase := 2 }, { cx with step := 0x5A }, { cx with empty := true }, { cx with replay := true }, { cx with missing := true, ieee := 21 }, {cx with saturated := true}, {cx with poison := true}, {cx with elems := 0x1234, round := 0x5678, gen := 0x9A}]
def pks : List Packet := [pk, { ty := 255, tc := 7, esc := true, epoch := true, cm := true, devt := true, dst := BitVec.allOnes 26, src := BitVec.allOnes 26, dcseq := BitVec.allOnes 32, tspec := (List.range 16).map (BitVec.ofNat 8 ·), payload := List.replicate 33 9 }, {pk with esc := true}, {pk with epoch := true}, {pk with cm := true}, {pk with devt := true, payload := []}, {pk with dst := 0x2345678, src := 0x1234567, dcseq := 0x89ABCDEF}]
def ctr : Contract := { opc with vat := some 1 }
def cs (c : Contract) : State := { ((up.effQosProfile qp).setContract 5 (some c)).setVat 1 { key := some 5 } with time := { now := 2^70 } }
def hasp : Contract := { ctr with rounds := [{ no := 0, pours := [(0, { bitmap := 2^257 })] }] }
def smallw : Contract := { ctr with window := 1 }
def pend : Contract := { ctr with pending := [(cx, 5)] }
def pend2 : Contract := { ctr with pending := [({cx with chan := some (2,3)}, 5)] }

set_option maxRecDepth 100000 in
theorem test_meets_DiscoveryPassesItsStates :
    (let p : Fin 64 := 1; let m : DiscMsg := { msg := 1, dim := 1, member := 0, ndim := 2, serial := 5 }; let d : ℕ := 1;
      let k : ℕ := 0; let s : State := di .ready; m.msg = 1 ∧ s.portDim p.val = some (d, k) ∧ s.fab.disc ≠ DiscState.init ∧
      m.dim.toNat = d ∧ m.member.toNat = k ∧ m.twisted = s.fab.twisted ∧ m.ndim.toNat = s.fab.ndim ∧ (s.dim d).down = false) ∧
    (let p : Fin 64 := 1; let m : DiscMsg := { msg := 1, dim := 0, member := 0, ndim := 2, serial := 5 }; let d : ℕ := 1;
      let k : ℕ := 0; let s : State := di .ready; m.msg = 1 ∧ s.portDim p.val = some (d, k) ∧ s.fab.disc ≠ DiscState.init ∧
      (m.dim.toNat ≠ d ∨ m.member.toNat ≠ k ∨ m.twisted ≠ s.fab.twisted ∨ m.ndim.toNat ≠ s.fab.ndim)) ∧
    (let s : State := di .init; s.fab.disc = DiscState.init ∧ (∃ p ∈ s.dimPorts, (s.link (p * 4)).st = .active ∧ (s.port p).hello = false)) ∧
    (let s : State := di .elect; s.fab.disc = DiscState.elect ∧ (∀ d < s.fab.ndim, s.dimUp d = true) ∧
      s.fab.root.1 = s.ident.serial) ∧
    (let s : State := dj .elect; let m : DiscMsg := cm 3; let post : List (ℕ × DiscMsg) := [(1, cm 2)]; s.fab.disc = DiscState.elect ∧
      (∀ d < s.fab.ndim, s.dimUp d = true) ∧ s.fab.root.1 ≠ s.ident.serial ∧ s.fab.coords = [] ++ (1, m) :: post ∧
      m.rootSerial = s.fab.root.1 ∧ s.portDim 1 = some (1, 0) ∧ (s.dim 1).miswired = false ∧
      s.partner (cm 2).fna.toNat 1 ≠ s.partner m.fna.toNat 1) ∧
    (let s : State := (dj .elect).setFab { (dj .elect).fab with coords := [] }; s.fab.disc = DiscState.elect ∧
      (∀ d < s.fab.ndim, s.dimUp d = true) ∧ s.fab.root.1 ≠ s.ident.serial ∧
      (∀ c ∈ s.fab.coords, c.2.rootSerial ≠ s.fab.root.1)) ∧
    (let h : SpHdr := { src := 0, opcode := 0x0301, plen := 8, auth := 4 }; let s : State := asg; s.fab.disc = DiscState.assign ∧
      s.fab.discFor = some h ∧ Answerable s h (plenOf [32, 8, 64, 32])) ∧
    (let p : Fin 64 := 1; let m : DiscMsg := rm true; let s : State := di .elect; m.msg = 2 ∧ s.portDim p.val ≠ none ∧
      (s.fab.disc = DiscState.init ∨ s.fab.disc = DiscState.elect) ∧ s.fab.marked = false ∧
      State.betterRoot (m.rootSerial, m.rootMarked) (s.fab.root.1, s.fab.root.2.1) = true) ∧
    (let p : Fin 64 := 1; let m : DiscMsg := rm false; let s : State := dj .elect; m.msg = 2 ∧ s.portDim p.val ≠ none ∧
      (s.fab.disc = DiscState.init ∨ s.fab.disc = DiscState.elect) ∧ s.fab.marked = false ∧
      State.betterRoot (m.rootSerial, m.rootMarked) (s.fab.root.1, s.fab.root.2.1) = false ∧
      (m.rootMarked = true → m.rootSerial ∈ s.fab.seenMarked)) ∧
    (let p : Fin 64 := 1; let m : DiscMsg := rm true; let s : State := (di .elect).setFab { (di .elect).fab with marked := true };
      m.msg = 2 ∧ s.portDim p.val ≠ none ∧ s.fab.disc ≠ DiscState.idle ∧ s.fab.marked = true ∧ m.rootMarked = true ∧
      m.rootSerial ≠ s.ident.serial) ∧
    (let p : Fin 64 := 1; let m : DiscMsg := cm 3; let d : ℕ := 1; let k : ℕ := 0; let s : State := dj .elect; m.msg = 3 ∧
      m.fnaValid = true ∧ s.portDim p.val = some (d, k) ∧ (s.dim d).miswired = false ∧ (s.fab.disc = DiscState.init ∨
      s.fab.disc = DiscState.elect)) ∧
    (let p : Fin 64 := 1; let m : DiscMsg := cm 3; let d : ℕ := 1; let k : ℕ := 0; let s : State := dj .assign; m.msg = 3 ∧
      m.fnaValid = true ∧ s.portDim p.val = some (d, k) ∧ (s.dim d).miswired = false ∧ s.fab.disc = DiscState.assign ∧
      m.rootSerial = s.fab.root.1 ∧ (∀ d < s.fab.ndim, s.dimUp d = true)) ∧
    (let p : Fin 64 := 1; let m : DiscMsg := cm 3; let d : ℕ := 1; let k : ℕ := 0; let s : State := dj .ready; m.msg = 3 ∧
      m.fnaValid = true ∧ s.portDim p.val = some (d, k) ∧ (s.dim d).miswired = false ∧ s.fab.disc = DiscState.ready ∧
      m.rootSerial = s.fab.root.1 ∧ s.partner m.fna.toNat d ≠ s.own) := by
  refine ⟨⟨?_, ?_, ?_, ?_, ?_, ?_, ?_, ?_⟩, ⟨?_, ?_, ?_, ?_⟩, ⟨?_, ?_⟩, ⟨?_, ?_, ?_⟩, ⟨?_, ?_, ?_, ?_, ?_, ?_, ?_, ?_⟩,
    ⟨?_, ?_, ?_, ?_⟩, ⟨?_, ?_, ?_⟩, ⟨?_, ?_, ?_, ?_, ?_⟩, ⟨?_, ?_, ?_, ?_, ?_, ?_⟩, ⟨?_, ?_, ?_, ?_, ?_, ?_⟩, ⟨?_, ?_, ?_, ?_, ?_⟩,
    ⟨?_, ?_, ?_, ?_, ?_, ?_, ?_⟩, ⟨?_, ?_, ?_, ?_, ?_, ?_, ?_⟩⟩ <;>
    first
    | decide +kernel
    | (unfold Answerable; decide +kernel)

set_option maxRecDepth 100000 in
theorem test_meets_HolesEndpointsAndEpochsFollowTheirRules :
    (let d : Fin 18 := 1; let x : ℕ := 0; let u : ℕ := 0;
      let s : State := ((di .ready).setDim 1 { helloAt := some 0 }).setTime { now := 2^70 }; s.fab.fna = some u ∧
      (s.dim d.val).down = false ∧ (s.dim d.val).helloAt = some x ∧ x + 3000000 ≤ s.mono) ∧
    (let d : Fin 18 := 1; let u : ℕ := 0; let s : State := (di .ready).setLink 4 {}; s.fab.fna = some u ∧
      (s.dim d.val).down = false ∧ s.bundle d.val ≠ [] ∧
      (∀ p ∈ s.bundle d.val, (s.link (p * 4)).st ≠ LinkState.active)) ∧
    (let p : Fin 64 := 1; let m : DiscMsg := hm 3 0; let s : State := di .ready; m.msg = 4 ∧ s.portDim p.val ≠ none ∧
      m.subject.toNat < 2 ^ s.fab.ndim ∧ m.value.getLsbD 0 = false ∧ s.fab.fna ≠ some m.subject.toNat ∧
      look false s.fab.holes m.subject.toNat = false) ∧
    (let p : Fin 64 := 1; let m : DiscMsg := hm 3 1;
      let s : State := (di .ready).setFab { (di .ready).fab with holes := [(3, true)] }; m.msg = 4 ∧ s.portDim p.val ≠ none ∧
      m.subject.toNat < 2 ^ s.fab.ndim ∧ m.value.getLsbD 0 = true ∧ look false s.fab.holes m.subject.toNat = true) ∧
    (let p : Fin 64 := 1; let m : DiscMsg := hm 0 0; let s : State := di .ready; m.msg = 4 ∧ s.portDim p.val ≠ none ∧
      m.subject.toNat < 2 ^ s.fab.ndim ∧ m.value.getLsbD 0 = false ∧ s.fab.fna = some m.subject.toNat ∧ s.ctl.quiesced = false) ∧
    (let s : State := (dj .ready).setFab { (dj .ready).fab with recompute := true, holes := [(3, true)] };
      s.fab.recompute = true ∧ (s.bank s.fab.live).explicit = false) ∧
    (let l : Fin 256 := 40; let m : DiscMsg := am; let s : State := di .ready; let a : ℕ := 40; m.msg = 5 ∧
      s.linkDim l.val = none ∧ (s.slot l.val).quarantined = false ∧ (s.port (l.val / 4)).quarantined = false ∧ m.serial ≠ 0 ∧
      (∀ e ∈ s.fab.slots, e.1 ≠ l.val → e.2.identity ≠ some m.serial) ∧ s.fab.disc = DiscState.ready ∧
      ({ s with fab := { s.fab with slots := put { } s.fab.slots l.val ({ s.slot l.val with identity := some m.serial }) } } : State).slotAddress l.val = some a) ∧
    (let l : Fin 256 := 40; let m : DiscMsg := am; let s : State := di .elect; m.msg = 5 ∧ s.linkDim l.val = none ∧
      (s.slot l.val).quarantined = false ∧ (s.port (l.val / 4)).quarantined = false ∧ m.serial ≠ 0 ∧
      (∀ e ∈ s.fab.slots, e.1 ≠ l.val → e.2.identity ≠ some m.serial) ∧ s.fab.disc ≠ DiscState.ready) ∧
    (let l : Fin 256 := 40; let m : DiscMsg := am; let s : State := (di .ready).setSlot 44 { identity := some 77 };
      let e : ℕ × EpSlot := (44, { identity := some 77 }); m.msg = 5 ∧ s.linkDim l.val = none ∧
      (s.slot l.val).quarantined = false ∧ (s.port (l.val / 4)).quarantined = false ∧ m.serial ≠ 0 ∧ e ∈ s.fab.slots ∧
      e.1 ≠ l.val ∧ e.2.identity = some m.serial ∧ e.2.quarantined = false ∧ look none s.fab.dual m.serial.toNat = none) ∧
    (let p : Fin 64 := 1; let m : DiscMsg := { msg := 7, subject := 3*256+5, fna := 2 }; let d : ℕ := 1;
      let s : State := (di .ready).setFab { (di .ready).fab with fna := some 1 }; m.msg = 7 ∧ s.portDim p.val ≠ none ∧
      d < s.fab.ndim ∧ s.partner s.own d = m.subject.toNat / 256 ∧ s.own ≠ m.fna.toNat ∧ (7, m.subject.toNat, m.fna.toNat) ∉ s.fab.seen) ∧
    (let p : Fin 64 := 1; let m : DiscMsg := { msg := 8, subject := 5, fna := 2, value := 77 }; let s : State := di .ready; m.msg = 8 ∧
      s.portDim p.val ≠ none ∧ (8, m.subject.toNat, m.value.toNat) ∉ s.fab.seen ∧ s.takeoverFits 5 77 = false ∧
      (s.setEgCh 5 { live := true, expected := 70 }).takeoverFits 5 (70 + 2^16) = true) ∧
    (let s : State := (di .ready).setFab { (di .ready).fab with seen := [(8, 5, 77)] }; (8, 5, 77) ∈ s.fab.seen) ∧
    (let x : ℕ := 5; let f : Bool := true;
      let s : State := (di .ready).setFab { (di .ready).fab with commit := some (5,true), session := true };
      s.fab.commit = some (x, f)) ∧
    (let s : State := ((di .ready).setFab { (di .ready).fab with oldHeld := true }).setTime { now := 2^60 };
      s.fab.oldHeld = true ∧ s.fab.commitAt + 50000 ≤ s.mono ∧ s.fab.commitFor = []) ∧
    (let x : ℕ := 0; let f : Bool := true;
      let s : State := (di .ready).setFab { (di .ready).fab with commit := some (0,true), session := true };
      s.fab.commit = some (x, f) ∧ x ≤ s.ns) ∧
    (let x : ℕ := 5; let f : Bool := true;
      let s : State := (di .ready).setFab { (di .ready).fab with commit := some (5,true), session := true };
      s.fab.commit = some (x, f) ∧ s.ns < x) := by
  refine ⟨⟨?_, ?_, ?_, ?_⟩, ⟨?_, ?_, ?_, ?_⟩, ⟨?_, ?_, ?_, ?_, ?_, ?_⟩, ⟨?_, ?_, ?_, ?_, ?_⟩, ⟨?_, ?_, ?_, ?_, ?_, ?_⟩, ⟨?_, ?_⟩,
    ⟨?_, ?_, ?_, ?_, ?_, ?_, ?_, ?_⟩, ⟨?_, ?_, ?_, ?_, ?_, ?_, ?_⟩, ⟨?_, ?_, ?_, ?_, ?_, ?_, ?_, ?_, ?_, ?_⟩,
    ⟨?_, ?_, ?_, ?_, ?_, ?_⟩, ⟨?_, ?_, ?_, ?_, ?_⟩, ?_, ?_, ⟨?_, ?_, ?_⟩, ⟨?_, ?_⟩, ⟨?_, ?_⟩⟩ <;> decide +kernel

set_option maxRecDepth 100000 in
theorem test_meets_ContributionsCountOnce :
    (let x : ContribP := cx; let s : State := up; s.contract x.ckey.toNat = none) ∧
    (let x : ContribP := {cx with elems := 3}; let c : Contract := ctr; let s : State := cs ctr;
      s.contract x.ckey.toNat = some c ∧ c.failed = false ∧ s.contribBad c x = true) ∧
    (let x : ContribP := {cx with contributor := 257}; let c : Contract := hasp; let s : State := cs hasp;
      s.contract x.ckey.toNat = some c ∧ c.failed = false ∧ s.contribBad c x = false ∧ x.phase = 0 ∧
      ((State.pourOf c x.round.toNat x.pour.toNat).done = true ∨
      (State.pourOf c x.round.toNat x.pour.toNat).bitmap.getLsbD (contribBit x) = true)) ∧
    (let x : ContribP := cx; let c : Contract := hasp; let s : State := cs hasp; Takeable s c x ∧ geoOf c x.pour.toNat ≠ none ∧
      (State.pourOf c x.round.toNat x.pour.toNat).bitmap ≠ 0) ∧
    (let x : ContribP := cx; let c : Contract := ctr; let s : State := cs ctr; let k : ℕ := 2 * 2^20; Takeable s c x ∧
      geoOf c x.pour.toNat ≠ none ∧ (State.pourOf c x.round.toNat x.pour.toNat).bitmap = 0 ∧
      (State.pourOf c x.round.toNat x.pour.toNat).out = none ∧ (State.pourOf c x.round.toNat x.pour.toNat).inputs = [] ∧ c.par.tapMode ≠ 1 ∧ s.admitTest 2048 4096 = State.Admit.cask k ∧
      (x.round.toNat + 65536 - c.nextRound) % 65536 * roundPours c + x.pour.toNat < State.lowestOpen c + c.window) ∧
    (let x : ContribP := {cx with pour := 1}; let c : Contract := smallw; let s : State := cs smallw; Takeable s c x ∧
      geoOf c x.pour.toNat ≠ none ∧ (State.pourOf c x.round.toNat x.pour.toNat).bitmap = 0 ∧
      (State.pourOf c x.round.toNat x.pour.toNat).out = none ∧ (State.pourOf c x.round.toNat x.pour.toNat).inputs = [] ∧
      State.lowestOpen c + c.window ≤ (x.round.toNat + 65536 - c.nextRound) % 65536 * roundPours c + x.pour.toNat) ∧
    (let k : BitVec 32 := 5; let c : Contract := pend; let x : ContribP := cx; let n : ℕ := 5;
      let u : State := ((cs pend).setContract 5 (some { pend with pending := [] })).contribTry cx |>.2; let s : State := cs pend;
      s.contract k.toNat = some c ∧ c.pending = [(x, n)] ∧
      (s.setContract k.toNat (some { c with pending := [] })).contribTry x = (true, u)) ∧
    (let k : BitVec 32 := 5; let c : Contract := pend; let s : State := cs pend; s.contract k.toNat = some c ∧
      ∃ e ∈ ({ ctr with pending := [({cx with chan := some (2,3)}, 5)] } : Contract).pending,
        (e.1.chan.isSome && decide (s.sw.ageing * 100000 < State.mono s - e.2)) = true) := by
  refine ⟨?_, ⟨?_, ?_, ?_⟩, ⟨?_, ?_, ?_, ?_, ?_⟩, ⟨?_, ?_, ?_⟩, ⟨?_, ?_, ?_, ?_, ?_, ?_, ?_, ?_⟩, ⟨?_, ?_, ?_, ?_, ?_, ?_⟩,
    ⟨?_, ?_, ?_⟩, ⟨?_, ?_⟩⟩ <;>
    first
    | decide +kernel
    | (unfold Takeable; decide +kernel)

end C10

namespace C11
def runS (i : Instr) (s : State) : State := match exec i s with | .next t => t | _ => s
def collO : CollP := { coll with op := 1, presses := 3 }
def opc : Contract := up.contractOf (hd fun h => cmdCollOpenExpert h collO up) collO
def one : List Byte := [0,0,0x80,0x3F]
def big : List Byte := [0,0,0x80,0x4B]
def cx (n : BitVec 9) (d : List Byte) : ContribP := { ckey := 5, pour := 0, contributor := n, seg := 0, phase := 0, step := 0, empty := false, replay := false, ieee := 0, elems := 16, round := 0, gen := 0, saturated := false, poison := false, data := (List.replicate 16 d).flatten, chan := none }
def ctr : Contract := { opc with vat := some 1 }
def pr0 : Pour := { bitmap := BitVec.ofNat 384 (2^256+2^257), inputs := [(256, some (cx 256 one)), (257, some (cx 257 big))] }
def c0 : Contract := { ctr with rounds := [{ no := 0, pours := [(0, pr0)] }] }
def cs (c : Contract) : State := { ((up.effQosProfile qp).setContract 5 (some c)).setVat 1 { key := some 5 } with time := { now := 2^70 } }
def part (n : Nat) : Part := pourPart { pr0 with data := (List.replicate 16 one).flatten, empty := n == 0 }
def g0 : Geo := (geoOf ctr 0).getD { idx := 0, seg := ⟨0,0,0,0⟩, first := 0, elems := 0 }
def u3 : State := ((cs c0).pourStep 5 0 0).getD up
def d3 : Contract := (u3.contract 5).getD ctr
def c4 : Contract := { ctr with rounds := [{ no := 0, pours := [(0, { pr0 with formed := true, localDone := true })] }] }
def u4 : State := ((cs c4).pourStep 5 0 0).getD up
def rdy : Contract := { opc with ready := some 3 }
def vs (c : Contract) : State := { ((up.effQosProfile qp).setContract 5 (some c)).setVat 0 { pinned := true } with time := { now := 2^70 } }
def fullv (c : Contract) : State := { vs c with vats := { (vs c).vats with vats := (List.range 60).map fun n => (n, { key := some 9 }), contracts := [(5, some c), (9, some { opc with par := { collO with ckey := 9 }, vat := some 7 })] } }
def dec (c : Contract) : State := (cs c).setVat 1 { key := some 5, decanting := true }
def tapc : Contract := { opc with vat := some 1, par := { collO with tapMode := 1, fill := 3, free := 4, tapBase := 8192, tapSlots := 2 }, rounds := [{ no := 0, pours := [(0, { pr0 with formed := true, localDone := true, tapLeft := 4, data := (cx 256 one).data })] }] }
def taps : State := (cs tapc).setPr 2 { ls := [(4, 1)] }
def setc : Contract := { ctr with nextRound := 7, rounds := [{ no := 7, settling := true, lastOut := 10^9, kept := [cx 256 one] }] }
def setcd : Contract := { setc with par := { collO with deadline := 5 }, settleId := some 9 }
def sn (c : Counter) : State := up.setCounter 9 c
def ss (op : BitVec 4) (p : BitVec 64) : SyncSlot := { syncId := 9, op := op, step := 0xFF, payload := p }
def one2 : State := (sn { op := 1, slots := 4, presses := 1, steps := 0, devMask := 3, got := [2] }).setSlot 2 {}
def t2 := runS (.syncSlotReceive 256 (ss 1 4)) one2

set_option maxRecDepth 100000 in
theorem test_meets_PoursAreFoldedInVats :
    (let k : ℕ := 5; let r : ℕ := 0; let p : ℕ := 0; let c : Contract := c0; let g : Geo := g0; let s : State := cs c0;
      s.contract k = some c ∧ geoOf c p = some g ∧ (State.roundOf c r).isSome = true ∧ (State.pourOf c r p).done = false ∧
      (State.pourOf c r p).bitmap ≠ 0 ∧ s.resident c = true ∧ (State.pourOf c r p).targets = [] ∧
      (State.pourOf c r p).formed = false ∧ (State.pourOf c r p).localDone = false ∧ (State.pourOf c r p).folded = 0 ∧
      orderFree g.seg = false ∧ exactSeg g.seg = false ∧ localParts c ≠ [] ∧
      (∀ i ∈ localParts c, look none (State.pourOf c r p).inputs i ≠ none) ∧ look 0 s.faults.injLeft (State.injKey 67 0) = 0) ∧
    (let k : ℕ := 5; let r : ℕ := 0; let p : ℕ := 0; let c : Contract := c4; let g : Geo := g0; let s : State := cs c4;
      s.contract k = some c ∧ geoOf c p = some g ∧ (State.pourOf c r p).done = false ∧ (State.pourOf c r p).bitmap ≠ 0 ∧
      s.resident c = true ∧ (State.pourOf c r p).targets = [] ∧ (State.pourOf c r p).formed = true ∧
      (State.pourOf c r p).tapLeft = 0 ∧ (State.pourOf c r p).out = none ∧ c.pending = [] ∧ c.settleId = none ∧
      c.par.deadline = 0 ∧ c.par.ckey.toNat = k ∧ (State.roundOf c r).isSome = true ∧ (State.pourOf c r p).missing = false) ∧
    (let k : ℕ := 5; let v : ℕ := 1; let c : Contract := { rdy with image := true };
      let s : State := vs { rdy with image := true };
      (∀ e ∈ s.vats.contracts, ∀ (d : Contract), e.2 = some d → d.replayDue = false) ∧ (k, some c) ∈ s.vats.contracts ∧
      s.contract k = some c ∧ c.ready ≠ none ∧ c.vat = none ∧ c.failed = false ∧ s.awaitsPin c.par.pin.toNat c = false ∧
      (∀ e ∈ s.vats.contracts, ∀ (d : Contract), e.2 = some d → d.ready ≠ none → d.vat = none → d.failed = false → (e.1, d) ≠ (k, c) → State.rankLess (s.rankKey c) (s.rankKey d) = true) ∧
      v < 60 ∧
      ((s.vat v).key = none ∧ (s.vat v).pinned = false ∧ (s.vat v).contained = false ∧ (s.vat v).decanting = false ∧ (s.vat v).refilling = none) ∧
      (∀ w < v, ¬((s.vat w).key = none ∧ (s.vat w).pinned = false ∧ (s.vat w).contained = false ∧ (s.vat w).decanting = false ∧ (s.vat w).refilling = none))) ∧
    (let k : ℕ := 5; let v : ℕ := 0; let c : Contract := rdy; let s : State := fullv rdy;
      (∀ e ∈ s.vats.contracts, ∀ (d : Contract), e.2 = some d → d.replayDue = false) ∧ (k, some c) ∈ s.vats.contracts ∧
      s.contract k = some c ∧ c.ready ≠ none ∧ c.vat = none ∧ c.failed = false ∧ s.awaitsPin c.par.pin.toNat c = false ∧
      (∀ e ∈ s.vats.contracts, ∀ (d : Contract), e.2 = some d → d.ready ≠ none → d.vat = none → d.failed = false → (e.1, d) ≠ (k, c) → State.rankLess (s.rankKey c) (s.rankKey d) = true) ∧
      (∀ w < 60, ¬((s.vat w).key = none ∧ (s.vat w).pinned = false ∧ (s.vat w).contained = false ∧ (s.vat w).decanting = false ∧ (s.vat w).refilling = none)) ∧
      s.planChanging = false ∧ s.victim c = some v) ∧
    (let v : Fin 64 := 1; let k : ℕ := 5; let c : Contract := ctr; let s : State := dec (ctr); (s.vat v.val).key = some k ∧
      s.contract k = some c ∧ (s.vat v.val).decanting = true ∧ (s.vat v.val).pinned = false ∧ (s.vat v.val).refilling = none ∧ s.tiersActive = true ∧
      s.vatDraws v.val = false) ∧
    (let v : Fin 64 := 1; let k : ℕ := 5; let c : Contract := { ctr with image := true };
      let s : State := (cs ({ ctr with image := true } : Contract)).setVat 1 { key := some 5, refilling := some 5 };
      (s.vat v.val).refilling = some k ∧ s.contract k = some c ∧ c.pending = [] ∧ s.tiersActive = true ∧ s.vatDraws v.val = false) ∧
    (let k : BitVec 32 := 5; let n : Fin 64 := 2; let c : Contract := tapc; let r : ℕ := 0; let q : ℕ := 0;
      let p : Pour := { pr0 with formed := true, localDone := true, tapLeft := 4, data := (cx 256 one).data };
      let rest : List (ℕ × ℕ × Pour) := []; let s : State := taps; s.contract k.toNat = some c ∧ (s.pr n.val).fenced = false ∧
      List.flatMap (fun r => List.map (fun p => (r.no, p)) (List.filter (fun p => p.2.formed && p.2.tapLeft.getLsbD n.val) r.pours)) c.rounds = (r, q, p) :: rest ∧
      s.semWaiters false n.val c.par.free.toNat = [] ∧ 1 ≤ s.semCount false n.val c.par.free.toNat ∧ c.par.fill ≠ c.par.free ∧
      s.semCount false n.val c.par.fill.toNat < 65535) ∧
    (let k : BitVec 32 := 5; let n : Fin 64 := 2; let c : Contract := tapc; let r : ℕ := 0; let q : ℕ := 0;
      let p : Pour := { pr0 with formed := true, localDone := true, tapLeft := 4, data := (cx 256 one).data };
      let rest : List (ℕ × ℕ × Pour) := []; let s : State := taps; s.contract k.toNat = some c ∧
      List.flatMap (fun r => List.map (fun p => (r.no, p)) (List.filter (fun p => p.2.formed && p.2.tapLeft.getLsbD n.val && !p.2.stalled && decide (s.sw.ageing * 100000 < s.mono - p.2.formedAt)) r.pours)) c.rounds = (r, q, p) :: rest) ∧
    (let k : BitVec 32 := 5; let r : BitVec 16 := 7; let i : ℕ := 9; let x : BitVec 64 := 1000; let xs : List (BitVec 64) := [2000]; let c : Contract := setcd;
      let o : Round := { no := 7, settling := true, lastOut := 10^9, kept := [cx 256 one] };
      let s : State := (cs setcd).setCounter 9 { op := 5, settled := [1000, 2000] };
      s.contract k.toNat = some c ∧ c.settleId = some i ∧ (s.counter i).settled = x :: xs ∧ c.nextRound = r.toNat ∧
      State.roundOf c r.toNat = some o ∧ o.settling = true ∧ c.pending = [] ∧ c.par.deadline ≠ 0 ∧
      x.toNat + c.par.deadline.toNat * 10 < o.lastOut) ∧
    (let v : Fin 64 := 3; let s : State := cs ctr; (s.vat v.val).key = none) ∧
    (let v : Fin 64 := 3; let s : State := cs ctr; (s.vat v.val).key = none ∧ s.severity 1553 = 3 ∧
      look false s.faults.sticky 1553 = false) ∧
    (let p : Machine.Part := { data := (cx 256 one).data, empty := false }; let e : Machine.Part := {}; e.empty = true ∧
      e.missing = false ∧ e.replay = false ∧ p.empty = false) ∧
    (let k : BitVec 32 := 9; let r : BitVec 16 := 0; let p : BitVec 16 := 0; let s : State := up;
      s.pourStep k.toNat r.toNat p.toNat = none) ∧
    (let k : BitVec 32 := 5; let r : BitVec 16 := 0; let p : BitVec 16 := 0; let s : State := cs c4; let u : State := u4;
      s.pourStep k.toNat r.toNat p.toNat = some u) ∧
    (let k : ℕ := 5; let v : ℕ := 1; let c : Contract := { rdy with image := true };
      let s : State := vs { rdy with image := true };
      (∀ e ∈ s.vats.contracts, ∀ (d : Contract), e.2 = some d → d.replayDue = false) ∧ (k, some c) ∈ s.vats.contracts ∧
      s.contract k = some c ∧ c.ready ≠ none ∧ c.vat = none ∧ c.failed = false ∧ s.awaitsPin c.par.pin.toNat c = false ∧
      (∀ e ∈ s.vats.contracts, ∀ (d : Contract), e.2 = some d → d.ready ≠ none → d.vat = none → d.failed = false → (e.1, d) ≠ (k, c) → State.rankLess (s.rankKey c) (s.rankKey d) = true) ∧
      v < 60 ∧
      ((s.vat v).key = none ∧ (s.vat v).pinned = false ∧ (s.vat v).contained = false ∧ (s.vat v).decanting = false ∧ (s.vat v).refilling = none) ∧
      (∀ w < v, ¬((s.vat w).key = none ∧ (s.vat w).pinned = false ∧ (s.vat w).contained = false ∧ (s.vat w).decanting = false ∧ (s.vat w).refilling = none)) ∧
      c.image = true ∧ s.planChanging = false) ∧
    (let k : ℕ := 5; let v : ℕ := 1; let c : Contract := rdy; let s : State := vs rdy;
      (∀ e ∈ s.vats.contracts, ∀ (d : Contract), e.2 = some d → d.replayDue = false) ∧ (k, some c) ∈ s.vats.contracts ∧
      s.contract k = some c ∧ c.ready ≠ none ∧ c.vat = none ∧ c.failed = false ∧ s.awaitsPin c.par.pin.toNat c = false ∧
      (∀ e ∈ s.vats.contracts, ∀ (d : Contract), e.2 = some d → d.ready ≠ none → d.vat = none → d.failed = false → (e.1, d) ≠ (k, c) → State.rankLess (s.rankKey c) (s.rankKey d) = true) ∧
      v < 60 ∧
      ((s.vat v).key = none ∧ (s.vat v).pinned = false ∧ (s.vat v).contained = false ∧ (s.vat v).decanting = false ∧ (s.vat v).refilling = none) ∧
      (∀ w < v, ¬((s.vat w).key = none ∧ (s.vat w).pinned = false ∧ (s.vat w).contained = false ∧ (s.vat w).decanting = false ∧ (s.vat w).refilling = none)) ∧
      c.image = false ∧ c.pending = []) := by
  refine ⟨⟨?_, ?_, ?_, ?_, ?_, ?_, ?_, ?_, ?_, ?_, ?_, ?_, ?_, ?_, ?_⟩, ⟨?_, ?_, ?_, ?_, ?_, ?_, ?_, ?_, ?_, ?_, ?_, ?_, ?_, ?_, ?_⟩, ⟨?_, ?_, ?_, ?_, ?_, ?_, ?_, ?_, ?_, ?_, ?_⟩, ⟨?_, ?_, ?_, ?_, ?_, ?_, ?_, ?_, ?_, ?_, ?_⟩, ⟨?_, ?_, ?_, ?_, ?_, ?_, ?_⟩, ⟨?_, ?_, ?_, ?_, ?_⟩, ⟨?_, ?_, ?_, ?_, ?_, ?_, ?_⟩, ⟨?_, ?_⟩, ⟨?_, ?_, ?_, ?_, ?_, ?_, ?_, ?_, ?_⟩, ?_, ⟨?_, ?_, ?_⟩, ⟨?_, ?_, ?_, ?_⟩, ?_, ?_, ⟨?_, ?_, ?_, ?_, ?_, ?_, ?_, ?_, ?_, ?_, ?_, ?_, ?_⟩, ⟨?_, ?_, ?_, ?_, ?_, ?_, ?_, ?_, ?_, ?_, ?_, ?_, ?_⟩⟩ <;> decide +kernel

set_option maxRecDepth 100000 in
theorem test_meets_SyncSlotsAreFolded :
    (let x : SyncSlot := ss 1 4; let s : State := sn {}; x.op ≠ 0 ∧
      ((s.counter x.syncId.toNat).op = 0 ∧ (s.counter x.syncId.toNat).relay = false ∨ x.op = 13 ∨ x.op = 14 ∨
      x.op ≠ 15 ∧ x.op.toNat ≠ (s.counter x.syncId.toNat).op) ∧ (s.counter x.syncId.toNat).heldSlots = [] ∧
      (s.counter (State.syncPastOf x.syncId.toNat)).heldSlots = [] ∧ s.faults.syncFenced = false) ∧
    (let n : Fin 320 := 256; let x : SyncSlot := ss 1 4; let s : State := sn { op := 1, presses := 3, got := [256] };
      x.op.toNat = (s.counter x.syncId.toNat).op ∧ 1 ≤ (s.counter x.syncId.toNat).op ∧ (s.counter x.syncId.toNat).op ≤ 12 ∧
      (s.counter x.syncId.toNat).heldSlots = [] ∧ x.step = 255 ∧ n.val ∈ State.syncLocals (s.counter x.syncId.toNat) ∧
      (256 ≤ n.val ∨ s.linkDim n.val = none) ∧ x.flags.getLsbD 7 = (s.counter x.syncId.toNat).parity ∧
      (s.counter (State.syncPastOf x.syncId.toNat)).heldSlots = [] ∧ s.faults.syncFenced = false ∧
      n.val ∈ (s.counter x.syncId.toNat).got) ∧
    (let n : Fin 320 := 256; let x : SyncSlot := ss 1 4; let s : State := sn { op := 1, presses := 3 };
      x.op.toNat = (s.counter x.syncId.toNat).op ∧ 1 ≤ (s.counter x.syncId.toNat).op ∧ (s.counter x.syncId.toNat).op ≤ 12 ∧
      (s.counter x.syncId.toNat).heldSlots = [] ∧ x.step = 255 ∧ n.val ∈ State.syncLocals (s.counter x.syncId.toNat) ∧
      (256 ≤ n.val ∨ s.linkDim n.val = none) ∧ x.flags.getLsbD 7 = (s.counter x.syncId.toNat).parity ∧
      (s.counter (State.syncPastOf x.syncId.toNat)).heldSlots = [] ∧ s.faults.syncFenced = false ∧
      n.val ∉ (s.counter x.syncId.toNat).got ∧ (s.counter x.syncId.toNat).step = none ∧
      (∃ y ∈ State.syncLocals (s.counter x.syncId.toNat), y ≠ n.val ∧ y ∉ (s.counter x.syncId.toNat).got)) ∧
    (let n : Fin 320 := 256; let x : SyncSlot := ss 1 4; let s : State := one2; x.op.toNat = (s.counter x.syncId.toNat).op ∧
      1 ≤ (s.counter x.syncId.toNat).op ∧ (s.counter x.syncId.toNat).op ≤ 12 ∧ (s.counter x.syncId.toNat).heldSlots = [] ∧
      x.step = 255 ∧ n.val ∈ State.syncLocals (s.counter x.syncId.toNat) ∧ (256 ≤ n.val ∨ s.linkDim n.val = none) ∧
      x.flags.getLsbD 7 = (s.counter x.syncId.toNat).parity ∧
      (s.counter (State.syncPastOf x.syncId.toNat)).heldSlots = [] ∧ s.faults.syncFenced = false ∧ n.val ∉ (s.counter x.syncId.toNat).got ∧
      (s.counter x.syncId.toNat).step = none ∧ (s.counter x.syncId.toNat).op ≠ 8 ∧
      (∀ y ∈ State.syncLocals (s.counter x.syncId.toNat), y = n.val ∨ y ∈ (s.counter x.syncId.toNat).got) ∧
      s.syncSteps (s.counter x.syncId.toNat) = 0 ∧ s.syncNeighbours (s.counter x.syncId.toNat) = [] ∧
      (∀ l ∈ members 256 (s.counter x.syncId.toNat).slots.toNat, s.slotLink l = l)) := by
  refine ⟨⟨?_, ?_, ?_, ?_, ?_⟩, ⟨?_, ?_, ?_, ?_, ?_, ?_, ?_, ?_, ?_, ?_, ?_⟩, ⟨?_, ?_, ?_, ?_, ?_, ?_, ?_, ?_, ?_, ?_, ?_, ?_, ?_⟩, ⟨?_, ?_, ?_, ?_, ?_, ?_, ?_, ?_, ?_, ?_, ?_, ?_, ?_, ?_, ?_, ?_, ?_⟩⟩ <;> decide +kernel

end C11

namespace C12
def runS (i : Instr) (s : State) : State := match exec i s with | .next t => t | _ => s
def ru : State := running up
def cpw (w : Nat) (r : Tab (BitVec 64)) : State :=
  { ru.setPr 0 { ru.pr 0 with cp := { running := true, pc := 64, pipe := [(w,0),(0x3F000000,0),(0x3F000000,0)], regs := r }, ls := [(0, 7)] } with
    press := { (ru.setPr 0 { ru.pr 0 with cp := { running := true, pc := 64, pipe := [(w,0),(0x3F000000,0),(0x3F000000,0)], regs := r }, ls := [(0, 7)] }).press with dmem := writeMem [] 64 ((List.range 64).map fun i => BitVec.ofNat 8 (i+1)), imem := writeMem [] 32 ((List.range 90).map fun i => BitVec.ofNat 8 (i+1)) } }

set_option maxRecDepth 100000 in
theorem test_meets_CpArithmeticWritesItsResult :
    (let p : Fin 64 := 0; let c : ℕ := 0; let w : ℕ := 22093824; let s : State := cpw 22093824 [(1, 0xFFFFFFFFFFFFFFF6), (2, 3)];
      let v : BitVec 64 := (let b : BitVec 64 := 3; let a : BitVec 64 := 0xFFFFFFFFFFFFFFF6; ([a+b,a-b,a&&&b,a|||b,a^^^b,a<<<3,a>>>3,a.sshiftRight 3,1,0,a*b,BitVec.ofNat 64 (a.toNat*b.toNat/2^64),a/b,a%b] : List (BitVec 64)).getD 0 0);
      CpAt s p.val c w ∧ FetchCalm s p.val ∧ w / 2 ^ 24 = 1 ∧ reservedZero w 4080 = true ∧
      (bits w 3 0 = 0 ∧ v = (s.pr p.val).cp.reg (fRs1 w) + (s.pr p.val).cp.reg (fRs2 w) ∨
      bits w 3 0 = 1 ∧ v = (s.pr p.val).cp.reg (fRs1 w) - (s.pr p.val).cp.reg (fRs2 w) ∨
      bits w 3 0 = 2 ∧ v = (s.pr p.val).cp.reg (fRs1 w) &&& (s.pr p.val).cp.reg (fRs2 w) ∨
      bits w 3 0 = 3 ∧ v = (s.pr p.val).cp.reg (fRs1 w) ||| (s.pr p.val).cp.reg (fRs2 w) ∨
      bits w 3 0 = 4 ∧ v = (s.pr p.val).cp.reg (fRs1 w) ^^^ (s.pr p.val).cp.reg (fRs2 w) ∨
      bits w 3 0 = 5 ∧ v = (s.pr p.val).cp.reg (fRs1 w) <<< (((s.pr p.val).cp.reg (fRs2 w)).toNat % 64) ∨
      bits w 3 0 = 6 ∧ v = (s.pr p.val).cp.reg (fRs1 w) >>> (((s.pr p.val).cp.reg (fRs2 w)).toNat % 64) ∨
      bits w 3 0 = 7 ∧ v = ((s.pr p.val).cp.reg (fRs1 w)).sshiftRight (((s.pr p.val).cp.reg (fRs2 w)).toNat % 64) ∨
      (bits w 3 0 = 8 ∧ v = if ((s.pr p.val).cp.reg (fRs1 w)).slt ((s.pr p.val).cp.reg (fRs2 w)) = true then 1 else 0) ∨
      (bits w 3 0 = 9 ∧ v = if ((s.pr p.val).cp.reg (fRs1 w)).ult ((s.pr p.val).cp.reg (fRs2 w)) = true then 1 else 0) ∨
      bits w 3 0 = 10 ∧ v = (s.pr p.val).cp.reg (fRs1 w) * (s.pr p.val).cp.reg (fRs2 w) ∨
      bits w 3 0 = 11 ∧ v = BitVec.ofNat 64 (((s.pr p.val).cp.reg (fRs1 w)).toNat * ((s.pr p.val).cp.reg (fRs2 w)).toNat / 2 ^ 64) ∨
      (bits w 3 0 = 12 ∧ v = if (s.pr p.val).cp.reg (fRs2 w) = 0 then BitVec.allOnes 64 else (s.pr p.val).cp.reg (fRs1 w) / (s.pr p.val).cp.reg (fRs2 w)) ∨
      bits w 3 0 = 13 ∧ v = (s.pr p.val).cp.reg (fRs1 w) % (s.pr p.val).cp.reg (fRs2 w))) ∧
    (let p : Fin 64 := 0; let c : ℕ := 0; let w : ℕ := 38895617; let s : State := cpw 38895617 [(1, 0xFFFFFFFFFFFFFFF6), (2, 3)];
      CpAt s p.val c w ∧ FetchCalm s p.val ∧ w / 2 ^ 24 = 2) ∧
    (let p : Fin 64 := 0; let c : ℕ := 0; let w : ℕ := 55672833; let s : State := cpw 55672833 [(1, 0xFFFFFFFFFFFFFFF6), (2, 3)];
      CpAt s p.val c w ∧ FetchCalm s p.val ∧ w / 2 ^ 24 = 3) ∧
    (let p : Fin 64 := 0; let c : ℕ := 0; let w : ℕ := 72450049; let s : State := cpw 72450049 [(1, 0xFFFFFFFFFFFFFFF6), (2, 3)];
      CpAt s p.val c w ∧ FetchCalm s p.val ∧ w / 2 ^ 24 = 4) ∧
    (let p : Fin 64 := 0; let c : ℕ := 0; let w : ℕ := 89227265; let s : State := cpw 89227265 [(1, 0xFFFFFFFFFFFFFFF6), (2, 3)];
      CpAt s p.val c w ∧ FetchCalm s p.val ∧ w / 2 ^ 24 = 5) ∧
    (let p : Fin 64 := 0; let c : ℕ := 0; let w : ℕ := 105971725;
      let s : State := cpw 105971725 [(1, 0xFFFFFFFFFFFFFFF6), (2, 3)]; CpAt s p.val c w ∧ FetchCalm s p.val ∧
      w / 2 ^ 24 = 6 ∧ bits w 15 8 = 0 ∧ bits w 7 6 = 0) ∧
    (let p : Fin 64 := 0; let c : ℕ := 0; let w : ℕ := 105971789;
      let s : State := cpw 105971789 [(1, 0xFFFFFFFFFFFFFFF6), (2, 3)]; CpAt s p.val c w ∧ FetchCalm s p.val ∧
      w / 2 ^ 24 = 6 ∧ bits w 15 8 = 0 ∧ bits w 7 6 = 1) ∧
    (let p : Fin 64 := 0; let c : ℕ := 0; let w : ℕ := 105971853;
      let s : State := cpw 105971853 [(1, 0xFFFFFFFFFFFFFFF6), (2, 3)]; CpAt s p.val c w ∧ FetchCalm s p.val ∧
      w / 2 ^ 24 = 6 ∧ bits w 15 8 = 0 ∧ bits w 7 6 = 2) ∧
    (let p : Fin 64 := 0; let c : ℕ := 0; let w : ℕ := 122716161;
      let s : State := cpw 122716161 [(1, 0xFFFFFFFFFFFFFFF6), (2, 3)]; CpAt s p.val c w ∧ FetchCalm s p.val ∧
      w / 2 ^ 24 = 7 ∧ fRs1 w = 0) ∧
    (let p : Fin 64 := 0; let c : ℕ := 0; let w : ℕ := 139493377;
      let s : State := cpw 139493377 [(1, 0xFFFFFFFFFFFFFFF6), (2, 3)]; CpAt s p.val c w ∧ FetchCalm s p.val ∧
      w / 2 ^ 24 = 8 ∧ fRs1 w = 0) ∧
    (let p : Fin 64 := 0; let c : ℕ := 0; let w : ℕ := 156303365;
      let s : State := cpw 156303365 [(1, 0xFFFFFFFFFFFFFFF6), (2, 3)]; CpAt s p.val c w ∧ FetchCalm s p.val ∧ w / 2 ^ 24 = 9) ∧
    (let p : Fin 64 := 0; let c : ℕ := 0; let w : ℕ := 978321408;
      let s : State := (cpw 978321408 [(1, 0xFFFFFFFFFFFFFFF6), (2, 3)]).setTime { now := 2^60 }; CpAt s p.val c w ∧
      FetchCalm s p.val ∧ w / 2 ^ 24 = 58 ∧ reservedZero w 1048575 = true) ∧
    (let p : Fin 64 := 0; let c : ℕ := 0; let w : ℕ := 22093824; let s : State := cpw 22093824 [(1, 0xFFFFFFFFFFFFFFF6), (2, 3)];
      CpAt s p.val c w ∧ FetchCalm s p.val) := by
  refine ⟨⟨?_, ?_, ?_, ?_, ?_⟩, ⟨?_, ?_, ?_⟩, ⟨?_, ?_, ?_⟩, ⟨?_, ?_, ?_⟩, ⟨?_, ?_, ?_⟩, ⟨?_, ?_, ?_, ?_, ?_⟩, ⟨?_, ?_, ?_, ?_,
    ?_⟩, ⟨?_, ?_, ?_, ?_, ?_⟩, ⟨?_, ?_, ?_, ?_⟩, ⟨?_, ?_, ?_, ?_⟩, ⟨?_, ?_, ?_⟩, ⟨?_, ?_, ?_, ?_⟩, ⟨?_, ?_⟩⟩ <;>
    first
    | decide +kernel
    | (unfold Mild; decide +kernel)
    | (unfold CpAt; decide +kernel)
    | exact Or.inl (by decide +kernel)

set_option maxRecDepth 100000 in
theorem test_meets_CpMemoryAndBranchesReachTheirTarget :
    (let p : Fin 64 := 0; let c : ℕ := 0; let w : ℕ := 273743880;
      let s : State := cpw 273743880 [(1, 72), (2, 0x123456789ABCDEF0),(3, 0x100020)]; let n : ℕ := 8; let o : ℕ := 80;
      let m : State.Mem := .dmem; let op : ℕ := 16; let i : Instr := .ld 0; CpAt s p.val c w ∧ FetchCalm s p.val ∧
      s.press.dmemErr = [] ∧ s.press.imemErr = [] ∧ s.cpData p.val c (s.cpAddr p.val w) n n = Except.ok (m, o) ∧
      (op, n, i) ∈ [(16, 8, Instr.ld p), (17, 4, Instr.lw p), (18, 2, Instr.lh p), (19, 1, Instr.lb p)] ∧ w / 2 ^ 24 = op) ∧
    (let p : Fin 64 := 0; let c : ℕ := 0; let w : ℕ := 337707016;
      let s : State := cpw 337707016 [(1, 72), (2, 0x123456789ABCDEF0),(3, 0x100020)]; let n : ℕ := 8; let o : ℕ := 80;
      let m : State.Mem := .dmem; let op : ℕ := 20; let i : Instr := .sd 0; CpAt s p.val c w ∧ FetchCalm s p.val ∧
      s.press.dmemErr = [] ∧ s.press.imemErr = [] ∧ s.cpData p.val c (s.cpAddr p.val w) n n = Except.ok (m, o) ∧
      (op, n, i) ∈ [(20, 8, Instr.sd p), (21, 4, Instr.sw p), (22, 2, Instr.sh p), (23, 1, Instr.sb p)] ∧ w / 2 ^ 24 = op ∧
      look 0 s.faults.injLeft (State.injKey 69 p.val) = 0) ∧
    (let p : Fin 64 := 0; let c : ℕ := 0; let w : ℕ := 538116092; let s : State := cpw 538116092 [(1,5),(2,5)]; let op : ℕ := 32;
      let i : Instr := .beq 0; let taken : Bool := true; CpAt s p.val c w ∧ FetchCalm s p.val ∧
      (op, i, taken) ∈ [(32, Instr.beq p, decide ((s.pr p.val).cp.reg (fRd w) = (s.pr p.val).cp.reg (fRs1 w))), (33, Instr.bne p, decide ((s.pr p.val).cp.reg (fRd w) ≠ (s.pr p.val).cp.reg (fRs1 w))), (34, Instr.blt p, ((s.pr p.val).cp.reg (fRd w)).slt ((s.pr p.val).cp.reg (fRs1 w))), (35, Instr.bge p, ((s.pr p.val).cp.reg (fRs1 w)).sle ((s.pr p.val).cp.reg (fRd w))), (36, Instr.bltu p, ((s.pr p.val).cp.reg (fRd w)).ult ((s.pr p.val).cp.reg (fRs1 w))), (37, Instr.bgeu p, ((s.pr p.val).cp.reg (fRs1 w)).ule ((s.pr p.val).cp.reg (fRd w)))] ∧
      w / 2 ^ 24 = op) ∧
    (let p : Fin 64 := 0; let c : ℕ := 0; let w : ℕ := 677380092;
      let s : State := cpw 677380092 [(1, 72), (2, 0x123456789ABCDEF0),(3, 0x100020)]; CpAt s p.val c w ∧ FetchCalm s p.val ∧
      w / 2 ^ 24 = 40) ∧
    (let p : Fin 64 := 0; let c : ℕ := 0; let w : ℕ := 693174276;
      let s : State := cpw 693174276 [(1, 72), (2, 0x123456789ABCDEF0),(3, 0x100020)]; CpAt s p.val c w ∧ FetchCalm s p.val ∧
      w / 2 ^ 24 = 41) ∧
    (let p : Fin 64 := 0; let c : ℕ := 0; let w : ℕ := 838860800;
      let s : State := cpw 838860800 [(1, 72), (2, 0x123456789ABCDEF0),(3, 0x100020)]; CpAt s p.val c w ∧ FetchCalm s p.val ∧
      w / 2 ^ 24 = 50 ∧ reservedZero w 16777215 = true) ∧
    (let p : Fin 64 := 0; let c : ℕ := 0; let w : ℕ := 273743880;
      let s : State := cpw 273743880 [(1, 72), (2, 0x123456789ABCDEF0),(3, 0x100020)]; let n : ℕ := 8; let o : ℕ := 80;
      let m : State.Mem := .dmem; CpAt s p.val c w ∧ FetchCalm s p.val ∧ s.press.dmemErr = [] ∧ s.press.imemErr = [] ∧
      s.cpData p.val c (s.cpAddr p.val w) n n = Except.ok (m, o) ∧ s.cpAddr p.val w + n ≤ 2 ^ 18) ∧
    (let p : Fin 64 := 0; let c : ℕ := 0; let w : ℕ := 273874976;
      let s : State := cpw 273874976 [(1, 72), (2, 0x123456789ABCDEF0),(3, 0x100020)]; let n : ℕ := 8; let o : ℕ := 64;
      let m : State.Mem := .imem; CpAt s p.val c w ∧ FetchCalm s p.val ∧ s.press.dmemErr = [] ∧ s.press.imemErr = [] ∧
      s.cpData p.val c (s.cpAddr p.val w) n n = Except.ok (m, o) ∧ 2 ^ 20 ≤ s.cpAddr p.val w) ∧
    (let p : Fin 64 := 0; let c : ℕ := 0; let w : ℕ := 538116092; let s : State := cpw 538116092 [(1,5),(2,5)]; let op : ℕ := 32;
      let i : Instr := .beq 0; let taken : Bool := true; CpAt s p.val c w ∧ FetchCalm s p.val ∧
      (op, i, taken) ∈ [(32, Instr.beq p, decide ((s.pr p.val).cp.reg (fRd w) = (s.pr p.val).cp.reg (fRs1 w))), (33, Instr.bne p, decide ((s.pr p.val).cp.reg (fRd w) ≠ (s.pr p.val).cp.reg (fRs1 w))), (34, Instr.blt p, ((s.pr p.val).cp.reg (fRd w)).slt ((s.pr p.val).cp.reg (fRs1 w))), (35, Instr.bge p, ((s.pr p.val).cp.reg (fRs1 w)).sle ((s.pr p.val).cp.reg (fRd w))), (36, Instr.bltu p, ((s.pr p.val).cp.reg (fRd w)).ult ((s.pr p.val).cp.reg (fRs1 w))), (37, Instr.bgeu p, ((s.pr p.val).cp.reg (fRs1 w)).ule ((s.pr p.val).cp.reg (fRd w)))] ∧
      w / 2 ^ 24 = op ∧ taken = true) ∧
    (let p : Fin 64 := 0; let c : ℕ := 0; let w : ℕ := 538116092; let s : State := cpw 538116092 [(1,5),(2,0xFFFFFFFFFFFFFFFF)];
      let op : ℕ := 32; let i : Instr := .beq 0; let taken : Bool := false; CpAt s p.val c w ∧ FetchCalm s p.val ∧
      (op, i, taken) ∈ [(32, Instr.beq p, decide ((s.pr p.val).cp.reg (fRd w) = (s.pr p.val).cp.reg (fRs1 w))), (33, Instr.bne p, decide ((s.pr p.val).cp.reg (fRd w) ≠ (s.pr p.val).cp.reg (fRs1 w))), (34, Instr.blt p, ((s.pr p.val).cp.reg (fRd w)).slt ((s.pr p.val).cp.reg (fRs1 w))), (35, Instr.bge p, ((s.pr p.val).cp.reg (fRs1 w)).sle ((s.pr p.val).cp.reg (fRd w))), (36, Instr.bltu p, ((s.pr p.val).cp.reg (fRd w)).ult ((s.pr p.val).cp.reg (fRs1 w))), (37, Instr.bgeu p, ((s.pr p.val).cp.reg (fRs1 w)).ule ((s.pr p.val).cp.reg (fRd w)))] ∧
      w / 2 ^ 24 = op ∧ taken = false) := by
  refine ⟨⟨?_, ?_, ?_, ?_, ?_, ?_, ?_⟩, ⟨?_, ?_, ?_, ?_, ?_, ?_, ?_, ?_⟩, ⟨?_, ?_, ?_, ?_⟩, ⟨?_, ?_, ?_⟩, ⟨?_, ?_, ?_⟩, ⟨?_, ?_,
    ?_, ?_⟩, ⟨?_, ?_, ?_, ?_, ?_, ?_⟩, ⟨?_, ?_, ?_, ?_, ?_, ?_⟩, ⟨?_, ?_, ?_, ?_, ?_⟩, ⟨?_, ?_, ?_, ?_, ?_⟩⟩ <;>
    first
    | decide +kernel
    | (unfold Mild; decide +kernel)
    | (unfold CpAt; decide +kernel)
    | exact Or.inl (by decide +kernel)

set_option maxRecDepth 100000 in
theorem test_meets_FaultingInstructionsStopTheLaunch :
    (let p : Fin 64 := 0; let c : ℕ := 0; let w : ℕ := 2130706432;
      let s : State := cpw 2130706432 [(1, 72), (2, 0x123456789ABCDEF0),(3, 0x100020)]; CpAt s p.val c w ∧ Mild s (1024 + p.val) ∧
      bit (s.ctx p.val c).set.toNat p.val = true ∧ (s.ctx p.val c).stopFor = none ∧ cpOpcodes.contains (w / 2 ^ 24) = false) ∧
    (let p : Fin 64 := 0; let c : ℕ := 0; let w : ℕ := 16777230;
      let s : State := cpw 16777230 [(1, 72), (2, 0x123456789ABCDEF0),(3, 0x100020)]; CpAt s p.val c w ∧ Mild s (1024 + p.val) ∧
      bit (s.ctx p.val c).set.toNat p.val = true ∧ (s.ctx p.val c).stopFor = none ∧ w / 2 ^ 24 = 1 ∧ 13 < bits w 3 0) ∧
    (let p : Fin 64 := 0; let c : ℕ := 0; let w : ℕ := 273743873;
      let s : State := cpw 273743873 [(1, 72), (2, 0x123456789ABCDEF0),(3, 0x100020)]; let e : ℕ := 2; CpAt s p.val c w ∧
      Mild s (1024 + p.val) ∧ bit (s.ctx p.val c).set.toNat p.val = true ∧ (s.ctx p.val c).stopFor = none ∧ w / 2 ^ 24 = 16 ∧
      s.cpData p.val c (s.cpAddr p.val w) 8 8 = Except.error e) ∧
    (let p : Fin 64 := 0; let c : ℕ := 0; let w : ℕ := 340852736; let s : State := cpw 340852736 [(1, 0x40000)]; let e : ℕ := 3;
      CpAt s p.val c w ∧ Mild s (1024 + p.val) ∧ bit (s.ctx p.val c).set.toNat p.val = true ∧ (s.ctx p.val c).stopFor = none ∧
      w / 2 ^ 24 = 20 ∧ s.cpData p.val c (s.cpAddr p.val w) 8 8 = Except.error e) ∧
    (let p : Fin 64 := 0; let c : ℕ := 0; let w : ℕ := 273743873;
      let s : State := cpw 273743873 [(1, 72), (2, 0x123456789ABCDEF0),(3, 0x100020)]; let e : ℕ := 2; CpAt s p.val c w ∧
      Mild s (1024 + p.val) ∧ bit (s.ctx p.val c).set.toNat p.val = true ∧ (s.ctx p.val c).stopFor = none ∧ w / 2 ^ 24 = 16 ∧
      s.cpData p.val c (s.cpAddr p.val w) 8 8 = Except.error e ∧ s.cpAddr p.val w % 8 ≠ 0) ∧
    (let p : Fin 64 := 0; let c : ℕ := 0; let w : ℕ := 273743872; let s : State := cpw 273743872 [(1, 0x40000)]; let e : ℕ := 3;
      CpAt s p.val c w ∧ Mild s (1024 + p.val) ∧ bit (s.ctx p.val c).set.toNat p.val = true ∧ (s.ctx p.val c).stopFor = none ∧
      w / 2 ^ 24 = 16 ∧ s.cpData p.val c (s.cpAddr p.val w) 8 8 = Except.error e ∧ s.cpAddr p.val w % 8 = 0 ∧
      2 ^ 18 ≤ s.cpAddr p.val w ∧ s.cpAddr p.val w < 2 ^ 20) := by
  refine ⟨⟨?_, ?_, ?_, ?_, ?_⟩, ⟨?_, ?_, ?_, ?_, ?_, ?_⟩, ⟨?_, ?_, ?_, ?_, ?_, ?_⟩, ⟨?_, ?_, ?_, ?_, ?_, ?_⟩, ⟨?_, ?_, ?_, ?_, ?_,
    ?_, ?_⟩, ⟨?_, ?_, ?_, ?_, ?_, ?_, ?_, ?_, ?_⟩⟩ <;>
    first
    | decide +kernel
    | (unfold Mild; decide +kernel)
    | (unfold CpAt; decide +kernel)
    | exact Or.inl (by decide +kernel)

end C12

namespace C13
def runS (i : Instr) (s : State) : State := match exec i s with | .next t => t | _ => s
def ru : State := running up
def cpw (w : Nat) (r : Tab (BitVec 64)) : State :=
  let u := ru.setPr 0 { ru.pr 0 with cp := { running := true, pc := 64, pipe := [(w,0),(0x3F000000,0),(0x3F000000,0)], regs := r }, ls := [(0, 7)] }
  { u with press := { u.press with dmem := writeMem [] 64 ((List.range 64).map fun i => BitVec.ofNat 8 (i+1)), imem := writeMem [] 32 ((List.range 90).map fun i => BitVec.ofNat 8 (i+1)) } }
def fst (n : Nat) (s : State) : State := s.setStreamOf 0 0 1 { queue := List.replicate n { pc := 0, bytes := [] } }
def ftc (s : State) : State := s.setStreamOf 0 0 1 { fetch := true, fetching := false, pc := 64, fp := 128, queue := [{ pc := 64, bytes := [] },{ pc := 96, bytes := [] }] }
def wt (x : CpWait) (s : State) : State := s.setPr 0 { s.pr 0 with cp := { (s.pr 0).cp with wait := x } }
def sw0 (w : SemWaiter) : State := let s := wt (.sem false 0 5) (cpw 0 [(1, 64), (2, 5),(3, 0)]); s.setPr 0 { s.pr 0 with lsWait := [(0, [w])] }
def sy : State := { (cpw 906035200 [(1, 64)]) with press := { (cpw 906035200 [(1, 64)]).press with dmem := writeMem [] 64 (leBytes 8 77 ++ leBytes 4 3 ++ leBytes 2 9 ++ [0,0] ++ leBytes 4 128 ++ List.replicate 12 0) }, sync := [(9, { op := 1, presses := 3 })] }
def du : SyncDue := { press := 0, ls := 0, addr := 128, value := 5, loc := 3, flags := 0 }
def eng (e : Nat) (q : QMacro) : State := (cpw 0 []).setStreamOf 0 0 e { queue := [q, { pc := 96, bytes := [] }], pc := 32 }
def mac (op : Nat) (rest : List Byte) (wait : Nat := 0) (semw : Nat := 0) : List Byte := (BitVec.ofNat 8 op :: 0 :: leBytes 2 semw) ++ [BitVec.ofNat 8 wait, 0, 0, 0] ++ List.replicate 8 0 ++ (rest ++ List.replicate (16 - rest.length) 0)
def qm (b : List Byte) (c : Nat := 0) : QMacro := { pc := 32, bytes := b, cause := c }
def sf (fp : Nat) : State := (cpw 0 []).setStreamOf 0 0 1 { fetch := true, fetching := true, fp := fp }

set_option maxRecDepth 100000 in
theorem test_meets_CpServesQueuesSemaphoresAndSync :
    (let p : Fin 64 := 0; let c : ℕ := 0; let w : ℕ := 806420480; let s : State := fst 0 (cpw 806420480 [(1, 64), (2, 5),(3, 0)]);
      CpAt s p.val c w ∧ FetchCalm s p.val ∧ s.press.dmemErr = [] ∧ w / 2 ^ 24 = 48 ∧ bits w 23 22 = 0 ∧
      s.cpData p.val c (s.cpAddr p.val w) 32 32 = Except.ok (State.Mem.dmem, s.cpAddr p.val w) ∧
      (s.streamOf p.val c (bits w 21 20)).fetch = false) ∧
    (let p : Fin 64 := 0; let c : ℕ := 0; let w : ℕ := 822083586; let s : State := ftc (cpw 822083586 [(1, 64), (2, 5),(3, 0)]);
      CpAt s p.val c w ∧ FetchCalm s p.val ∧ s.press.dmemErr = [] ∧ w / 2 ^ 24 = 49 ∧ reservedZero w 16777200 = true) ∧
    (let p : Fin 64 := 0; let c : ℕ := 0; let w : ℕ := 930152448;
      let s : State := (cpw 930152448 [(1, 64), (2, 5),(3, 0)]).setStreamOf 0 0 1 { flags := 3, sat := 4, inexact := 5, pc := 64, queue := [{ pc := 64, bytes := [] },{ pc := 96, bytes := [] }] };
      let v : ℕ := 3; CpAt s p.val c w ∧ FetchCalm s p.val ∧ s.press.dmemErr = [] ∧ w / 2 ^ 24 = 55 ∧
      reservedZero w 851952 = true ∧ (bits w 3 0 = 0 ∧ v = (s.streamOf p.val c (bits w 17 16)).flags.toNat ∨
      bits w 3 0 = 1 ∧ v = (s.streamOf p.val c (bits w 17 16)).sat ∨
      bits w 3 0 = 2 ∧ v = (s.streamOf p.val c (bits w 17 16)).inexact ∨
      bits w 3 0 = 3 ∧ v = (s.streamOf p.val c (bits w 17 16)).pc ∨
      bits w 3 0 = 4 ∧ v = (s.streamOf p.val c (bits w 17 16)).queue.length ∨
      bits w 3 0 = 5 ∧ v = match (s.streamOf p.val c (bits w 17 16)).st with | StState.idle => 0 | StState.waiting => 1 | StState.busy => 2 | StState.stalled => 3)) ∧
    (let p : Fin 64 := 0; let c : ℕ := 0; let w : ℕ := 939524098;
      let s : State := (cpw 939524098 [(1, 64), (2, 5),(3, 0)]).setStreamOf 0 0 1 { flags := 3, sat := 4, inexact := 5};
      CpAt s p.val c w ∧ FetchCalm s p.val ∧ s.press.dmemErr = [] ∧ w / 2 ^ 24 = 56 ∧ reservedZero w 16777200 = true) ∧
    (let p : Fin 64 := 0; let c : ℕ := 0; let w : ℕ := 956301314; let s : State := cpw 956301314 [(1, 64), (2, 5),(3, 0)];
      CpAt s p.val c w ∧ FetchCalm s p.val ∧ s.press.dmemErr = [] ∧ w / 2 ^ 24 = 57 ∧ reservedZero w 16777200 = true) ∧
    (let p : Fin 64 := 0; let c : ℕ := 0; let w : ℕ := 1056964608; let s : State := cpw 1056964608 [(1, 64), (2, 5),(3, 0)];
      CpAt s p.val c w ∧ FetchCalm s p.val ∧ s.press.dmemErr = [] ∧ w / 2 ^ 24 = 63 ∧ reservedZero w 16777215 = true) ∧
    (let p : Fin 64 := 0; let c : ℕ := 0; let e : ℕ := 1; let a : ℕ := 64;
      let s : State := wt (.queue 1 64) (cpw 0 [(1, 64), (2, 5),(3, 0)]); s.issuing p.val = some c ∧
      (s.pr p.val).cp.wait = CpWait.queue e a ∧ e < 4 ∧ (s.streamOf p.val c e).queue.length < 32 ∧ s.press.dmemErr = [] ∧
      FetchCalm s p.val) ∧
    (let p : Fin 64 := 0; let c : ℕ := 0; let m : ℕ := 3; let s : State := wt (.engines 3) (cpw 0 [(1, 64), (2, 5),(3, 0)]);
      s.issuing p.val = some c ∧ (s.pr p.val).cp.wait = CpWait.engines m ∧ s.enginesIdle p.val c m = true ∧ FetchCalm s p.val) ∧
    (let p : Fin 64 := 0; let who : Fin 5 := 4; let g : Bool := false; let n : ℕ := 0;
      let h : SemWaiter := { press := 0, ctx := 0, who := 4, need := 5 };
      let s : State := sw0 { press := 0, ctx := 0, who := 4, need := 5 };
      (s.metSem p.val fun h => decide (h.press = p.val) && decide (h.who = who.val)) = some (g, n, h) ∧ h.ctx = (s.pr p.val).cur ∧
      (s.semWaiters g p.val n).head? = some h ∧ h.need ≤ s.semCount g p.val n ∧ FetchCalm s p.val) ∧
    (let p : Fin 64 := 0; let c : ℕ := 0; let w : ℕ := 857735168; let g : Bool := false; let n : ℕ := 0;
      let s : State := cpw 857735168 [(1, 64), (2, 5),(3, 0)]; CpAt s p.val c w ∧ FetchCalm s p.val ∧
      s.cpSem p.val c w (some ((s.pr p.val).cp.reg (fRd w)).toNat) = Except.ok (g, n) ∧ w / 2 ^ 24 = 51) ∧
    (let p : Fin 64 := 0; let c : ℕ := 0; let w : ℕ := 874512384; let g : Bool := false; let n : ℕ := 0;
      let s : State := cpw 874512384 [(1, 64), (2, 5),(3, 0)]; CpAt s p.val c w ∧ FetchCalm s p.val ∧
      s.cpSem p.val c w (some ((s.pr p.val).cp.reg (fRd w)).toNat) = Except.ok (g, n) ∧ w / 2 ^ 24 = 52 ∧
      s.semCount g p.val n + ((s.pr p.val).cp.reg (fRd w)).toNat ≤ State.semMax g) ∧
    (let p : Fin 64 := 0; let c : ℕ := 0; let w : ℕ := 891289600; let g : Bool := false; let n : ℕ := 0;
      let s : State := cpw 891289600 [(1, 64), (2, 5),(3, 0)]; CpAt s p.val c w ∧ FetchCalm s p.val ∧
      s.cpSem p.val c w none = Except.ok (g, n) ∧ w / 2 ^ 24 = 53) ∧
    (let p : Fin 64 := 0; let c : ℕ := 0; let w : ℕ := 906035200; let s : State := sy; CpAt s p.val c w ∧ s.press.dmemErr = [] ∧
      w / 2 ^ 24 = 54 ∧ bits w 23 20 = 0 ∧
      s.cpData p.val c (s.cpAddr p.val w) 32 8 = Except.ok (State.Mem.dmem, s.cpAddr p.val w) ∧
      leNat (List.take 2 (List.drop 12 (readMem s.press.dmem (p.val * 2 ^ 18 + s.cpAddr p.val w) 32))) < 4096 ∧
      leNat (List.take 1 (List.drop 14 (readMem s.press.dmem (p.val * 2 ^ 18 + s.cpAddr p.val w) 32))) < 64 ∧
      (readMem s.press.dmem (p.val * 2 ^ 18 + s.cpAddr p.val w) 32).getD 15 0 = 0 ∧
      List.drop 20 (readMem s.press.dmem (p.val * 2 ^ 18 + s.cpAddr p.val w) 32) = List.replicate 12 0 ∧
      leNat (List.take 4 (List.drop 16 (readMem s.press.dmem (p.val * 2 ^ 18 + s.cpAddr p.val w) 32))) % 16 = 0 ∧
      State.within (s.ctx p.val c).lay.dmemBase (s.ctx p.val c).lay.dmemSize (leNat (List.take 4 (List.drop 16 (readMem s.press.dmem (p.val * 2 ^ 18 + s.cpAddr p.val w) 32)))) 16 = true ∧
      leNat (List.take 4 (List.drop 16 (readMem s.press.dmem (p.val * 2 ^ 18 + s.cpAddr p.val w) 32))) + 16 ≤ 2 ^ 18 ∧
      State.within (s.ctx p.val c).lay.lsFirst (s.ctx p.val c).lay.lsCount (leNat (List.take 1 (List.drop 14 (readMem s.press.dmem (p.val * 2 ^ 18 + s.cpAddr p.val w) 32)))) 1 = true ∧
      (s.counter (leNat (List.take 2 (List.drop 12 (readMem s.press.dmem (p.val * 2 ^ 18 + s.cpAddr p.val w) 32))))).op ≠ 0 ∧
      (s.counter (leNat (List.take 2 (List.drop 12 (readMem s.press.dmem (p.val * 2 ^ 18 + s.cpAddr p.val w) 32))))).relay = false ∧
      (s.counter (leNat (List.take 2 (List.drop 12 (readMem s.press.dmem (p.val * 2 ^ 18 + s.cpAddr p.val w) 32))))).presses.getLsbD p.val = true ∧
      (List.filter (fun v => decide (v.1 = p.val)) (s.counter (leNat (List.take 2 (List.drop 12 (readMem s.press.dmem (p.val * 2 ^ 18 + s.cpAddr p.val w) 32))))).waiters).length < 2 ∧
      256 + p.val ∉ (s.counter (leNat (List.take 2 (List.drop 12 (readMem s.press.dmem (p.val * 2 ^ 18 + s.cpAddr p.val w) 32))))).got) ∧
    (let p : Fin 64 := 0; let i : BitVec 12 := 9; let d : SyncDue := du;
      let s : State := { sy with sync := [(9, { op := 1, presses := 3, due := [du] })] };
      List.find? (fun d => decide (d.press = p.val)) (s.counter i.toNat).due = some d ∧ s.semCount false p.val d.ls < 65535) ∧
    (let p : Fin 64 := 0; let c : ℕ := 0; let w : ℕ := 806420480;
      let s : State := fst 31 (cpw 806420480 [(1, 64), (2, 5),(3, 0)]); CpAt s p.val c w ∧ FetchCalm s p.val ∧
      s.press.dmemErr = [] ∧ w / 2 ^ 24 = 48 ∧ bits w 23 22 = 0 ∧
      s.cpData p.val c (s.cpAddr p.val w) 32 32 = Except.ok (State.Mem.dmem, s.cpAddr p.val w) ∧
      (s.streamOf p.val c (bits w 21 20)).fetch = false ∧ (s.streamOf p.val c (bits w 21 20)).queue.length < 32) ∧
    (let p : Fin 64 := 0; let c : ℕ := 0; let w : ℕ := 806420480;
      let s : State := fst 32 (cpw 806420480 [(1, 64), (2, 5),(3, 0)]); CpAt s p.val c w ∧ FetchCalm s p.val ∧
      s.press.dmemErr = [] ∧ w / 2 ^ 24 = 48 ∧ bits w 23 22 = 0 ∧
      s.cpData p.val c (s.cpAddr p.val w) 32 32 = Except.ok (State.Mem.dmem, s.cpAddr p.val w) ∧
      (s.streamOf p.val c (bits w 21 20)).fetch = false ∧ 32 ≤ (s.streamOf p.val c (bits w 21 20)).queue.length) ∧
    (let p : Fin 64 := 0; let c : ℕ := 0; let w : ℕ := 956301314; let s : State := cpw 956301314 [(1, 64), (2, 5),(3, 0)];
      CpAt s p.val c w ∧ FetchCalm s p.val ∧ s.press.dmemErr = [] ∧ w / 2 ^ 24 = 57 ∧ reservedZero w 16777200 = true ∧
      s.enginesIdle p.val c (bits w 3 0) = true) ∧
    (let p : Fin 64 := 0; let c : ℕ := 0; let w : ℕ := 956301314; let s : State := fst 1 (cpw 956301314 [(1, 64), (2, 5),(3, 0)]);
      CpAt s p.val c w ∧ FetchCalm s p.val ∧ s.press.dmemErr = [] ∧ w / 2 ^ 24 = 57 ∧ reservedZero w 16777200 = true ∧
      s.enginesIdle p.val c (bits w 3 0) = false) ∧
    (let p : Fin 64 := 0; let c : ℕ := 0; let w : ℕ := 857735168; let g : Bool := false; let n : ℕ := 0;
      let s : State := cpw 857735168 [(1, 64), (2, 5),(3, 0)]; CpAt s p.val c w ∧ FetchCalm s p.val ∧
      s.cpSem p.val c w (some ((s.pr p.val).cp.reg (fRd w)).toNat) = Except.ok (g, n) ∧ w / 2 ^ 24 = 51 ∧
      s.semWaiters g p.val n = [] ∧ ((s.pr p.val).cp.reg (fRd w)).toNat ≤ s.semCount g p.val n) ∧
    (let p : Fin 64 := 0; let c : ℕ := 0; let w : ℕ := 857735168; let g : Bool := false; let n : ℕ := 0;
      let s : State := cpw 857735168 [(2,9)]; CpAt s p.val c w ∧ FetchCalm s p.val ∧
      s.cpSem p.val c w (some ((s.pr p.val).cp.reg (fRd w)).toNat) = Except.ok (g, n) ∧ w / 2 ^ 24 = 51 ∧
      s.semCount g p.val n < ((s.pr p.val).cp.reg (fRd w)).toNat ∧
      { press := p.val, ctx := c, who := 4, need := ((s.pr p.val).cp.reg (fRd w)).toNat } ∉ s.semWaiters g p.val n) := by
  refine ⟨⟨?_, ?_, ?_, ?_, ?_, ?_, ?_⟩, ⟨?_, ?_, ?_, ?_, ?_⟩, ⟨?_, ?_, ?_, ?_, ?_, ?_⟩, ⟨?_, ?_, ?_, ?_, ?_⟩, ⟨?_, ?_, ?_, ?_,
    ?_⟩, ⟨?_, ?_, ?_, ?_, ?_⟩, ⟨?_, ?_, ?_, ?_, ?_, ?_⟩, ⟨?_, ?_, ?_, ?_⟩, ⟨?_, ?_, ?_, ?_, ?_⟩, ⟨?_, ?_, ?_, ?_⟩, ⟨?_, ?_, ?_,
    ?_, ?_⟩, ⟨?_, ?_, ?_, ?_⟩, ⟨?_, ?_, ?_, ?_, ?_, ?_, ?_, ?_, ?_, ?_, ?_, ?_, ?_, ?_, ?_, ?_, ?_, ?_⟩, ⟨?_, ?_⟩, ⟨?_, ?_, ?_,
    ?_, ?_, ?_, ?_, ?_⟩, ⟨?_, ?_, ?_, ?_, ?_, ?_, ?_, ?_⟩, ⟨?_, ?_, ?_, ?_, ?_, ?_⟩, ⟨?_, ?_, ?_, ?_, ?_, ?_⟩, ⟨?_, ?_, ?_, ?_,
    ?_, ?_⟩, ⟨?_, ?_, ?_, ?_, ?_, ?_⟩⟩ <;>
    first
    | decide +kernel
    | (unfold Mild; decide +kernel)
    | (unfold CpAt; decide +kernel)
    | exact Or.inl (by decide +kernel)

set_option maxRecDepth 100000 in
theorem test_meets_FaultingInstructionsStopTheLaunch :
    (let p : Fin 64 := 0; let e : Fin 4 := 1; let c : ℕ := 0; let q : QMacro := qm [] 4; let s : State := eng 1 (qm [] 4);
      s.issuing p.val = some c ∧ (s.streamOf p.val c e.val).st = StState.idle ∧ (s.streamOf p.val c e.val).queue.head? = some q ∧
      Mild s (1024 + p.val) ∧ bit (s.ctx p.val c).set.toNat p.val = true ∧ (s.ctx p.val c).stopFor = none ∧ q.cause ≠ 0) ∧
    (let p : Fin 64 := 0; let e : Fin 4 := 1; let c : ℕ := 0; let q : QMacro := qm (mac 0x30 []);
      let s : State := eng 1 (qm (mac 0x30 [])); s.issuing p.val = some c ∧ (s.streamOf p.val c e.val).st = StState.idle ∧
      (s.streamOf p.val c e.val).queue.head? = some q ∧ Mild s (1024 + p.val) ∧ bit (s.ctx p.val c).set.toNat p.val = true ∧
      (s.ctx p.val c).stopFor = none ∧ q.cause = 0 ∧ engineAccepts e.val (mOpc q.bytes) = false) ∧
    (let p : Fin 64 := 0; let e : Fin 4 := 3; let c : ℕ := 0; let q : QMacro := qm (mac 0 [] 0 8192);
      let s : State := eng 3 (qm (mac 0 [] 0 8192)); s.issuing p.val = some c ∧ (s.streamOf p.val c e.val).st = StState.idle ∧
      (s.streamOf p.val c e.val).queue.head? = some q ∧ Mild s (1024 + p.val) ∧ bit (s.ctx p.val c).set.toNat p.val = true ∧
      (s.ctx p.val c).stopFor = none ∧ q.cause = 0 ∧ mOpc q.bytes = 0 ∧ 8192 ≤ mField q.bytes 2 2) ∧
    (let p : Fin 64 := 0; let e : Fin 4 := 1; let c : ℕ := 0; let q : QMacro := qm ((mac 0 []).set 9 1);
      let s : State := eng 1 (qm ((mac 0 []).set 9 1)); s.issuing p.val = some c ∧ (s.streamOf p.val c e.val).st = StState.idle ∧
      (s.streamOf p.val c e.val).queue.head? = some q ∧ Mild s (1024 + p.val) ∧ bit (s.ctx p.val c).set.toNat p.val = true ∧
      (s.ctx p.val c).stopFor = none ∧ q.cause = 0 ∧ mOpc q.bytes = 0 ∧ s.headerCheck p.val c e.val q.bytes = none ∧
      noLoop q.bytes = false) ∧
    (let p : Fin 64 := 0; let e : Fin 4 := 1; let c : ℕ := 0; let q : QMacro := qm (mac 1 [33,0,0,0,0,3]);
      let s : State := eng 1 (qm (mac 1 [33,0,0,0,0,3])); s.issuing p.val = some c ∧
      (s.streamOf p.val c e.val).st = StState.idle ∧ (s.streamOf p.val c e.val).queue.head? = some q ∧ Mild s (1024 + p.val) ∧
      bit (s.ctx p.val c).set.toNat p.val = true ∧ (s.ctx p.val c).stopFor = none ∧ q.cause = 0 ∧ mOpc q.bytes = 1 ∧
      s.headerCheck p.val c e.val q.bytes = none ∧ mAdv q.bytes = 0 ∧ noLoop q.bytes = true ∧ mBits q.bytes 21 3 3 = 0 ∧
      mField q.bytes 22 2 = 0 ∧ mField q.bytes 16 5 % 32 ≠ 0) := by
  refine ⟨⟨?_, ?_, ?_, ?_, ?_, ?_, ?_⟩, ⟨?_, ?_, ?_, ?_, ?_, ?_, ?_, ?_⟩, ⟨?_, ?_, ?_, ?_, ?_, ?_, ?_, ?_, ?_⟩, ⟨?_, ?_, ?_, ?_,
    ?_, ?_, ?_, ?_, ?_, ?_⟩, ⟨?_, ?_, ?_, ?_, ?_, ?_, ?_, ?_, ?_, ?_, ?_, ?_, ?_, ?_⟩⟩ <;>
    first
    | decide +kernel
    | (unfold Mild; decide +kernel)

set_option maxRecDepth 100000 in
theorem test_meets_InstructionsWaitThenRun :
    (let p : Fin 64 := 0; let e : Fin 4 := 1; let c : ℕ := 0; let q : QMacro := qm (mac 0 []);
      let s : State := eng 1 (qm (mac 0 [])); let op : ℕ := 0; let i : Instr := .nop 0 1; HeadAt s p.val c e.val q ∧
      (op, i) ∈ [(0, Instr.nop p e), (2, Instr.endStream p e)] ∧ mOpc q.bytes = op ∧ (op = 0 → noLoop q.bytes = true)) ∧
    (let p : Fin 64 := 0; let e : Fin 4 := 1; let c : ℕ := 0; let s : State := sf 64; s.issuing p.val = some c ∧
      (s.streamOf p.val c e.val).fetch = true ∧ (s.streamOf p.val c e.val).fetching = true ∧
      (s.streamOf p.val c e.val).queue.length < 32 ∧ s.press.dmemErr = []) ∧
    (let p : Fin 64 := 0; let e : Fin 4 := 1; let c : ℕ := 0;
      let q : QMacro := qm (mac 1 [32,0,0,0,0,3,0,0,1,0,0xFF,0xFF,2,0,0,0x80]);
      let s : State := eng 1 (qm (mac 1 [32,0,0,0,0,3,0,0,1,0,0xFF,0xFF,2,0,0,0x80])); HeadReady s p.val c e.val q ∧
      mOpc q.bytes = 1 ∧ mAdv q.bytes = 0 ∧ noLoop q.bytes = true ∧ mBits q.bytes 21 3 3 = 0 ∧ mField q.bytes 22 2 = 0 ∧
      mField q.bytes 16 5 % 32 = 0) ∧
    (let p : Fin 64 := 0; let e : Fin 4 := 1; let c : ℕ := 0; let q : QMacro := qm (mac 0 []);
      let s : State := eng 1 (qm (mac 0 [])); let op : ℕ := 0; let i : Instr := .nop 0 1; HeadAt s p.val c e.val q ∧
      (op, i) ∈ [(0, Instr.nop p e), (2, Instr.endStream p e)] ∧ mOpc q.bytes = op ∧ (op = 0 → noLoop q.bytes = true) ∧
      ((s.streamOf p.val c e.val).waited = true ∨ mWaitK q.bytes = 0)) ∧
    (let p : Fin 64 := 0; let e : Fin 4 := 1; let c : ℕ := 0; let q : QMacro := qm (mac 0 [] 5 0);
      let s : State := eng 1 (qm (mac 0 [] 5 0)); let op : ℕ := 0; let i : Instr := .nop 0 1; HeadAt s p.val c e.val q ∧
      (op, i) ∈ [(0, Instr.nop p e), (2, Instr.endStream p e)] ∧ mOpc q.bytes = op ∧ (op = 0 → noLoop q.bytes = true) ∧
      (s.streamOf p.val c e.val).waited = false ∧ 0 < mWaitK q.bytes ∧
      s.semWaiters (mWaitG q.bytes) p.val (mWaitSem q.bytes) = [] ∧
      mWaitK q.bytes ≤ s.semCount (mWaitG q.bytes) p.val (mWaitSem q.bytes)) ∧
    (let p : Fin 64 := 0; let e : Fin 4 := 1; let c : ℕ := 0; let q : QMacro := qm (mac 2 [] 9 0);
      let s : State := eng 1 (qm (mac 2 [] 9 0)); let op : ℕ := 2; let i : Instr := .endStream 0 1; HeadAt s p.val c e.val q ∧
      (op, i) ∈ [(0, Instr.nop p e), (2, Instr.endStream p e)] ∧ mOpc q.bytes = op ∧ (op = 0 → noLoop q.bytes = true) ∧
      (s.streamOf p.val c e.val).waited = false ∧ 0 < mWaitK q.bytes ∧
      s.semCount (mWaitG q.bytes) p.val (mWaitSem q.bytes) < mWaitK q.bytes ∧
      { press := p.val, ctx := c, who := e.val, need := mWaitK q.bytes } ∉ s.semWaiters (mWaitG q.bytes) p.val (mWaitSem q.bytes)) ∧
    (let p : Fin 64 := 0; let e : Fin 4 := 1; let c : ℕ := 0; let s : State := sf 992; s.issuing p.val = some c ∧
      (s.streamOf p.val c e.val).fetch = true ∧ (s.streamOf p.val c e.val).fetching = true ∧
      (s.streamOf p.val c e.val).queue.length < 32 ∧ s.press.dmemErr = [] ∧
      State.within (s.ctx p.val c).lay.dmemBase (s.ctx p.val c).lay.dmemSize (s.streamOf p.val c e.val).fp 32 = true) ∧
    (let p : Fin 64 := 0; let e : Fin 4 := 1; let c : ℕ := 0; let s : State := sf 1024; s.issuing p.val = some c ∧
      (s.streamOf p.val c e.val).fetch = true ∧ (s.streamOf p.val c e.val).fetching = true ∧
      (s.streamOf p.val c e.val).queue.length < 32 ∧ s.press.dmemErr = [] ∧
      State.within (s.ctx p.val c).lay.dmemBase (s.ctx p.val c).lay.dmemSize (s.streamOf p.val c e.val).fp 32 = false) := by
  refine ⟨⟨?_, ?_, ?_, ?_⟩, ⟨?_, ?_, ?_, ?_, ?_⟩, ⟨?_, ?_, ?_, ?_, ?_, ?_, ?_⟩, ⟨?_, ?_, ?_, ?_, ?_⟩, ⟨?_, ?_, ?_, ?_, ?_, ?_, ?_,
    ?_⟩, ⟨?_, ?_, ?_, ?_, ?_, ?_, ?_, ?_⟩, ⟨?_, ?_, ?_, ?_, ?_, ?_⟩, ⟨?_, ?_, ?_, ?_, ?_, ?_⟩⟩ <;>
    first
    | decide +kernel
    | (unfold HeadReady HeadAt; decide +kernel)
    | (unfold HeadAt; decide +kernel)

end C13

namespace C14
def runS (i : Instr) (s : State) : State := match exec i s with | .next t => t | _ => s
def ru : State := (running up).setCtx 0 0 { (running up).ctx 0 0 with lay := { padSize := 2^21, imemSize := 1024, dmemSize := 1024, lsCount := 1, gsCount := 1 }, celSize := 2^24 }
def padb : List Byte := (List.range 512).map fun i => BitVec.ofNat 8 (i * 37 + i / 7)
def eng (e : Nat) (b : List Byte) : State :=
  let u := ru.setStreamOf 0 0 e { queue := [{ pc := 32, bytes := b }, { pc := 96, bytes := [] }], pc := 32, areg := [(0, { cur := 0 }), (1, { cur := 64, s0 := 32 }), (2, { cur := 128 }), (3, { cur := 4096, s0 := 1024 })] }
  { u with press := { u.press with pad := writeMem [] 0 padb } }
def mac (op : Nat) (loop : Nat) (rest : List Byte) : List Byte := (BitVec.ofNat 8 op :: 0 :: leBytes 2 0) ++ [0, 0, 0, 0] ++ leBytes 2 loop ++ List.replicate 6 0 ++ (rest ++ List.replicate (16 - rest.length) 0)
-- sub, D|A<<4, B|C<<4, flags, sfmt, dfmt, aux16, len32, imm32
def vb (op sub fl sf df aux len imm : Nat) (loop : Nat := 0) : List Byte := mac op loop ([BitVec.ofNat 8 sub, 3, 0x21, BitVec.ofNat 8 fl, BitVec.ofNat 8 sf, BitVec.ofNat 8 df] ++ leBytes 2 aux ++ leBytes 4 len ++ leBytes 4 imm)
def qm (b : List Byte) : QMacro := { pc := 32, bytes := b }

set_option maxRecDepth 100000 in
theorem test_meets_VectorsAreWritten :
    (let p : Fin 64 := 0; let c : ℕ := 0; let q : QMacro := qm (vb 0x20 0 0 0x21 0x21 0 8 0 1);
      let s : State := eng 1 (vb 0x20 0 0 0x21 0x21 0 8 0 1); HeadReady s p.val c 1 q ∧ mOpc q.bytes = 32 ∧
      vCheck (fun b => (decide (vSub b ≤ 13) && if 11 ≤ vSub b then decide (vDfmt b = 32) else decide (vDfmt b = vSfmt b)) && (decide (vSub b < 6) || decide (10 < vSub b) || fmtInt (vSfmt b))) q.bytes = none ∧
      s.press.padErr = [] ∧ look 0 s.faults.injLeft (State.injKey 68 p.val) = 0 ∧ Settled s p.val c 1 ∧ Mild s 1265 ∧
      (∀ j < mCount q.bytes, (∀ r ∈ [(vA q.bytes, packedLen (vSfmt q.bytes) (vLen q.bytes)), (vB q.bytes, packedLen (vSfmt q.bytes) (if vBcast q.bytes = true then 1 else vLen q.bytes))], PadFits s p.val c (effAddr (s.streamOf p.val c 1) q.bytes r.1 j) r.2) ∧ PadFits s p.val c (effAddr (s.streamOf p.val c 1) q.bytes (vD q.bytes) j) (packedLen (vDfmt q.bytes) (vLen q.bytes)))) ∧
    (let p : Fin 64 := 0; let c : ℕ := 0; let q : QMacro := qm (vb 0x21 0 0 0x12 0x12 0 4 0);
      let s : State := eng 1 (vb 0x21 0 0 0x12 0x12 0 4 0); HeadReady s p.val c 1 q ∧ mOpc q.bytes = 33 ∧
      vCheck (fun b => decide (vSub b ≤ 7) && decide (vDfmt b = vSfmt b) && (decide (vSub b ≤ 2) || !fmtInt (vSfmt b))) q.bytes = none ∧
      s.press.padErr = [] ∧ look 0 s.faults.injLeft (State.injKey 68 p.val) = 0 ∧ Settled s p.val c 1 ∧ Mild s 1265 ∧
      (∀ j < mCount q.bytes, (∀ r ∈ [(vA q.bytes, packedLen (vSfmt q.bytes) (vLen q.bytes))], PadFits s p.val c (effAddr (s.streamOf p.val c 1) q.bytes r.1 j) r.2) ∧ PadFits s p.val c (effAddr (s.streamOf p.val c 1) q.bytes (vD q.bytes) j) (packedLen (vDfmt q.bytes) (vLen q.bytes)))) ∧
    (let p : Fin 64 := 0; let c : ℕ := 0; let q : QMacro := qm (vb 0x22 0 0 0x12 0x12 0 4 0 1);
      let s : State := eng 1 (vb 0x22 0 0 0x12 0x12 0 4 0 1); HeadReady s p.val c 1 q ∧ mOpc q.bytes = 34 ∧
      vCheck (fun b => decide (vSub b = 0) && decide (vDfmt b = vSfmt b)) q.bytes = none ∧ s.press.padErr = [] ∧
      look 0 s.faults.injLeft (State.injKey 68 p.val) = 0 ∧ Settled s p.val c 1 ∧ Mild s 1265 ∧
      (∀ j < mCount q.bytes, (∀ r ∈ [(vA q.bytes, packedLen (vSfmt q.bytes) (vLen q.bytes)), (vB q.bytes, packedLen (vSfmt q.bytes) (if vBcast q.bytes = true then 1 else vLen q.bytes)), (vC q.bytes, packedLen (vSfmt q.bytes) (vLen q.bytes))], PadFits s p.val c (effAddr (s.streamOf p.val c 1) q.bytes r.1 j) r.2) ∧ PadFits s p.val c (effAddr (s.streamOf p.val c 1) q.bytes (vD q.bytes) j) (packedLen (vDfmt q.bytes) (vLen q.bytes)))) ∧
    (let p : Fin 64 := 0; let c : ℕ := 0; let q : QMacro := qm (vb 0x23 0 0 0x12 0x20 0 4 3);
      let s : State := eng 1 (vb 0x23 0 0 0x12 0x20 0 4 3); HeadReady s p.val c 1 q ∧ mOpc q.bytes = 35 ∧
      vCheck (fun b => decide (vSub b = 0)) q.bytes = none ∧ s.press.padErr = [] ∧
      look 0 s.faults.injLeft (State.injKey 68 p.val) = 0 ∧ Settled s p.val c 1 ∧ Mild s 1265 ∧
      (∀ j < mCount q.bytes, (∀ r ∈ (vA q.bytes, packedLen (vSfmt q.bytes) (vLen q.bytes)) :: if vScaleEn q.bytes = true then [(vC q.bytes, 2)] else [], PadFits s p.val c (effAddr (s.streamOf p.val c 1) q.bytes r.1 j) r.2) ∧ PadFits s p.val c (effAddr (s.streamOf p.val c 1) q.bytes (vD q.bytes) j) (packedLen (vDfmt q.bytes) (vLen q.bytes)))) ∧
    (let p : Fin 64 := 0; let c : ℕ := 0; let q : QMacro := qm (vb 0x26 0 0 0x20 0x12 9 8 0);
      let s : State := eng 1 (vb 0x26 0 0 0x20 0x12 9 8 0); HeadReady s p.val c 1 q ∧ mOpc q.bytes = 38 ∧
      vCheck (fun b => decide (vSub b = 0) && [32, 33, 40, 41].contains (vSfmt b)) q.bytes = none ∧ s.press.padErr = [] ∧
      look 0 s.faults.injLeft (State.injKey 68 p.val) = 0 ∧ Settled s p.val c 1 ∧ Mild s 1265 ∧
      (∀ j < mCount q.bytes, (∀ r ∈ [(vA q.bytes, packedLen (vSfmt q.bytes) (vLen q.bytes)), (vB q.bytes, packedLen (vDfmt q.bytes) (vAux q.bytes + 1))], PadFits s p.val c (effAddr (s.streamOf p.val c 1) q.bytes r.1 j) r.2) ∧ PadFits s p.val c (effAddr (s.streamOf p.val c 1) q.bytes (vD q.bytes) j) (packedLen (vDfmt q.bytes) (vLen q.bytes)))) ∧
    (let p : Fin 64 := 0; let c : ℕ := 0; let q : QMacro := qm (vb 0x24 0 0 0x21 0x21 0 8 3);
      let s : State := eng 1 (vb 0x24 0 0 0x21 0x21 0 8 3); HeadReady s p.val c 1 q ∧ mOpc q.bytes = 36 ∧
      vCheck (fun b => decide (vSub b ≤ 5) && decide (vDfmt b = vSfmt b)) q.bytes = none ∧ s.press.padErr = [] ∧
      look 0 s.faults.injLeft (State.injKey 68 p.val) = 0 ∧ Settled s p.val c 1 ∧ Mild s 1265 ∧
      (∀ j < mCount q.bytes, (∀ r ∈ [(vA q.bytes, packedLen (vSfmt q.bytes) (vLen q.bytes))], PadFits s p.val c (effAddr (s.streamOf p.val c 1) q.bytes r.1 j) r.2) ∧ PadFits s p.val c (effAddr (s.streamOf p.val c 1) q.bytes (vD q.bytes) j) (if (decide (vSub q.bytes = 3) || decide (vSub q.bytes = 4)) = true then argLen (vSfmt q.bytes) else packedLen (vSfmt q.bytes) 1))) ∧
    (let p : Fin 64 := 0; let c : ℕ := 0; let q : QMacro := qm (vb 0x25 0 0 0x12 0x12 0 8 2);
      let s : State := eng 1 (vb 0x25 0 0 0x12 0x12 0 8 2); HeadReady s p.val c 1 q ∧ mOpc q.bytes = 37 ∧
      vCheck (fun b => decide (vSub b = 0) && (decide (vDfmt b = vSfmt b) || decide (vDfmt b = 33)) && fmtLg (vImm b % 256)) q.bytes = none ∧
      s.press.padErr = [] ∧ look 0 s.faults.injLeft (State.injKey 68 p.val) = 0 ∧ Settled s p.val c 1 ∧ Mild s 1265 ∧
      (∀ j < mCount q.bytes, (∀ r ∈ [(vA q.bytes, packedLen (vSfmt q.bytes) (vLen q.bytes))], PadFits s p.val c (effAddr (s.streamOf p.val c 1) q.bytes r.1 j) r.2) ∧ PadFits s p.val c (effAddr (s.streamOf p.val c 1) q.bytes (vD q.bytes) j) 2)) ∧
    (let p : Fin 64 := 0; let c : ℕ := 0; let q : QMacro := qm (vb 0x27 0 0 0x21 0x21 3 8 100);
      let s : State := eng 1 (vb 0x27 0 0 0x21 0x21 3 8 100); HeadReady s p.val c 1 q ∧ mOpc q.bytes = 39 ∧
      vCheck (fun b => decide (vSub b ≤ 1) && decide (vDfmt b = vSfmt b) && decide (1 ≤ vAux b) && decide (vAux b ≤ 256) && decide (vAux b ≤ vLen b)) q.bytes = none ∧
      s.press.padErr = [] ∧ look 0 s.faults.injLeft (State.injKey 68 p.val) = 0 ∧ Settled s p.val c 1 ∧ Mild s 1265 ∧
      (∀ j < mCount q.bytes, (∀ r ∈ [(vA q.bytes, packedLen (vSfmt q.bytes) (vLen q.bytes))], PadFits s p.val c (effAddr (s.streamOf p.val c 1) q.bytes r.1 j) r.2) ∧ PadFits s p.val c (effAddr (s.streamOf p.val c 1) q.bytes (vD q.bytes) j) (vAux q.bytes * argLen (vSfmt q.bytes)))) ∧
    (let p : Fin 64 := 0; let c : ℕ := 0; let q : QMacro := qm (vb 0x28 0 0 0x2A 0x2A 0 4 5);
      let s : State := eng 1 (vb 0x28 0 0 0x2A 0x2A 0 4 5); HeadReady s p.val c 1 q ∧ mOpc q.bytes = 40 ∧
      vCheck (fun b => decide (vSub b ≤ 2) && decide (vDfmt b = vSfmt b) && decide (vDfmt b = if vSub b = 0 then 42 else 18)) q.bytes = none ∧
      s.press.padErr = [] ∧ look 0 s.faults.injLeft (State.injKey 68 p.val) = 0 ∧ Settled s p.val c 1 ∧ Mild s 1265 ∧
      (∀ j < mCount q.bytes, (∀ r ∈ [(vA q.bytes, 16), (vB q.bytes, 16)], PadFits s p.val c (effAddr (s.streamOf p.val c 1) q.bytes r.1 j) r.2) ∧ PadFits s p.val c (effAddr (s.streamOf p.val c 1) q.bytes (vD q.bytes) j) (if vSub q.bytes = 0 then 16 * vLen q.bytes else 4 * vLen q.bytes))) := by
  refine ⟨⟨?_, ?_, ?_, ?_, ?_, ?_, ?_, ?_⟩, ⟨?_, ?_, ?_, ?_, ?_, ?_, ?_, ?_⟩, ⟨?_, ?_, ?_, ?_, ?_, ?_, ?_, ?_⟩, ⟨?_, ?_, ?_, ?_, ?_, ?_, ?_, ?_⟩, ⟨?_, ?_, ?_, ?_, ?_, ?_, ?_, ?_⟩, ⟨?_, ?_, ?_, ?_, ?_, ?_, ?_, ?_⟩, ⟨?_, ?_, ?_, ?_, ?_, ?_, ?_, ?_⟩, ⟨?_, ?_, ?_, ?_, ?_, ?_, ?_, ?_⟩, ⟨?_, ?_, ?_, ?_, ?_, ?_, ?_, ?_⟩⟩ <;>
    first
    | decide +kernel
    | (unfold Mild; decide +kernel)
    | (unfold HeadReady HeadAt; decide +kernel)
    | (unfold PadFits; decide +kernel)
    | (unfold Settled; decide +kernel)

end C14

namespace C15


set_option maxRecDepth 100000 in
theorem test_meets_ElementSumsFollowTheirFormats :
    (let f : ℕ := 32; let w : ℕ := 8; let sg : Bool := true; let a : ℕ := 255; let b : ℕ := 253;
      (f, w, sg) ∈ [(32, 8, true), (33, 16, true), (34, 32, true), (35, 64, true), (40, 8, false), (41, 16, false), (42, 32, false), (43, 64, false)] ∧
      a < 2 ^ w ∧ b < 2 ^ w) ∧
    (let f : ℕ := 32; let w : ℕ := 8; let sg : Bool := true; let a : ℕ := 255; let b : ℕ := 253; let k : ℕ := 0; let x : ℤ := -4;
      (f, w, sg) ∈ [(32, 8, true), (33, 16, true), (34, 32, true), (35, 64, true), (40, 8, false), (41, 16, false), (42, 32, false), (43, 64, false)] ∧
      a < 2 ^ w ∧ b < 2 ^ w ∧
      (k, x) ∈ [(0, (if sg = true then signed w a else ↑a) + if sg = true then signed w b else ↑b), (1, (if sg = true then signed w a else ↑a) - if sg = true then signed w b else ↑b), (2, (if sg = true then signed w a else ↑a) * if sg = true then signed w b else ↑b)]) ∧
    (let x : Machine.Acc := {v := 5, fl := 0}; bit x.fl 0 = false) ∧
    (let x : Machine.Acc := {v := 5, fl := 1}; bit x.fl 0 = true) ∧
    (let anchor : ℤ := 3; let l : ℤ := 0; 0 ≤ l / 256 - anchor + 24) ∧
    (let f : ℕ := 32; let w : ℕ := 8; let sg : Bool := true; let a : ℕ := 127; let b : ℕ := 255; let k : ℕ := 0; let x : ℤ := 126;
      (f, w, sg) ∈ [(32, 8, true), (33, 16, true), (34, 32, true), (35, 64, true), (40, 8, false), (41, 16, false), (42, 32, false), (43, 64, false)] ∧
      a < 2 ^ w ∧ b < 2 ^ w ∧
      (k, x) ∈ [(0, (if sg = true then signed w a else ↑a) + if sg = true then signed w b else ↑b), (1, (if sg = true then signed w a else ↑a) - if sg = true then signed w b else ↑b), (2, (if sg = true then signed w a else ↑a) * if sg = true then signed w b else ↑b)] ∧
      ((if sg = true then -↑(2 ^ (w - 1)) else 0) ≤ x ∧ x ≤ if sg = true then ↑(2 ^ (w - 1)) - 1 else ↑(2 ^ w) - 1)) ∧
    (let f : ℕ := 32; let w : ℕ := 8; let sg : Bool := true; let a : ℕ := 128; let b : ℕ := 133; let k : ℕ := 0;
      let x : ℤ := -251;
      (f, w, sg) ∈ [(32, 8, true), (33, 16, true), (34, 32, true), (35, 64, true), (40, 8, false), (41, 16, false), (42, 32, false), (43, 64, false)] ∧
      a < 2 ^ w ∧ b < 2 ^ w ∧
      (k, x) ∈ [(0, (if sg = true then signed w a else ↑a) + if sg = true then signed w b else ↑b), (1, (if sg = true then signed w a else ↑a) - if sg = true then signed w b else ↑b), (2, (if sg = true then signed w a else ↑a) * if sg = true then signed w b else ↑b)] ∧
      x < if sg = true then -↑(2 ^ (w - 1)) else 0) ∧
    (let f : ℕ := 32; let w : ℕ := 8; let sg : Bool := true; let a : ℕ := 127; let b : ℕ := 9; let k : ℕ := 0; let x : ℤ := 136;
      (f, w, sg) ∈ [(32, 8, true), (33, 16, true), (34, 32, true), (35, 64, true), (40, 8, false), (41, 16, false), (42, 32, false), (43, 64, false)] ∧
      a < 2 ^ w ∧ b < 2 ^ w ∧
      (k, x) ∈ [(0, (if sg = true then signed w a else ↑a) + if sg = true then signed w b else ↑b), (1, (if sg = true then signed w a else ↑a) - if sg = true then signed w b else ↑b), (2, (if sg = true then signed w a else ↑a) * if sg = true then signed w b else ↑b)] ∧
      (if sg = true then ↑(2 ^ (w - 1)) - 1 else ↑(2 ^ w) - 1) < x) ∧
    (let wide : Bool := false; let x : Machine.Acc := { v := 2^63 - 5 }; let d : ℤ := 4; bit x.fl 0 = false ∧
      -(↑(2 ^ ((if wide = true then 96 else 64) - 1)) - 1) - 1 ≤ x.v + d ∧
      x.v + d ≤ ↑(2 ^ ((if wide = true then 96 else 64) - 1)) - 1) ∧
    (let wide : Bool := false; let x : Machine.Acc := { v := 2^63 - 5 }; let d : ℤ := 5; bit x.fl 0 = false ∧
      ↑(2 ^ ((if wide = true then 96 else 64) - 1)) - 1 < x.v + d) ∧
    (let wide : Bool := true; let x : Machine.Acc := { v := -2^95 + 5 }; let d : ℤ := -6; bit x.fl 0 = false ∧
      x.v + d < -(↑(2 ^ ((if wide = true then 96 else 64) - 1)) - 1) - 1) ∧
    (let xs : List (List Val × ℤ) := [([.lg false 300], 0)]; let ws : List (List Val × ℤ) := [([.lg true 20], 256)];
      let l : ℤ := 300; let k : ℤ := 276; maxLog (List.flatMap (fun y => List.map (fun v => (v, y.2)) y.1) xs) = some l ∧
      maxLog (List.flatMap (fun y => List.map (fun v => (v, y.2)) y.1) ws) = some k) := by
  refine ⟨⟨?_, ?_, ?_⟩, ⟨?_, ?_, ?_, ?_⟩, ?_, ?_, ?_, ⟨?_, ?_, ?_, ?_, ?_⟩, ⟨?_, ?_, ?_, ?_, ?_⟩, ⟨?_, ?_, ?_, ?_, ?_⟩, ⟨?_, ?_,
    ?_⟩, ⟨?_, ?_⟩, ⟨?_, ?_⟩, ⟨?_, ?_⟩⟩ <;>
    decide +kernel

end C15

namespace C16
def runS (i : Instr) (s : State) : State := match exec i s with | .next t => t | _ => s
def ru : State := (running up).setCtx 0 0 { (running up).ctx 0 0 with lay := { padSize := 2^21, imemSize := 1024, dmemSize := 1024, lsCount := 1, gsCount := 1 }, celSize := 2^24 }
def padb : List Byte := (List.range 512).map fun i => BitVec.ofNat 8 (i * 37 + i / 7)
def eng (e : Nat) (b : List Byte) : State :=
  let u := ru.setStreamOf 0 0 e { queue := [{ pc := 32, bytes := b }, { pc := 96, bytes := [] }], pc := 32, areg := [(0, { cur := 0 }), (1, { cur := 64, s0 := 32 }), (2, { cur := 128 }), (3, { cur := 4096, s0 := 1024 })] }
  { u with press := { u.press with pad := writeMem [] 0 padb } }
def mac (op : Nat) (loop : Nat) (rest : List Byte) : List Byte := (BitVec.ofNat 8 op :: 0 :: leBytes 2 0) ++ [0, 0, 0, 0] ++ leBytes 2 loop ++ List.replicate 6 0 ++ (rest ++ List.replicate (16 - rest.length) 0)
-- sub, D|A<<4, B|C<<4, flags, sfmt, dfmt, aux16, len32, imm32
def vb (op sub fl sf df aux len imm : Nat) (loop : Nat := 0) : List Byte := mac op loop ([BitVec.ofNat 8 sub, 3, 0x21, BitVec.ofNat 8 fl, BitVec.ofNat 8 sf, BitVec.ofNat 8 df] ++ leBytes 2 aux ++ leBytes 4 len ++ leBytes 4 imm)
def qm (b : List Byte) : QMacro := { pc := 32, bytes := b }
def tb (loop rows fmt ofmt : Nat) (reg22 : Nat := 0) (w : Nat := 3) : List Byte := (mac 0x10 loop ([BitVec.ofNat 8 (w * 16), 1, 0, 0, BitVec.ofNat 8 fmt, BitVec.ofNat 8 ofmt, BitVec.ofNat 8 reg22, 0] ++ leBytes 2 rows ++ leBytes 2 0 ++ [0,0,0,0]))
def te (b : List Byte) (wa : Nat) (s0 : Int := 32768) : State :=
  let u := ru.setStreamOf 0 0 0 { queue := [{ pc := 32, bytes := b }, { pc := 96, bytes := [] }], pc := 32, areg := [(0, { cur := 65536*8 }), (1, { cur := 65536*16, s0 := 32 }), (3, { cur := wa, s0 := s0 })] }
  { u with press := { u.press with pad := writeMem (writeMem [] 0 ((List.range 1024).map fun i => BitVec.ofNat 8 (i * 37 + i / 7))) (65536*8) padb } }
def busy (s : State) : State := s.setStreamOf 0 0 0 { s.streamOf 0 0 0 with st := .busy }
def cel0 (s : State) : State := s.setCtx 0 0 { s.ctx 0 0 with celBase := 0, celSize := 2^24 }
def rb (op loop n : Nat) (x : List Byte := []) : List Byte := mac op loop ([0x32, 0, 0, 0] ++ leBytes 4 n ++ x)
def re (e : Nat) (b : List Byte) (src : Nat := 128) : State :=
  let u := ru.setStreamOf 0 0 e { queue := [{ pc := 32, bytes := b }, { pc := 96, bytes := [] }], pc := 32, areg := [(2, { cur := src, s0 := 32 }), (3, { cur := 4096, s0 := 1024 })] }
  { u with press := { u.press with pad := writeMem [] 0 padb } }
def ebusy (e : Nat) (b : List Byte) : State := (eng e b).setStreamOf 0 0 e { (eng e b).streamOf 0 0 e with st := .busy, curFlags := 3, curSat := 5, curInexact := 2^32, flags := 4, began := 0, waited := true, dest := [(1,2)] }
def madv : List Byte := (((mac 0 1 []).set 1 0x82).set 14 4).set 5 3
def two (s : State) : State := s.setCtx 0 3 { s.ctx 0 0 with saved := some ({ regs := [(1, 9)], pc := 32, running := true }, [{ flags := 3 }, { pc := 7 }, {}, {}]) }
def du2 (s : State) : State := s.setPr 0 { s.pr 0 with switchDue := some 3 }
def rpb : List Byte := mac 0x32 0 (leBytes 4 5 ++ leBytes 2 0 ++ leBytes 2 0x8100)
def collR : CollP := { coll with op := 1, presses := 3 }
def opcR : Contract := up.contractOf (hd fun h => cmdCollOpenExpert h collR up) collR
def rps (k : Option Contract) : State := (eng 3 rpb).setContract 5 k
def x0 : ContribP := { ckey := 5, pour := 0, contributor := 256, seg := 0, phase := 0, step := 0, empty := true, replay := false, ieee := 0, elems := 0, round := 0, gen := 0, saturated := false, poison := false, data := [], chan := none }
def heldR (k : Option Contract) : State := { (rps k).setStreamOf 0 0 3 { (rps k).streamOf 0 0 3 with st := .stalled, pours := [x0], iter := 1 } with time := { now := 2 ^ 70 } }

theorem tb_fits : TmmFits (busy (te (tb 0 1 3 3) 0)) 0 0 (qm (tb 0 1 3 3)).bytes := by
  have hs : (tmmOf (qm (tb 0 1 3 3)).bytes).sr = none := by decide +kernel
  have hc : (tmmOf (qm (tb 0 1 3 3)).bytes).cr = none := by decide +kernel
  have hp : passes (qm (tb 0 1 3 3)).bytes = 1 := by decide +kernel
  unfold TmmFits
  simp only [hs, hc, hp]
  refine ⟨by unfold PadFits; decide +kernel, fun i hi => ?_⟩
  obtain rfl : i = 0 := by omega
  exact ⟨by unfold PadFits; decide +kernel, fun r h => by simp at h, fun r h => by simp at h⟩

set_option maxRecDepth 100000 in
theorem test_meets_TensorPassesAreComputed :
    (let p : Fin 64 := 0; let c : ℕ := 0; let q : QMacro := qm (tb 0 1 3 3 0); let s : State := te (tb 0 1 3 3 0) 0;
      HeadReady s p.val c 0 q ∧ mOpc q.bytes = 16 ∧ tmmCheck q.bytes = none ∧
      (∀ j < mCount q.bytes, PadFits s p.val c (effAddr (s.streamOf p.val c 0) q.bytes (tmmOf q.bytes).w j) 32768)) ∧
    (let p : Fin 64 := 0; let c : ℕ := 0; let q : QMacro := qm (tb 0 1 3 3 0); let s : State := busy (te (tb 0 1 3 3 0) 0);
      Ending s p.val c 0 q ∧ mOpc q.bytes = 16 ∧ tmmCheck q.bytes = none ∧ TmmFits s p.val c q.bytes ∧
      fmtAcc (tmmOf q.bytes).ofmt = false ∧ s.press.padErr = [] ∧ Settled s p.val c 0 ∧ look 0 s.faults.injLeft (State.injKey 68 p.val) = 0 ∧
      Mild s 1264 ∧ Mild s 1265) ∧
    (let p : Fin 64 := 0; let c : ℕ := 0; let q : QMacro := qm (tb 1 1 3 3); let s : State := cel0 (te (tb 1 1 3 3) (2^32+64));
      HeadReady s p.val c 0 q ∧ mOpc q.bytes = 16 ∧ tmmCheck q.bytes = none ∧
      (∀ j < mCount q.bytes, 2 ^ 32 ≤ effAddr (s.streamOf p.val c 0) q.bytes (tmmOf q.bytes).w j ∧ effAddr (s.streamOf p.val c 0) q.bytes (tmmOf q.bytes).w j % 32 = 0 ∧ p.val * staveBytes ≤ effAddr (s.streamOf p.val c 0) q.bytes (tmmOf q.bytes).w j - 2 ^ 32 ∧ effAddr (s.streamOf p.val c 0) q.bytes (tmmOf q.bytes).w j - 2 ^ 32 + 32768 ≤ (p.val + 1) * staveBytes ∧ s.inPartition p.val c (State.Reach.cellar (effAddr (s.streamOf p.val c 0) q.bytes (tmmOf q.bytes).w j - 2 ^ 32)) 32768 = true) ∧
      look false (s.stave p.val).fenced 0 = false) := by
  refine ⟨⟨?_, ?_, ?_, ?_⟩, ⟨?_, ?_, ?_, ?_, ?_, ?_, ?_, ?_, ?_, ?_⟩, ⟨?_, ?_, ?_, ?_, ?_⟩⟩ <;>
    first
    | decide +kernel
    | (unfold Settled; decide +kernel)
    | (unfold Mild; decide +kernel)
    | (unfold HeadReady HeadAt; decide +kernel)
    | (unfold PadFits; decide +kernel)
    | (unfold Ending; decide +kernel)
    | exact tb_fits

theorem rpb_data (s : State) (p c : Nat) (q : QMacro) (hq : q = qm rpb) :
    s.rpourData p c q.bytes 0 = (.ok x0, (s.rpourData p c q.bytes 0).2) := by
  have h : s.rpourData p c q.bytes 0 = (.ok x0, s) := by
    subst hq
    unfold State.rpourData
    rw [if_pos (by decide +kernel)]
    congr 1
  rw [h]

set_option maxRecDepth 100000 in
theorem test_meets_RackingMovesBytesAndPours :
    (let p : Fin 64 := 0; let e : Fin 4 := 2; let c : ℕ := 0; let q : QMacro := qm (rb 0x31 2 64 [1,2,3,4,5,6,7,8]);
      let s : State := re 2 (rb 0x31 2 64 [1,2,3,4,5,6,7,8]); HeadReady s p.val c e.val q ∧ 2 ≤ e.val ∧ s.press.padErr = [] ∧
      look 0 s.faults.injLeft (State.injKey 68 p.val) = 0 ∧ Settled s p.val c e.val ∧ mOpc q.bytes = 49 ∧ rackCheck true q.bytes = none ∧
      (∀ j < mCount q.bytes, PadFits s p.val c (effAddr (s.streamOf p.val c e.val) q.bytes (rDst q.bytes) j) (rBytes q.bytes))) ∧
    (let p : Fin 64 := 0; let e : Fin 4 := 2; let c : ℕ := 0; let q : QMacro := qm (rb 0x30 2 64);
      let s : State := re 2 (rb 0x30 2 64); HeadReady s p.val c e.val q ∧ 2 ≤ e.val ∧ s.press.padErr = [] ∧
      look 0 s.faults.injLeft (State.injKey 68 p.val) = 0 ∧ Settled s p.val c e.val ∧ mOpc q.bytes = 48 ∧ rackCheck false q.bytes = none ∧
      (∀ j < mCount q.bytes, PadFits s p.val c (effAddr (s.streamOf p.val c e.val) q.bytes (rSrc q.bytes) j) (rBytes q.bytes) ∧ PadFits s p.val c (effAddr (s.streamOf p.val c e.val) q.bytes (rDst q.bytes) j) (rBytes q.bytes) ∧ (effAddr (s.streamOf p.val c e.val) q.bytes (rSrc q.bytes) j + rBytes q.bytes ≤ effAddr (s.streamOf p.val c e.val) q.bytes (rDst q.bytes) j ∨ effAddr (s.streamOf p.val c e.val) q.bytes (rDst q.bytes) j + rBytes q.bytes ≤ effAddr (s.streamOf p.val c e.val) q.bytes (rSrc q.bytes) j))) ∧
    (let p : Fin 64 := 0; let e : Fin 4 := 2; let c : ℕ := 0; let q : QMacro := qm (rb 0x30 0 8192);
      let s : State := cel0 (re 2 (rb 0x30 0 8192) (2^32+64)); HeadReady s p.val c e.val q ∧ 2 ≤ e.val ∧ s.press.padErr = [] ∧
      look 0 s.faults.injLeft (State.injKey 68 p.val) = 0 ∧ Settled s p.val c e.val ∧ mOpc q.bytes = 48 ∧ rackCheck false q.bytes = none ∧ e.val = 2 ∧
      mCount q.bytes = 1 ∧ 2 ^ 32 ≤ effAddr (s.streamOf p.val c e.val) q.bytes (rSrc q.bytes) 0 ∧
      effAddr (s.streamOf p.val c e.val) q.bytes (rSrc q.bytes) 0 % 32 = 0 ∧
      effAddr (s.streamOf p.val c e.val) q.bytes (rSrc q.bytes) 0 + rBytes q.bytes ≤ 2 ^ 33 ∧
      s.inPartition p.val c (State.Reach.cellar (effAddr (s.streamOf p.val c e.val) q.bytes (rSrc q.bytes) 0 - 2 ^ 32)) (rBytes q.bytes) = true ∧
      PadFits s p.val c (effAddr (s.streamOf p.val c e.val) q.bytes (rDst q.bytes) 0) (rBytes q.bytes) ∧
      (∀ v < 64, (s.stave v).fenced = [])) := by
  refine ⟨⟨?_, ?_, ?_, ?_, ?_, ?_, ?_, ?_⟩, ⟨?_, ?_, ?_, ?_, ?_, ?_, ?_, ?_⟩, ⟨?_, ?_, ?_, ?_, ?_, ?_, ?_, ?_, ?_, ?_, ?_, ?_, ?_, ?_, ?_⟩⟩ <;>
    first
    | decide +kernel
    | (unfold Settled; decide +kernel)
    | (unfold HeadReady HeadAt; decide +kernel)
    | (unfold PadFits; decide +kernel)

set_option maxRecDepth 100000 in
theorem test_meets_RackingMovesBytesAndPours_2 :
    (let p : Fin 64 := 0; let c : ℕ := 0; let q : QMacro := qm rpb; let x : ContribP := x0; let s : State := rps (some opcR);
      let v : State := ((s.beginHead p.val c 3 []).rpourData p.val c q.bytes 0).2; HeadReady s p.val c 3 q ∧ mOpc q.bytes = 50 ∧
      State.rpourCheck q.bytes = none ∧ (s.ctx p.val c).set.getLsbD (mField q.bytes 22 2 % 512 - 256) = true ∧
      (s.beginHead p.val c 3 []).rpourData p.val c q.bytes 0 = (Except.ok x, v) ∧ (v.contribTry x).1 = false) := by
  refine ⟨?_, ?_, ?_, ?_, ?_, ?_⟩ <;>
    first
    | decide +kernel
    | (unfold HeadReady HeadAt; decide +kernel)

set_option maxRecDepth 100000 in
theorem test_meets_RackingMovesBytesAndPours_3 :
    (let p : Fin 64 := 0; let c : ℕ := 0; let q : QMacro := qm rpb; let x : ContribP := x0; let s : State := rps none;
      let v : State := ((s.beginHead p.val c 3 []).rpourData p.val c q.bytes 0).2; HeadReady s p.val c 3 q ∧ mOpc q.bytes = 50 ∧
      State.rpourCheck q.bytes = none ∧ (s.ctx p.val c).set.getLsbD (mField q.bytes 22 2 % 512 - 256) = true ∧
      (s.beginHead p.val c 3 []).rpourData p.val c q.bytes 0 = (Except.ok x, v) ∧ (v.contribTry x).1 = true ∧ mCount q.bytes = 1) := by
  refine ⟨?_, ?_, ?_, ?_, ?_, ?_, ?_⟩ <;>
    first
    | decide +kernel
    | (unfold HeadReady HeadAt; decide +kernel)

set_option maxRecDepth 100000 in
theorem test_meets_RackingMovesBytesAndPours_4 :
    (let p : Fin 64 := 0; let c : ℕ := 0; let q : QMacro := qm rpb; let x : ContribP := x0; let s : State := heldR (some opcR);
      s.working p.val = some c ∧ (s.streamOf p.val c 3).queue.head? = some q ∧ (s.streamOf p.val c 3).pours = [x] ∧
      (s.contribTry x).1 = false) := by
  refine ⟨?_, ?_, ?_, ?_⟩ <;>
    first
    | decide +kernel
    | (unfold HeadReady HeadAt; decide +kernel)

set_option maxRecDepth 100000 in
theorem test_meets_RackingMovesBytesAndPours_5 :
    (let p : Fin 64 := 0; let c : ℕ := 0; let q : QMacro := qm rpb; let x : ContribP := x0; let s : State := heldR none;
      s.working p.val = some c ∧ (s.streamOf p.val c 3).queue.head? = some q ∧ (s.streamOf p.val c 3).pours = [x] ∧
      (s.contribTry x).1 = true ∧ (s.streamOf p.val c 3).iter = mCount q.bytes) ∧
    (let p : Fin 64 := 0; let c : ℕ := 0; let s : State := heldR (some opcR); s.working p.val = some c ∧
      (s.streamOf p.val c 3).st = StState.stalled ∧ s.sw.ageing * 100000 < s.mono - (s.streamOf p.val c 3).heldAt) := by
  refine ⟨⟨?_, ?_, ?_, ?_, ?_⟩, ⟨?_, ?_, ?_⟩⟩ <;> decide +kernel

set_option maxRecDepth 100000 in
theorem test_meets_InstructionsEndAndContextsSwitch :
    (let p : Fin 64 := 0; let e : Fin 4 := 1; let c : ℕ := 0; let q : QMacro := qm madv; let s : State := ebusy 1 madv;
      Ending s p.val c e.val q ∧ (¬(e.val = 0 ∧ mOpc q.bytes = 16))) ∧
    (let p : Fin 64 := 0; let e : Fin 4 := 1; let c : ℕ := 0; let s : State := { ebusy 1 madv with time := { now := 2^70 } };
      s.working p.val = some c ∧ (s.streamOf p.val c e.val).st = StState.busy ∧
      2 * (s.ctx p.val c).maxBeats * 1000 < (s.mono - (s.streamOf p.val c e.val).began) * s.assured (16 + p.val)) ∧
    (let p : Fin 64 := 0; ∀ s ∈ [two (eng 1 madv), du2 (two (eng 1 madv))], (s.pr p.val).switchDue ≠ none ∨
      (s.runnable p.val (s.pr p.val).cur = true ∧ State.mono s < (s.pr p.val).turnAt + (s.pr p.val).quantum * 1000)) ∧
    (let p : Fin 64 := 0; let i : ℕ := 2; let s : State := { two (eng 1 madv) with time := { now := 2^70 } }; (s.pr p.val).switchDue = none ∧ i < 7 ∧
      (s.runnable p.val (s.pr p.val).cur = false ∨ (s.pr p.val).turnAt + (s.pr p.val).quantum * 1000 ≤ State.mono s) ∧
      s.runnable p.val (((s.pr p.val).cur + 1 + i) % 8) = true ∧
      (∀ j < i, s.runnable p.val (((s.pr p.val).cur + 1 + j) % 8) = false)) ∧
    (let p : Fin 64 := 0; let c : ℕ := 3; let e : ℕ := 1; let s : State := du2 (two (ebusy 1 madv));
      (s.pr p.val).switchDue = some c ∧ e < 4 ∧ ((s.streamOf p.val (s.pr p.val).cur e).st = StState.busy ∨
      (s.streamOf p.val (s.pr p.val).cur e).st = StState.stalled)) ∧
    (let p : Fin 64 := 0; let c : ℕ := 3; let k : Cp := { regs := [(1, 9)], pc := 32, running := true };
      let ks : List Machine.Stream := [{ flags := 3 }, { pc := 7 }, {}, {}]; let s : State := du2 (two (eng 1 madv));
      (s.pr p.val).switchDue = some c ∧ c ≠ (s.pr p.val).cur ∧ (∀ e < 4, (s.streamOf p.val (s.pr p.val).cur e).st = StState.idle ∨
      (s.streamOf p.val (s.pr p.val).cur e).st = StState.waiting) ∧ (s.ctx p.val (s.pr p.val).cur).st = CtxState.running ∧
      (s.ctx p.val (s.pr p.val).cur).finished = false ∧ (s.ctx p.val c).saved = some (k, ks) ∧ ks.length = 4 ∧
      s.press.imemErr = []) := by
  refine ⟨⟨?_, ?_⟩, ⟨?_, ?_, ?_⟩, ?_, ⟨?_, ?_, ?_, ?_, ?_⟩, ⟨?_, ?_, ?_⟩, ⟨?_, ?_, ?_, ?_, ?_, ?_, ?_, ?_⟩⟩ <;>
    first
    | decide +kernel
    | (unfold Ending; decide +kernel)

end C16

namespace C17
def sd : State := { stored up with cel := { (stored up).cel with mem := writeMem [] 4096 bundle, ready := true } }
def plp : PressLoadP := { presses := 1, context := 0, bundle := 0, range := [0], spareBase := 0, spareSize := 0 }
def lrec : PressLaunchP := { lau with padBase := 4096, gsFirst := 3 }
def lds (s : State) : State := loaded s
def lau5 : PressLaunchP := { lau with args := (List.range 64).map (BitVec.ofNat 8 ·), quantum := 77 }
def run2 : State := (running up).setStreamOf 0 0 1 { st := .busy, queue := [{ pc := 0, bytes := [] }, { pc := 32, bytes := [] }] }
def sh : SpHdr := hd fun h => cmdPressStopImmediate h 1 0 up
def gh : SpHdr := hd fun h => cmdPressStopGraceful h 1 0 0 up
def lh : SpHdr := { src := 0, opcode := 0x0602, plen := 80, auth := 4 }
def dig (fin : Bool) (full : Bool) : State := { (running up).setCtx 0 0 { (running up).ctx 0 0 with launch := some lh, digestWait := true, finished := fin, image := [1,2,3], argBlock := [4,5], gid := 7, inDigest := some (List.replicate 16 3) } with
  tele := { select := (1 <<< 248) ||| (if full then 1 <<< 249 else 0) }, adm := { records := [{ gid := 7, claim := .power 5 }, { gid := 8, claim := .power 5 }] } }
def dr (r : Nat) (a : Nat := 128) (n : Nat := 256) (u : DrawUse := .scrub) : Draw := { req := r, addr := a, len := n, use := u }
def st (v : Stave) : State := up.setStave 0 v
def bz (u : DrawUse) (r : Nat := 0) : State :=
  let t := (running up).setStreamOf 0 0 2 { st := .busy, draws := 3, pc := 64 }
  let t := t.setStreamOf 0 0 0 { st := .busy, draws := 3, pc := 64 }
  { t.setStave 0 { grant := some (dr r 128 256 u) } with cel := { (t.setStave 0 { grant := some (dr r 128 256 u) }).cel with mem := writeMem [] 100 ((List.range 512).map fun i => BitVec.ofNat 8 (i+1)) } }
def bs : List Byte := (List.range 256).map fun i => BitVec.ofNat 8 (255 - i)
def acc (u : DrawUse) (rd : Bool) : State := { bz u 9 with cel := { (bz u 9).cel with accesses := [(5, some { window := 1, epoch := 0, left := 1, addr := 128, len := 256, read := rd })] } }
def ww : State := windowed up
def wb : State := { ww with cel := { ww.cel with accesses := [(5, some { window := 1, epoch := 65535, left := 1, addr := 128, len := 256 })] } }
def fc : State := { ww with cel := { ww.cel with fences := [{ window := 1, gen := 1, epoch := 3, hdr := lh }] } }
def fd : State := { fc with cel := { fc.cel with accesses := [(5, some { window := 1, epoch := 2, gen := 0, left := 1, addr := 128, len := 256 })] } }
def scb : State := let t := up.setStave 0 { grant := some (dr 10), scrubAt := 8192 }; { t with cel := { t.cel with err := [(64, { symA := 1 }), (65, { symB := 3 }), (66, { tag := 5 }), (67, { symB := 1 }), (5, { symA := 1 })], poison := [(67, true)] } }

set_option maxRecDepth 100000 in
theorem test_meets_BundlesLoadAndLaunch :
    (let h : SpHdr := hd fun h => cmdPressLoad h plp (stored up); let q : PressLoadP := plp; let s : State := stored up;
      let l : Layout := ((stored up).loadLayout 1 0 bundle).getD {}; Applies s (cmdPressLoad h q s) ∧ s.cel.poison = [] ∧
      s.cel.err = [] ∧ s.cel.stale = [] ∧ s.cel.saves = [] ∧ s.faults.injLeft = [] ∧
      s.loadLayout q.presses.toNat q.context.toNat (s.bundleImage q.bundle.toNat) = some l) ∧
    (let h : SpHdr := hd fun h => cmdPressLayoutRecord h lrec up; let p : PressLaunchP := lrec; let s : State := up;
      Applies s (cmdPressLayoutRecord h p s)) ∧
    (let h : SpHdr := hd fun h => cmdPressLaunch h lau5 (loaded up); let q : PressLaunchP := lau5; let s : State := loaded up;
      let c : Cmd := cmdPressLaunch (hd fun h => cmdPressLaunch h lau5 (loaded up)) lau5 (loaded up);
      let i : Instr := .pressLaunch (hd fun h => cmdPressLaunch h lau5 (loaded up)) lau5;
      let x : PressLaunchP := { presses := lau5.presses, context := lau5.context, args := lau5.args, quantum := 1000 };
      let f : Ctx → Ctx := Ctx.widen;
      (c, i, x, f) ∈ [(cmdPressLaunch h q s, Instr.pressLaunch h q, ({ presses := q.presses, context := q.context, args := q.args, quantum := 1000 } : PressLaunchP), Ctx.widen), (cmdPressLaunchExpert h q s, Instr.pressLaunchExpert h q, q, id)] ∧
      Applies s c ∧ q.args.length = 64 ∧ s.press.imemErr = [] ∧
      (∀ p ∈ members 64 x.presses.toNat, have l := (f (s.ctx p x.context.toNat)).lay; 64 ≤ l.dmemSize ∧ l.dmemBase + l.dmemSize ≤ 2 ^ 18)) := by
  refine ⟨⟨?_, ?_, ?_, ?_, ?_, ?_, ?_⟩, ?_, ⟨?_, ?_, ?_, ?_, ?_⟩⟩ <;>
    first
    | decide +kernel
    | exact (applies_iff _ _).mp (by decide +kernel)
    | exact .head _

set_option maxRecDepth 100000 in
theorem test_meets_LaunchesEnd :
    (let h : SpHdr := sh; let ps : BitVec 64 := 1; let k : BitVec 8 := 0; let s : State := run2;
      Applies s (cmdPressStopImmediate h ps k s) ∧ (s.ctx ((members 64 ps.toNat).headD 0) k.toNat).st = CtxState.running) ∧
    (let h : SpHdr := gh; let ps : BitVec 64 := 1; let k : BitVec 8 := 0; let s : State := run2;
      Applies s (cmdPressStopGraceful h ps k 0 s) ∧ (s.ctx ((members 64 ps.toNat).headD 0) k.toNat).st = CtxState.running ∧
      (∃ q ∈ members 64 ps.toNat, ∃ e < 4, (s.streamOf q k.toNat e).st = StState.busy ∧ (s.streamOf q k.toNat e).queue ≠ [])) ∧
    (let h : SpHdr := sh; let ps : BitVec 64 := 1; let k : BitVec 8 := 0; let s : State := loaded up; let m : BitVec 8 := 0;
      let d : Cmd := cmdPressStopImmediate sh 1 0 (loaded up); let i : Instr := .pressStopImmediate sh 1 0;
      (d, i) ∈ [(cmdPressStopImmediate h ps k s, Instr.pressStopImmediate h ps k), (cmdPressStopGraceful h ps k m s, Instr.pressStopGraceful h ps k m)] ∧
      Applies s d ∧ (s.ctx ((members 64 ps.toNat).headD 0) k.toNat).st ≠ CtxState.running) ∧
    (let p : Fin 64 := 0; let c : Fin 8 := 0; let s : State := dig false true; let h : SpHdr := lh;
      (s.ctx p.val c.val).launch = some h ∧ (s.ctx p.val c.val).st = CtxState.running ∧ (s.ctx p.val c.val).digestWait = true ∧
      (s.ctx p.val c.val).finished = false ∧ s.bookFull = true ∧ s.cel.poison = [] ∧ s.cel.err = []) ∧
    (let p : Fin 64 := 0; let c : Fin 8 := 0; let s : State := dig true true; (s.ctx p.val c.val).st = CtxState.running ∧
      (s.ctx p.val c.val).digestWait = true ∧ (s.ctx p.val c.val).finished = true ∧ s.tele.select.getLsbD 248 = true ∧
      p.val ∈ members 64 (s.ctx p.val c.val).set.toNat ∧ s.cel.poison = [] ∧ s.cel.err = []) := by
  refine ⟨⟨?_, ?_⟩, ⟨?_, ?_, ?_⟩, ⟨?_, ?_, ?_⟩, ⟨?_, ?_, ?_, ?_, ?_, ?_, ?_⟩, ⟨?_, ?_, ?_, ?_, ?_, ?_, ?_⟩⟩ <;>
    first
    | decide +kernel
    | exact (applies_iff _ _).mp (by decide +kernel)
    | exact .head _

set_option maxRecDepth 100000 in
theorem test_meets_StavesGrantByLevelAndRank :
    (let n : Fin 64 := 0; let s : State := st { wait := [dr 3, dr 5, dr 3] }; let r : ℕ := 5; let d : Draw := dr 5;
      s.mayGrant = true ∧ (s.stave n.val).grant = none ∧ r ∈ (s.stave n.val).rank ∧
      (r < 11 ∧ look false (s.stave n.val).fenced r = false ∧ (r = 10 → look 0 (s.stave n.val).used 10 < 2) ∧ ∃ d ∈ (s.stave n.val).wait, d.req = r) ∧
      List.find? (fun d => decide (d.req = r)) (s.stave n.val).wait = some d ∧
      ((State.masked (s.stave n.val) r = false ∧ ∀ (q : ℕ), (q < 11 ∧ look false (s.stave n.val).fenced q = false ∧ (q = 10 → look 0 (s.stave n.val).used 10 < 2) ∧ ∃ d ∈ (s.stave n.val).wait, d.req = q) → State.masked (s.stave n.val) q = false → State.level (s.stave n.val) q ≤ State.level (s.stave n.val) r ∧ (q ∈ List.takeWhile (fun x => decide (x ≠ r)) (s.stave n.val).rank → State.level (s.stave n.val) q < State.level (s.stave n.val) r)) ∨
      ∀ (q : ℕ), (q < 11 ∧ look false (s.stave n.val).fenced q = false ∧ (q = 10 → look 0 (s.stave n.val).used 10 < 2) ∧ ∃ d ∈ (s.stave n.val).wait, d.req = q) → State.masked (s.stave n.val) q = true ∧ q ∉ List.takeWhile (fun x => decide (x ≠ r)) (s.stave n.val).rank)) ∧
    (let n : Fin 64 := 0; let s : State := st { grant := some (dr 3), wait := [dr 4] }; s.mayGrant = true ∧
      (s.stave n.val).grant ≠ none) ∧
    (let n : Fin 64 := 0; let s : State := st {}; s.mayGrant = true ∧
      (∀ (r : ℕ), ¬(r < 11 ∧ look false (s.stave n.val).fenced r = false ∧ (r = 10 → look 0 (s.stave n.val).used 10 < 2) ∧ ∃ d ∈ (s.stave n.val).wait, d.req = r))) ∧
    (let n : Fin 64 := 0; let d : Draw := dr 0; let s : State := st { grant := some (dr 0), wait := [dr 4] };
      (s.stave n.val).grant = some d) ∧
    (let n : Fin 64 := 0; let d : Draw := dr 0; let r : ℕ := 4;
      let s : State := st { grant := some (dr 0), wait := [dr 4], preempt := [(4, some true)] }; (s.stave n.val).grant = some d ∧
      ((s.stave n.val).wait.any fun e => decide (e.req = r)) = true ∧ r < 10 ∧ look false (s.stave n.val).fenced r = false ∧
      look none (s.stave n.val).preempt r = some true ∧ State.masked (s.stave n.val) r = false ∧
      (s.stave n.val).grantAs.getD (State.level (s.stave n.val) d.req) < State.level (s.stave n.val) r) ∧
    (let n : Fin 64 := 0; let d : Draw := dr 0; let s : State := st { grant := some (dr 0), grantAt := 1 };
      (s.stave n.val).grant = some d ∧ s.mono < (s.stave n.val).grantAt + 20000) ∧
    (let n : Fin 64 := 0; let d : Draw := dr 5; let s : State := { st { grant := some (dr 5) } with time := { now := 2^70 } };
      (s.stave n.val).grant = some d ∧ (s.stave n.val).grantAt + 20000 ≤ s.mono ∧ s.severity (832 + n.val) ≤ 3 ∧ 2 < d.req) ∧
    (let n : Fin 64 := 0; let d : Draw := dr 1; let s : State := { st { grant := some (dr 1) } with time := { now := 2^70 } };
      (s.stave n.val).grant = some d ∧ (s.stave n.val).grantAt + 20000 ≤ s.mono ∧ s.severity (832 + n.val) ≤ 3 ∧ d.req ≤ 2) ∧
    (let n : Fin 64 := 0; let d : Draw := dr 0; let s : State := st { grant := some (dr 0), wait := [dr 4] };
      (s.stave n.val).grant = some d ∧ State.preemptor (s.stave n.val) = true ∧ State.drawData d.use = none) ∧
    (let n : Fin 64 := 0; let d : Draw := dr 0 128 256 (.fromPad 0 0 2 bs); let s : State := st { grant := some (dr 0 128 256 (.fromPad 0 0 2 bs)), wait := [dr 4] };
      (s.stave n.val).grant = some d ∧ State.preemptor (s.stave n.val) = true ∧ State.drawData d.use = some bs ∧ s.cel.poison = [] ∧
      s.cel.err = [] ∧ s.cel.stale = [] ∧ s.cel.saves = [] ∧ s.faults.injLeft = []) ∧
    (let n : Fin 64 := 0; let d : Draw := dr 4; let s : State := st { grant := some (dr 4), wait := [dr 0] };
      (s.stave n.val).grant = some d ∧ State.preemptor (s.stave n.val) = false) := by
  refine ⟨⟨?_, ?_, ?_, ?_, ?_, ?_⟩, ⟨?_, ?_⟩, ⟨?_, ?_⟩, ?_, ⟨?_, ?_, ?_, ?_, ?_, ?_, ?_⟩, ⟨?_, ?_⟩, ⟨?_, ?_, ?_, ?_⟩, ⟨?_, ?_, ?_, ?_⟩, ⟨?_, ?_, ?_⟩, ⟨?_, ?_, ?_, ?_, ?_, ?_, ?_, ?_⟩, ⟨?_, ?_⟩⟩ <;>
    first
    | decide +kernel
    | (rintro r ⟨h, -, -, hd⟩; revert hd h; revert r; decide +kernel)
    | (refine .inl ⟨by decide +kernel, ?_⟩; rintro q ⟨h, -, -, hd⟩; revert hd h; revert q; decide +kernel)

set_option maxRecDepth 100000 in
theorem test_meets_DrawsMoveTheirLines :
    (let n : Fin 64 := 0; let d : Draw := dr 0 128 256 (.toPad 0 0 2 64); let s : State := bz (.toPad 0 0 2 64); let p : ℕ := 0;
      let c : ℕ := 0; let e : ℕ := 2; let o : ℕ := 64; (s.stave n.val).grant = some d ∧ s.tiersActive = true ∧ d.req ≠ 10 ∧
      s.cel.stale = [] ∧ s.cel.saves = [] ∧ d.addr + d.len ≤ 2 ^ 32 ∧ 0 < d.len ∧ d.use = DrawUse.toPad p c e o ∧
      (s.cel.poison = [] ∧ s.cel.err = [] ∧ s.faults.injLeft = [] ∧ s.press.padErr = []) ∧
      ((s.ctx p c).st = CtxState.running ∧ (s.streamOf p c e).st = StState.busy) ∧ e < 4) ∧
    (let n : Fin 64 := 0; let d : Draw := dr 0 128 256 (.fromPad 0 0 2 bs); let s : State := bz (.fromPad 0 0 2 bs);
      let p : ℕ := 0; let c : ℕ := 0; let e : ℕ := 2; let bs : List Byte := bs; (s.stave n.val).grant = some d ∧
      s.tiersActive = true ∧ d.req ≠ 10 ∧ s.cel.stale = [] ∧ s.cel.saves = [] ∧ d.addr + d.len ≤ 2 ^ 32 ∧ 0 < d.len ∧
      d.use = DrawUse.fromPad p c e bs ∧ bs.length = d.len ∧
      (s.cel.poison = [] ∧ s.cel.err = [] ∧ s.faults.injLeft = [] ∧ s.press.padErr = []) ∧
      ((s.ctx p c).st = CtxState.running ∧ (s.streamOf p c e).st = StState.busy) ∧ e < 4) ∧
    (let n : Fin 64 := 0; let d : Draw := dr 0 128 256 (.tile 0 0 64); let s : State := bz (.tile 0 0 64); let p : ℕ := 0;
      let c : ℕ := 0; let o : ℕ := 64; (s.stave n.val).grant = some d ∧ s.tiersActive = true ∧ d.req ≠ 10 ∧ s.cel.stale = [] ∧ s.cel.saves = [] ∧
      d.addr + d.len ≤ 2 ^ 32 ∧ 0 < d.len ∧ d.use = DrawUse.tile p c o ∧
      (s.cel.poison = [] ∧ s.cel.err = [] ∧ s.faults.injLeft = [] ∧ s.press.padErr = []) ∧
      ((s.ctx p c).st = CtxState.running ∧ (s.streamOf p c 0).st = StState.busy)) ∧
    (let n : Fin 64 := 0; let d : Draw := dr 0 128 256 (.toPad 0 0 2 64);
      let s : State := { bz (.toPad 0 0 2 64) with cel := { (bz (.toPad 0 0 2 64)).cel with poison := [(2, true)] } };
      let p : ℕ := 0; let c : ℕ := 0; let e : ℕ := 2; let o : ℕ := 64; let k : ℕ := 2; (s.stave n.val).grant = some d ∧
      s.tiersActive = true ∧ d.req ≠ 10 ∧ s.cel.stale = [] ∧ s.cel.saves = [] ∧ d.addr + d.len ≤ 2 ^ 32 ∧ 0 < d.len ∧ d.use = DrawUse.toPad p c e o ∧
      p < 64 ∧ (s.ctx p c).st = CtxState.running ∧ bit (s.ctx p c).set.toNat p = true ∧ (s.ctx p c).stopFor = none ∧
      d.addr / 128 ≤ k ∧ k ≤ (d.addr + d.len - 1) / 128 ∧ look false s.cel.poison k = true ∧ s.cel.err = [] ∧ Mild s 771 ∧
      Mild s (1024 + p)) ∧
    (let n : Fin 64 := 0; let d : Draw := dr 9 128 256 (.readAcc 5 0); let s : State := acc (.readAcc 5 0) true; let i : ℕ := 5;
      let a : Access := { window := 1, epoch := 0, left := 1, addr := 128, len := 256 }; (s.stave n.val).grant = some d ∧
      s.tiersActive = true ∧ d.req ≠ 10 ∧ s.cel.stale = [] ∧ s.cel.saves = [] ∧ d.addr + d.len ≤ 2 ^ 32 ∧ 0 < d.len ∧ d.use = DrawUse.readAcc i 0 ∧
      (s.cel.poison = [] ∧ s.cel.err = [] ∧ s.faults.injLeft = [] ∧ s.press.padErr = []) ∧ look none s.cel.accesses i = some a ∧
      a.left = 1 ∧ a.req = none ∧ a.chan = none ∧ a.addr = d.addr ∧ a.len = d.len ∧ a.read = true ∧ a.data = [] ∧
      a.poisoned = false) ∧
    (let n : Fin 64 := 0; let d : Draw := dr 9 128 256 (.writeAcc 5 bs); let s : State := acc (.writeAcc 5 bs) false;
      let i : ℕ := 5; let a : Access := { window := 1, epoch := 0, left := 1, addr := 128, len := 256, read := false };
      let bs : List Byte := bs; (s.stave n.val).grant = some d ∧ s.tiersActive = true ∧ d.req ≠ 10 ∧ s.cel.stale = [] ∧ s.cel.saves = [] ∧
      d.addr + d.len ≤ 2 ^ 32 ∧ 0 < d.len ∧ d.use = DrawUse.writeAcc i bs ∧ bs.length = d.len ∧
      (s.cel.poison = [] ∧ s.cel.err = [] ∧ s.faults.injLeft = [] ∧ s.press.padErr = []) ∧ look none s.cel.accesses i = some a ∧
      a.left = 1 ∧ a.req = none ∧ a.chan = none ∧ a.read = false) ∧
    (let a : BitVec 32 := 0x01000100; let s : State := ww; let len : ℕ := 256; let w : ℕ := 1; s.pcieUp = true ∧ 0 < len ∧
      s.pcieWindow false a.toNat len = some w ∧ look false (s.stave (a.toNat / staveBytes)).fenced 9 = false) ∧
    (let a : BitVec 32 := 0x01000100; let s : State := ww; let data : List Byte := bs; let w : ℕ := 1; s.pcieUp = true ∧
      data ≠ [] ∧ s.pcieWindow true a.toNat data.length = some w ∧ look false (s.stave (a.toNat / staveBytes)).fenced 9 = false) ∧
    (let a : BitVec 32 := 0x100; let s : State := ww; let len : ℕ := 256; s.pcieUp = true ∧ 0 < len ∧
      s.pcieWindow false a.toNat len = none) ∧
    (let a : BitVec 32 := 0x100; let s : State := ww; let data : List Byte := bs; s.pcieUp = true ∧ data ≠ [] ∧
      s.pcieWindow true a.toNat data.length = none) := by
  refine ⟨⟨?_, ?_, ?_, ?_, ?_, ?_, ?_, ?_, ?_, ?_, ?_⟩, ⟨?_, ?_, ?_, ?_, ?_, ?_, ?_, ?_, ?_, ?_, ?_, ?_⟩, ⟨?_, ?_, ?_, ?_, ?_, ?_, ?_, ?_, ?_, ?_⟩, ⟨?_, ?_, ?_, ?_, ?_, ?_, ?_, ?_, ?_, ?_, ?_, ?_, ?_, ?_, ?_, ?_, ?_, ?_⟩, ⟨?_, ?_, ?_, ?_, ?_, ?_, ?_, ?_, ?_, ?_, ?_, ?_, ?_, ?_, ?_, ?_, ?_, ?_⟩, ⟨?_, ?_, ?_, ?_, ?_, ?_, ?_, ?_, ?_, ?_, ?_, ?_, ?_, ?_, ?_⟩, ⟨?_, ?_, ?_, ?_⟩, ⟨?_, ?_, ?_, ?_⟩, ⟨?_, ?_, ?_⟩, ⟨?_, ?_, ?_⟩⟩ <;>
    first
    | decide +kernel
    | (unfold Mild; decide +kernel)

set_option maxRecDepth 100000 in
theorem test_meets_WindowsPlansAndScrubTakeEffect :
    (let h : SpHdr := hd fun h => cmdCelAccessCreate h win (up); let p : WindowP := win; let s : State := up; p.claim = 0 ∧
      p.fence = false ∧ (s.window p.window.toNat).gid = 65535 ∧ Applies s (cmdCelAccessCreate h p s)) ∧
    (let h : SpHdr := hd fun h => cmdCelAccessChange h win (ww); let p : WindowP := win; let s : State := ww; p.claim = 0 ∧
      p.fence = false ∧ (s.window p.window.toNat).gid = 65535 ∧ Applies s (cmdCelAccessChange h p s)) ∧
    (let h : SpHdr := hd fun h => cmdCelAccessRevoke h win (ww); let p : WindowP := win; let s : State := ww; p.claim = 0 ∧
      p.fence = false ∧ (s.window p.window.toNat).gid = 65535 ∧ Applies s (cmdCelAccessRevoke h p s)) ∧
    (let h : SpHdr := hd fun h => cmdCelAccessFence h win (ww); let p : WindowP := win; let s : State := ww; p.claim = 0 ∧
      p.fence = false ∧ (s.window p.window.toNat).gid = 65535 ∧ Applies s (cmdCelAccessFence h p s)) ∧
    (let h : SpHdr := hd fun h => cmdCelPlan h up; let t : BitVec 16 := 0; let r : BitVec 16 := 0; let d : BitVec 16 := 0;
      let e : BitVec 16 := 0; let s : State := up; let c : Cmd := cmdCelPlan (hd fun h => cmdCelPlan h up) up;
      let i : Instr := .celPlan (hd fun h => cmdCelPlan h up); let plan : List ℕ := [16, 96, 128, 0]; s.cel.stale = [] ∧ s.cel.saves = [] ∧
      (c, i, plan) ∈ [(cmdCelPlan h s, Instr.celPlan h, [16, 96, 128, 0]), (cmdCelPlanExpert h t r d e s, Instr.celPlanExpert h t r d e, [t.toNat, r.toNat, d.toNat, e.toNat])] ∧
      Applies s c) ∧
    (let w : BitVec 16 := 1; let e : ℕ := 3; let h : SpHdr := lh; let s : State := fc; s.cel.fences = [{ window := w.toNat, gen := 1, epoch := e, hdr := h }] ∧
      h.opcode ≠ 774) ∧
    (let w : BitVec 16 := 1; let e : ℕ := 3; let h : SpHdr := lh; let s : State := fd; let i : ℕ := 5;
      let x : Access := { window := 1, epoch := 2, left := 1, addr := 128, len := 256 }; s.cel.fences = [{ window := w.toNat, gen := 1, epoch := e, hdr := h }] ∧
      h.opcode ≠ 774 ∧ (i, some x) ∈ s.cel.accesses ∧ x.window = w.toNat ∧ x.gen < 1) ∧
    (let s : State := up; s.tiersActive = true) ∧
    (let n : Fin 64 := 0; let s : State := scb; let d : Draw := dr 10; s.tiersActive = true ∧ (s.stave n.val).grant = some d ∧
      d.req = 10 ∧ (s.stave n.val).scrubAt % 4096 = 0 ∧ Mild s 768 ∧ Mild s 769 ∧ Mild s 770) ∧
    (let h : SpHdr := hd fun h => cmdCelAccessFence h win (ww); let p : WindowP := win; let s : State := ww; p.claim = 0 ∧
      p.fence = false ∧ (s.window p.window.toNat).gid = 65535 ∧ Applies s (cmdCelAccessFence h p s) ∧ s.cel.accesses = []) ∧
    (let h : SpHdr := hd fun h => cmdCelAccessFence h win (wb); let p : WindowP := win; let s : State := wb; p.claim = 0 ∧
      p.fence = false ∧ (s.window p.window.toNat).gid = 65535 ∧ Applies s (cmdCelAccessFence h p s) ∧
      s.windowBusy p.window.toNat (s.window p.window.toNat).gen = true) ∧
    (let w : BitVec 16 := 1; let e : ℕ := 3; let h : SpHdr := lh; let s : State := fc; s.cel.fences = [{ window := w.toNat, gen := 1, epoch := e, hdr := h }] ∧
      h.opcode ≠ 774 ∧ s.cel.accesses = []) ∧
    (let n : Fin 64 := 0; let s : State := up; s.tiersActive = true ∧ (s.stave n.val).scrubAt < 2 ^ 26 ∧
      (s.stave n.val).grant = none ∧ (∀ d ∈ (s.stave n.val).wait, d.req ≠ 10)) ∧
    (let n : Fin 64 := 0; let s : State := { up with time := { now := 2^81 } }; s.tiersActive = true ∧ (s.stave n.val).scrubLate = false ∧
      max (s.stave n.val).scrubBegan s.cel.scrubFrom + 900 * 10 ^ 9 ≤ s.mono) ∧
    (let n : Fin 64 := 0; let s : State := up; s.tiersActive = false ∨ (s.stave n.val).scrubLate = true ∨
      s.mono < max (s.stave n.val).scrubBegan s.cel.scrubFrom + 900 * 10 ^ 9) := by
  refine ⟨⟨?_, ?_, ?_, ?_⟩, ⟨?_, ?_, ?_, ?_⟩, ⟨?_, ?_, ?_, ?_⟩, ⟨?_, ?_, ?_, ?_⟩, ⟨?_, ?_, ?_, ?_⟩, ⟨?_, ?_⟩, ⟨?_, ?_, ?_, ?_, ?_⟩, ?_, ⟨?_, ?_, ?_, ?_, ?_, ?_, ?_⟩, ⟨?_, ?_, ?_, ?_, ?_⟩, ⟨?_, ?_, ?_, ?_, ?_⟩, ⟨?_, ?_, ?_⟩, ⟨?_, ?_, ?_, ?_⟩, ⟨?_, ?_, ?_⟩, ?_⟩ <;>
    first
    | decide +kernel
    | exact (applies_iff _ _).mp (by decide +kernel)
    | (unfold Mild; decide +kernel)
    | exact .head _

end C17

namespace C18
def big : State := { (windowed (running up)) with pwr := { (running up).pwr with cap := 5000 }, time := { now := 77, incr := 99 }, sync := [(3, { op := 1 })], pending := [.leakAudit], fw := { staging := [(5, 1)], activeVersion := 9, version := 9 }, svc := { up.svc with rings := [(0, { enable := true, outstanding := 3 }), (2, { crHead := 5, crTail := 9 })] } }
def pd (n : Nat) : State := { (big.setPr n { big.pr n with fenced := true, quantum := 55 }) with faults := { big.faults with resetDue := [(0x400 + n, .press n)] }, press := { (big.setPr n { big.pr n with fenced := true, quantum := 55 }).press with pad := writeMem [] (n * 2^21 - 2) [1,2,3,4,5], imem := writeMem [] (n*2^17) [1,2,3], dmem := writeMem [] (n*2^18) [1,2,3] } }
def pd3 : State := { pd 3 with faults := { big.faults with resetDue := [(0x403, .press 3)] } }
def cdue : State := { big with ctl := { big.ctl with fwReady := false, cmdPaused := true }, faults := { resetDue := [(0x6B8, .core 2)] } }
def nb (lc : Nat) : State := { big with ctl := {}, aon := { big.aon with cmp0 := { lvl := true, band := false }, cmp1 := { lvl := true, band := false }, cmp3 := { lvl := true, band := false } }, ident := { big.ident with lcCommit := (List.range (lc+1)).map (fun k => (k, 16)), lcIntent := (List.range (lc+1)).map fun k => (k, 16) } }
def lcs : List Nat := (List.range 5).map fun k => (nb k).lcState
def nbw (lc : Nat) : State := { nb lc with aon := { (nb lc).aon with waking := true, savedPlan := [16,96,128,0] } }
def fb := (List.range 64).map (BitVec.ofNat 8 ·)
def lh0 : SpHdr := { src := 0, opcode := 0x301, plen := 0, auth := 4 }
def dsc : State := { up with fab := { up.fab with discFor := some lh0 } }
def ff : State := { up with faults := { force := [(0x100, true)], forceTime := [(0x100, 5)], sticky := [(0x100,true)], injCount := [(3, 2)] }, time := { now := 2^70 } }
def hv : State := { up with tele := { select := 0x80, harvest := { enable := true, sizeK := 10, prod := 1023, cons := 5 } } }
def ga : Guarantee := { gid := 7, claim := .power 5 }
def gb : Guarantee := { gid := 7, claim := .sync 3 0 }
def ad (g : Guarantee) : State := { up with sync := [(3, { op := 1, devMask := 3 })], adm := { up.adm with rerun := true, records := [g] } }
def dead1 : State := { nb 1 with aon := {} }

set_option maxRecDepth 100000 in
theorem test_meets_ResetsLeaveWhatTheyMust :
    (let i : Instr := .perst; i ∈ [Instr.perst, Instr.functionLevelReset]) ∧
    (let s : State := big; s.faults.resetDue = []) ∧
    (let src : BitVec 11 := 0x403; let n : Fin 64 := 3; let s : State := { pd3 with ctl := { pd3.ctl with cmdPaused := true } };
      s.faults.resetDue = [(src.toNat, FUnit.press n.val)] ∧ src ≠ 2047 ∧ s.ctl.cmdPaused = true) ∧
    (let src : BitVec 11 := 0x403; let n : Fin 64 := 3; let s : State := pd3;
      s.faults.resetDue = [(src.toNat, FUnit.press n.val)] ∧ src ≠ 2047 ∧ s.ctl.cmdPaused = false ∧ (∀ c < 8, (s.ctx n.val c).st ≠ CtxState.running) ∧
      s.faults.contained = [] ∧ s.domActive (16 + n.val) = true) ∧
    (look false { pd3.faults with sticky := [(0x403, true)] }.sticky 0x403 = true) ∧
    (let src : BitVec 11 := 0x6B8; let k : Fin 6 := 2; let s : State := cdue;
      s.faults.resetDue = [(src.toNat, FUnit.core k.val)] ∧ src ≠ 2047 ∧ s.fw.activating = none ∧ s.domActive 1 = true) := by
  refine ⟨?_, ?_, ⟨?_, ?_, ?_⟩, ⟨?_, ?_, ?_, ?_, ?_, ?_⟩, ?_, ⟨?_, ?_, ?_, ?_⟩⟩ <;>
    decide +kernel

set_option maxRecDepth 100000 in
theorem test_meets_TheDeviceBootsItsFirmware :
    (let s : State := nb 0; s.ctl = { } ∧ s.fw.identityOnly = false ∧ s.aon.tripped = false ∧ s.lcPending = []) ∧
    (let h : SpHdr := hd fun h => { (cmdFwBlock h 0 64 fb up) with hdr := h }; let o : BitVec 32 := 0; let n : BitVec 32 := 64;
      let data : List Byte := fb;
      let s : State := { up with fw := { up.fw with staging := [(3,9)], owner := some 0, verified := true } };
      Applies s (cmdFwBlock h o n data s)) ∧
    (let h : SpHdr := hd fun h => cmdFwVerify h up;
      let s : State := { up with fw := { up.fw with staging := [(3,9)], owner := some 0, verified := true } };
      Applies s (cmdFwVerify h s)) ∧
    (let h : SpHdr := hd fun h => cmdFwActivate h up;
      let s : State := { up with fw := { up.fw with staging := [(3,9)], owner := some 0, verified := true } };
      Applies s (cmdFwActivate h s) ∧ s.ctl.recovery = false) ∧
    (let h : SpHdr := hd fun h => cmdLcTransition h 1 up; let g : BitVec 8 := 1;
      let s : State := steady { up with ident := { (nb 0).ident with keyHash := some [1] } }; Applies s (cmdLcTransition h g s)) ∧
    (let s : State := dead1; s.ctl = { } ∧ s.fw.identityOnly = false ∧ s.aon.tripped = false ∧ s.lcPending = [] ∧
      (s.aon.cmp0.lvl = false ∨ s.aon.cmp1.lvl = false)) ∧
    (let s : State := nb 4; s.ctl = { } ∧ s.fw.identityOnly = false ∧ s.aon.tripped = false ∧ s.lcPending = [] ∧
      s.aon.cmp0.lvl = true ∧ s.aon.cmp1.lvl = true ∧ s.lcState = 4) ∧
    (let s : State := nb 3; s.ctl = { } ∧ s.fw.identityOnly = false ∧ s.aon.tripped = false ∧ s.lcPending = [] ∧
      s.aon.cmp0.lvl = true ∧ s.aon.cmp1.lvl = true ∧ s.lcState < 4 ∧ (Option.map CtlRec.marker s.ctlNow).getD false = false ∧
      s.fw.activating = none) ∧
    (let s : State := nb 3; s.ctl = { } ∧ s.fw.identityOnly = false ∧ s.aon.tripped = false ∧ s.lcPending = [] ∧
      s.aon.cmp0.lvl = true ∧ s.aon.cmp1.lvl = true ∧ s.lcState < 4 ∧ (Option.map CtlRec.marker s.ctlNow).getD false = false ∧
      s.imageValid = false) ∧
    (let s : State := nb 0; s.ctl = { } ∧ s.fw.identityOnly = false ∧ s.aon.tripped = false ∧ s.lcPending = [] ∧
      s.aon.waking = false) ∧
    (let s : State := nbw 2; s.ctl = { } ∧ s.fw.identityOnly = false ∧ s.aon.tripped = false ∧ s.lcPending = [] ∧
      s.aon.waking = true ∧ s.aon.cmp0.lvl = true ∧ s.aon.cmp1.lvl = true ∧ s.aon.cmp3.lvl = true ∧ s.lcState < 3 ∧
      (Option.map CtlRec.marker s.ctlNow).getD false = false ∧ s.fw.activating = none) ∧
    (let s : State := up; s.fw.copying = false) ∧
    (let s : State := { up with fw := { copying := true, version := 5 } }; s.fw.copying = true) ∧
    (let s : State := { nb 0 with ident := { (nb 0).ident with keyHash := none } }; s.lcState = 0 ∧ s.ident.keyHash = none) ∧
    (let s : State := nb 2; (s.lcState ≠ 0 ∨ s.ident.keyHash ≠ none)) := by
  refine ⟨⟨?_, ?_, ?_, ?_⟩, ?_, ?_, ⟨?_, ?_⟩, ?_, ⟨?_, ?_, ?_, ?_, ?_⟩, ⟨?_, ?_, ?_, ?_, ?_, ?_, ?_⟩, ⟨?_, ?_, ?_, ?_, ?_, ?_, ?_,
    ?_, ?_⟩, ⟨?_, ?_, ?_, ?_, ?_, ?_, ?_, ?_, ?_⟩, ⟨?_, ?_, ?_, ?_, ?_⟩, ⟨?_, ?_, ?_, ?_, ?_, ?_, ?_, ?_, ?_, ?_, ?_⟩, ?_, ?_,
    ⟨?_, ?_⟩, ?_⟩ <;>
    first
    | decide +kernel
    | exact (applies_iff _ _).mp (by decide +kernel)

set_option maxRecDepth 100000 in
theorem test_meets_BackgroundAndMaintenanceAct :
    (let k : Fin 6 := 2; let s : State := up; s.ctl.fwReady = true ∧ s.severity (1720 + k.val) = 4 ∧
      look false s.faults.sticky (1720 + k.val) = false ∧ s.recentResets (FUnit.core k.val) < 2) ∧
    (let s : State := up; s.ctl.fwReady = true) ∧
    (let s : State := up; s.ctl.fwReady = true ∧ (s.faults.sweep.visit (3 * 2 ^ 20 + 5) s.mono (10 ^ 9)).2 = false) ∧
    (let s : State := { up with time := { now := 2^81 }, faults := { up.faults with sweep := { began := some 0 } } }; s.ctl.fwReady = true ∧ (s.faults.sweep.visit (3 * 2 ^ 20 + 5) s.mono (10 ^ 9)).2 = true) ∧
    (let s : State := { up with faults := { up.faults with mgmtCopy := [(3, some true)] } }; s.ctl.fwReady = true ∧
      look none s.faults.mgmtCopy 3 = some true ∧ look none s.faults.mgmtCopy 3 ≠ some false) ∧
    (let i : BitVec 11 := 0x100; let s : State := ff; faultDefault i.toNat ≠ none ∧ look 0 s.faults.forceTime i.toNat ≠ 0 ∧
      look 0 s.faults.forceTime i.toNat ≤ s.mono) ∧
    (let s : State := hv; s.ctl.fwReady = true ∧ s.tele.select = 128 ∧ s.tele.harvest.enable = true ∧
      State.recFull s.tele.harvest = false ∧ s.tele.traceCtl = 0) ∧
    (let s : State := { up with tele := { up.tele with select := 0 } }; s.ctl.fwReady = true ∧ s.tele.select = 0 ∧ s.tele.traceCtl = 0 ∧ ∀ k < 6, bit s.tele.traceCtl.toNat k = false) ∧
    (let s : State := up; s.adm.rerun = false) ∧
    (let g : Guarantee := ga; let s : State := ad ga; s.adm.rerun = true ∧ s.adm.records = [g] ∧ g.st = GState.admitted ∧
      s.svc.staged = [] ∧ s.asideList = []) ∧
    (let k : Fin 6 := 2; let s : State := up; s.ctl.fwReady = true ∧
      (∀ v ∈ s.faults.violations, v.1 ≠ k.val)) ∧
    (let k : Fin 6 := 2; let s : State := dsc; let h : SpHdr := lh0; s.ctl.fwReady = true ∧
      (∀ v ∈ s.faults.violations, v.1 ≠ k.val) ∧ s.fab.discFor = some h ∧ s.fab.commitFor = []) ∧
    (let g : BitVec 7 := 3; let s : State := ff; look 0 s.faults.injCount g.toNat ≠ 0 ∧ s.faults.injLeft = []) ∧
    (let g : Guarantee := ga; let s : State := ad ga; s.adm.rerun = true ∧ s.adm.records = [g] ∧ g.st = GState.admitted ∧
      s.svc.staged = [] ∧ s.asideList = [] ∧ (State.reshape { s with adm := { s.adm with rerun := false } }).failsWith [] g = []) ∧
    (let g : Guarantee := gb; let s : State := ad gb; s.adm.rerun = true ∧ s.adm.records = [g] ∧ g.st = GState.admitted ∧
      s.svc.staged = [] ∧ s.asideList = [] ∧
      (List.foldl State.setAside (State.reshape { s with adm := { s.adm with rerun := false } }) ((State.reshape { s with adm := { s.adm with rerun := false } }).failsWith [] g)).failsWith [] g ≠ [] ∧
      (State.reshape { s with adm := { s.adm with rerun := false } }).failsWith [] g ≠ [] ∧ Mild s 1680) := by
  refine ⟨⟨?_, ?_, ?_, ?_⟩, ?_, ⟨?_, ?_⟩, ⟨?_, ?_⟩, ⟨?_, ?_, ?_⟩, ⟨?_, ?_, ?_⟩, ⟨?_, ?_, ?_, ?_, ?_⟩, ⟨?_, ?_, ?_, ?_⟩, ?_, ⟨?_, ?_, ?_, ?_, ?_⟩, ⟨?_, ?_⟩, ⟨?_, ?_, ?_, ?_⟩, ⟨?_, ?_⟩, ⟨?_, ?_, ?_, ?_, ?_, ?_⟩, ⟨?_, ?_, ?_, ?_, ?_, ?_, ?_, ?_⟩⟩ <;>
    first
    | decide +kernel
    | (unfold Mild; decide +kernel)

end C18

namespace C19
def qd : State := { up with faults := { sev := [(0x112, some 1)] } }

set_option maxRecDepth 100000 in
theorem test_meets_SeverityActsAtTheNextAssertion :
    (let s : State := up; s.pcieUp = true) ∧
    (let h : SpHdr := hd fun h => cmdFaultCfg h 0 2 [1, 5] up; let a : BitVec 16 := 0; let n : BitVec 16 := 2;
      let v : List (BitVec 8) := [1, 5]; let s : State := up; Applies s (cmdFaultCfg h a n v s)) ∧
    (let i : ℕ := 0x112; let s : State := { up with faults := { sticky := [(0x112, true)] } };
      look false s.faults.sticky i = true) ∧
    (let i : ℕ := 0x6B8; let u : FUnit := .core 0; let s : State := up; faultDefault i ≠ none ∧
      look false s.faults.sticky i = false ∧ u ≠ FUnit.none ∧ s.severity i = 4 ∧ s.recentResets u < 2) ∧
    (let i : ℕ := 0x340; let u : FUnit := .press 0; let s : State := up; faultDefault i ≠ none ∧
      look false s.faults.sticky i = false ∧ u ≠ FUnit.none ∧ s.severity i = 3) ∧
    (let i : ℕ := 0x3; let u : FUnit := .port 0; let s : State := up; faultDefault i ≠ none ∧
      look false s.faults.sticky i = false ∧ u ≠ FUnit.none ∧ s.severity i ≤ 2) := by
  refine ⟨?_, ?_, ?_, ⟨?_, ?_, ?_, ?_, ?_⟩, ⟨?_, ?_, ?_, ?_⟩, ⟨?_, ?_, ?_, ?_⟩⟩ <;>
    first
    | decide +kernel
    | exact (applies_iff _ _).mp (by decide +kernel)

set_option maxRecDepth 100000 in
theorem test_meets_EveryStepKeepsTheMemoriesCanonical :
    (let s : State := { up with pending := [.leakAudit], cel := { up.cel with mem := [(5, 1), (9, 2)] } };
      let t : State := match step { up with pending := [.leakAudit], cel := { up.cel with mem := [(5, 1), (9, 2)] } } with | .next t => t | _ => up;
      MemoriesCanonical s ∧ step s = Host.Outcome.next t) := by
  refine ⟨?_, ?_⟩ <;>
    first
    | decide +kernel
    | (unfold MemoriesCanonical; decide +kernel)
    | rfl

set_option maxRecDepth 100000 in
theorem test_meets_PartnersAreMutual :
    (let n : ℕ := 3; let d : ℕ := 2; d < n) ∧
    (let n : ℕ := 3; let d : ℕ := 2; let k : ℕ := 1; d < n ∧ k < d) ∧
    (let n : ℕ := 3; let u : ℕ := 5; let d : ℕ := 2; d < n ∧ u < 2 ^ n) := by
  refine ⟨?_, ⟨?_, ?_⟩, ⟨?_, ?_⟩⟩ <;>
    decide +kernel

set_option maxRecDepth 100000 in
theorem test_meets_PacketSlotsReadBack :
    (let p : Packet := { ty := 0, tc := 7, dst := 0, src := 0, tspec := List.replicate 16 255, payload := List.replicate 16352 7 };
      p.tspec.length = 16 ∧ p.payload.length ≤ 16352) ∧
    (let f : Flit := { credits := [(0, 63), (15, 1)], slots := List.replicate 37 (List.replicate 16 255) };
      f.slots.length = 37 ∧ (∀ x ∈ f.slots, x.length = 16) ∧ canon 0 f.credits = true ∧ (∀ e ∈ f.credits, e.1 < 16 ∧ e.2 < 64)) := by
  refine ⟨⟨?_, ?_⟩, ⟨?_, ?_, ?_, ?_⟩⟩ <;> decide +kernel

end C19

def h0 : SpHdr := { src := 0, opcode := 0x0101, plen := 0, auth := 4 }

/-! ### Well-formedness: each check refuses an ill-formed term -/

theorem test_wf_tspec : (Packet.wf { ty := 0, tc := 0, dst := 0, src := 0, tspec := List.replicate 17 0 }) = false := by decide
theorem test_wf_payload : (Packet.wf { ty := 0, tc := 0, dst := 0, src := 0, payload := List.replicate 16353 0 }) = false := by
  unfold Packet.wf
  rw [List.length_replicate]
  decide
theorem test_wf_slots : Instr.wf (.nullFlitReceive { link := 0 } { slots := List.replicate 38 (List.replicate 16 0) }) = false := by decide
theorem test_wf_slot : Instr.wf (.sequencedFlitReceive 0 { slots := [[1]] } []) = false := by decide
theorem test_wf_credit : Instr.wf (.retryReqReceive { link := 0 } { credits := [(3, 64)] }) = false := by decide
theorem test_wf_vc : Instr.wf (.idleEntryReceive { link := 0 } { credits := [(16, 1)] }) = false := by decide
theorem test_wf_hops : Instr.wf (.takeoverReceive { port := 0, msg := { msg := 8, hops := 256 } }) = false := by decide
theorem test_wf_root_hops : Instr.wf (.helloReceive 0 { msg := 1, rootHops := 256 }) = false := by decide
theorem test_wf_seq : Instr.wf (.fabRouteExpert h0 { kind := 2, seq := List.replicate 19 0 }) = false := by decide
theorem test_wf_map :
    Instr.wf (.fabDiscoverExpert h0 { ndim := 1, twisted := false, marked := false, rootFna := 0, map := [] }) = false := by decide
theorem test_wf_qos : Instr.wf (.qosProfile h0 { qp with account := [(16, 4096)] }) = false := by decide
theorem test_wf_proportion : Instr.wf (.qosProfile h0 { qp with proportion := [100] }) = false := by decide
theorem test_wf_gates :
    Instr.wf (.qosGates h0 { link := 40, guardBand := false, guarantee := false, claim := [], entries := [] }) = false := by decide
set_option maxRecDepth 4000 in
theorem test_wf_entries :
    Instr.wf (.qosGates h0
      { link := 40, guardBand := false, guarantee := false, claim := List.replicate 8 0, entries := List.replicate 257 (1, 1) }) =
      false := by decide
theorem test_wf_segments : Instr.wf (.collOpenExpert h0 { coll with seg := List.replicate 17 ⟨0, 0, 0, 0⟩ }) = false := by decide
theorem test_wf_basic_segments : Instr.wf (.collOpen h0 { coll with seg := List.replicate 17 ⟨0, 0, 0, 0⟩ }) = false := by decide
theorem test_wf_args : Instr.wf (.pressLaunch h0 { lau with args := [] }) = false := by decide
theorem test_wf_severity : Instr.wf (.faultCfg h0 0 2 [1]) = false := by decide
theorem test_wf_block : Instr.wf (.fwBlock h0 0 4 [1, 2, 3]) = false := by decide
theorem test_wf_board : Instr.wf (.boot [] true true true) = false := by decide
theorem test_wf_wake : Instr.wf (.wake [] true true true) = false := by decide
theorem test_wf_hash : Instr.wf (.jtagKeyHashWrite [1]) = false := by decide

/-! ### Single steps, with results that the spec states -/

/-- A step takes the command at the front, and an empty queue idles. -/
theorem test_step_front : step { up with pending := [.rackClkEdge, .leakAudit] } = exec .rackClkEdge { up with pending := [.leakAudit] } :=
  rfl
theorem test_step_idle : step up = .next up := rfl
/-- R388: with RACK_CLK lost, D0's own oscillator counts at the last INCR. -/
theorem test_step_oscillator :
    step { time := { clkLost := true } } = .next { time := { clkLost := true, now := 10 * 2 ^ 40 } } := rfl
/-- `withFetchWord` leaves the state: no row has bits. -/
theorem test_no_words : decodeTableWord 16 0 = none := rfl

/-- The state after a command. -/
def after (i : Instr) (s : State) : State :=
  match exec i s with
  | .next t => t
  | _ => s

/-- R388: INCR of the 100 MHz clock is 10 ns. -/
theorem test_clock : (after .rackClkEdge {}).time.now = 10 * 2 ^ 40 := by decide +kernel
/-- R393: a step over 2^104 wraps. -/
theorem test_clock_wraps : (after .rackClkEdge { time := { now := 2 ^ 104 - 1 } }).time.now = 10 * 2 ^ 40 - 1 := by decide +kernel
/-- R353: a severity write changes a severity and no sticky bit. -/
theorem test_severity_write :
    ((after (.faultSevWrite 64 0x00000003) up).severity 0x100, (after (.faultSevWrite 64 3) up).faults.sticky) = (3, []) := by
  decide +kernel
/-- R339: FORCE sets the sticky bit of its source. -/
theorem test_force : look false (after (.faultForceWrite 8 1) up).faults.sticky 0x100 = true := by decide +kernel
/-- R354: a 1 clears a sticky bit whose cause is gone. -/
theorem test_sticky_clear :
    look false (after (.faultStickyClear 8 1) { up with faults := { sticky := [(0x100, true)] } }).faults.sticky 0x100 = false := by
  decide +kernel
/-- R198: the slot of an unbound counter is discarded with FS 0x630. -/
theorem test_unbound_slot :
    look false (after (.syncSlotReceive 256 { syncId := 9, op := 1, step := 0xFF, payload := 4 }) up).faults.sticky 0x630 = true := by
  decide +kernel
/-- R431: fabric time survives the full reset, and the rings do not. -/
theorem test_reset : (after .sysReset { up with time := { now := 77 } }).time.now = 77 ∧
    (after .sysReset up).svc.rings = [] := by decide +kernel

/-! ### The line -/

/-- The published check value of the CRC-64 whose parameters R70 gives. -/
theorem test_crc64 : crc64 [0x31, 0x32, 0x33, 0x34, 0x35, 0x36, 0x37, 0x38, 0x39] 0 = 0x6C40DF5F0B497347 := by decide +kernel
/-- R63: 00 to -3, 01 to -1, 11 to +1, 10 to +3. -/
theorem test_pam4 : (pam4 false false, pam4 false true, pam4 true true, pam4 true false) = (-3, -1, 1, 3) := by decide
/-- R71: x^10 + x^3 + 1 is zero at α. -/
theorem test_alpha : gfAlpha 10 = gfAlpha 3 ^^^ 1 := by decide
/-- R71: the generator's roots are roots of a message with its parity. -/
theorem test_parity : (List.range 16).all (fun i => gfEval ([1, 2, 1023] ++ rsParity [1, 2, 1023]) (gfAlpha i) = 0) = true := by
  decide +kernel
/-- R71: lane j mod w carries symbol j, bits 1 and 0 first. -/
theorem test_lanes : laneLevels 4 1 [0, 0b1001011100, 0, 0, 0, 0b0000000010] = [-3, 1, -1, -1, 3, 3, -3, -3, -3, -3] := by decide
def lineFlit : Flit :=
  sealFlit
    { seq := 5, ack := 0xABC, ftype := 1, pvc := 3, credits := [(0, 63), (7, 5), (15, 1)], timeTx := 0x123456789ABCDEF
      slots := (List.range 37).map fun k => (List.range 16).map fun i => BitVec.ofNat 8 (k * 16 + i)
      sync := { syncId := 0x9AB, op := 5, step := 3, flags := 128, loc := 77, payload := 0x1122334455667788 } }
set_option maxRecDepth 100000 in
/-- R66: a flit reads back from its bytes. -/
theorem test_flit_bytes : flitOfBytes (flitBytes lineFlit) = lineFlit ∧ (flitBytes lineFlit).length = 640 := by decide +kernel

/-! ### The statements on every command -/

/-- The sources that contain or quiesce by default. -/
def severe : List Nat := [0x111, 0x112, 0x151] ++ (List.range 64).map (0x340 + ·) ++ [0x611] ++ (List.range 6).map (0x6B8 + ·)

/-- Each of them at severity 1. -/
def mildAll : State := { up with faults := { sev := severe.map fun j => (j, some 1) } }

theorem look_map_one (l : List Nat) (j : Nat) : look none (l.map fun k => (k, some 1)) j = if j ∈ l then some 1 else none := by
  induction l with
  | nil => rfl
  | cons k t ih => by_cases h : j = k <;> simp [look, h, eq_comm (a := k), ih]

theorem look_bound (t : Tab (Option Nat)) (h : ∀ e ∈ t, e.2.getD 0 ≤ 2 ∨ e.1 ∈ severe) (j : Nat) (hj : j ∉ severe) :
    (look none t j).getD 0 ≤ 2 := by
  induction t with
  | nil => simp [look]
  | cons e t ih =>
    obtain ⟨k, v⟩ := e
    by_cases hk : k = j
    · simpa [look, hk, hj] using h (k, v) (by simp)
    · simpa [look, hk] using ih fun e he => h e (by simp [he])

/-- No source of `mildAll` acts, and a command runs there. -/
theorem test_meets_OnlyTheirCommandsChangeThem :
    (∀ j, Mild mildAll j) ∧ (∃ t, exec .perst mildAll = .next t) ∧ writesTime .perst = false := by
  refine ⟨fun j => ?_, ⟨_, rfl⟩, rfl⟩
  show ((look none (severe.map fun k => (k, some 1)) j).getD ((faultDefault j).getD 0)) ≤ 2
  rw [look_map_one]
  split
  · show 1 ≤ 2
    decide
  · next hj =>
    have a : ¬ (0x340 ≤ j ∧ j < 0x380) := fun h => hj (by
      simp only [severe, List.mem_append, List.mem_map, List.mem_range]
      exact .inl (.inl (.inr ⟨j - 0x340, by omega, by omega⟩)))
    have b : ¬ (0x6B8 ≤ j ∧ j < 0x6BE) := fun h => hj (by
      simp only [severe, List.mem_append, List.mem_map, List.mem_range]
      exact .inr ⟨j - 0x6B8, by omega, by omega⟩)
    show (faultDefault j).getD 0 ≤ 2
    unfold faultDefault
    rw [if_neg a, if_neg b]
    split
    · split <;> decide
    repeat' split
    all_goals first | decide | exact look_bound _ (by decide +kernel) j hj

end Sys2Proof.Tests
end

section
/-!
PROOFS. Edanis links: EQ that fails at 56 Gb/s (R87), and which links LINK_DOWN of a port speaks of (R62, R90).

`linkMoved` ends the level of FS 4p + 1 when every link that port p's split lists is ACTIVE. The statement quantifies over every
link number, and so also over a number that the split lists no link for: its failure is not among the conditions of the level.
LANE_DETECT starts no such link, and the premise `l.val ∈ s.linksOf (l.val / 4)` would leave it out.
-/

open Sys2Proof Sys2Proof.Machine

namespace Sys2Proof.Machine

/-- BRINGUP_TIMEOUT in EQ with no lower rate left to try: the link fails (R85, R87). -/
theorem exec_bringupTimeout_of_eq_lowest (l : Fin 256) (s : State) (hst : (s.link l.val).st = .eq)
    (hrate : (s.link l.val).tryRate = 0) : exec (.bringupTimeout l) s = .next (s.linkFails l.val) := by
  show execBringupTimeout l s = _
  simp [execBringupTimeout, hst, hrate]

/-- Port 0 runs as one x4 link, link 0, which is ACTIVE; the record of lane 1, no link under this split, stands in EQ at 56 Gb/s. -/
def unlistedLinkInEq : State := (({} : State).setLink 0 { st := .active }).setLink 1 { st := .eq, tryRate := 0 }

/-- All the links that port 0's split lists are ACTIVE, so what follows the failure of link 1 ends the level of FS 1. -/
theorem level_linkFails_unlistedLinkInEq : look false (unlistedLinkInEq.linkFails 1).faults.level 1 = false := by decide

/-- Refutes O26: in `unlistedLinkInEq` the EQ of link 1 fails at 56 Gb/s, and the level of FS 4p + 1 does not hold afterwards, because
port 0 lists link 0 alone, which is ACTIVE. It is the second clause that fails, for a link number outside `linksOf`. -/
theorem not_higherRatesAreTriedFirst : ¬ Obligations.HigherRatesAreTriedFirst := by
  unfold Obligations.HigherRatesAreTriedFirst
  rintro ⟨-, eqFailure⟩
  obtain ⟨t, hexec, -, hlevel, -⟩ := eqFailure 1 unlistedLinkInEq (by decide) (by decide) (by decide)
  have hfails := exec_bringupTimeout_of_eq_lowest 1 unlistedLinkInEq (by decide) (by decide)
  obtain rfl : unlistedLinkInEq.linkFails 1 = t := Host.Outcome.next.inj (hfails.symm.trans hexec)
  exact Bool.false_ne_true (level_linkFails_unlistedLinkInEq.symm.trans hlevel)

end Sys2Proof.Machine
end

section
/-!
PROOFS. Switch core: the limits of the accounts take effect at once (R139-R141).
-/

open Sys2Proof Sys2Proof.Machine

namespace Sys2Proof.Machine
namespace State

/-! ### Changes of settings alone: queues, policers and gates -/

/-- `t` is `s` but for the queues, policers and gates: the buffer's casks, accounts and settings, and every other unit, stay. -/
def OnlyScheduled (s t : State) : Prop :=
  t = { s with sw := { s.sw with queues := t.sw.queues, policers := t.sw.policers, gates := t.sw.gates } }

theorem OnlyScheduled.refl (s : State) : OnlyScheduled s s := rfl

theorem OnlyScheduled.trans {s t u : State} (h : OnlyScheduled s t) (k : OnlyScheduled t u) : OnlyScheduled s u := by
  unfold OnlyScheduled at *
  rw [k, h]

theorem setQueue_onlyScheduled (s : State) (k : Nat) (v : Queue) : OnlyScheduled s (s.setQueue k v) := rfl

theorem setPolicer_onlyScheduled (s : State) (k : Nat) (v : Policer) : OnlyScheduled s (s.setPolicer k v) := rfl

theorem OnlyScheduled.clearGates {s t : State} (h : OnlyScheduled s t) : OnlyScheduled s (t.setSw { t.sw with gates := [] }) :=
  h.trans rfl

theorem OnlyScheduled.foldl {α : Type} {s t : State} {f : State → α → State} (h : OnlyScheduled s t)
    (hf : ∀ u e, OnlyScheduled u (f u e)) (l : List α) : OnlyScheduled s (l.foldl f t) :=
  List.foldlRecOn l f h fun u hu e _ => hu.trans (hf u e)

theorem OnlyScheduled.limits {s t : State} (h : OnlyScheduled s t) : t.sw.limits = s.sw.limits := by rw [h]

/-- The defaults of queues, policers and gates touch nothing else (R31, R32). -/
theorem qosDefaults_onlyScheduled (s : State) : OnlyScheduled s s.qosDefaults := by
  refine OnlyScheduled.clearGates (OnlyScheduled.foldl ?_ (fun _ _ => setPolicer_onlyScheduled ..) _)
  exact OnlyScheduled.foldl (OnlyScheduled.refl s) (fun _ _ => setQueue_onlyScheduled ..) _

/-- The TC7 shapers are queue settings (R292). -/
theorem reshape_onlyScheduled (s : State) : OnlyScheduled s s.reshape :=
  (OnlyScheduled.refl s).foldl (fun _ _ => setQueue_onlyScheduled ..) _

/-! ### QOS_PROFILE (R132, R139, R141) -/

/-- `t` is `s` but for the settings of QOS_PROFILE: its own parameters, the division of the buffer, and what `OnlyScheduled` allows.
Casks, accounts and what is drawn from the shared pool stay. -/
def OnlyProfiled (s t : State) : Prop :=
  t = { s with sw := { s.sw with
    queues := t.sw.queues, policers := t.sw.policers, gates := t.sw.gates, profile := t.sw.profile, ageing := t.sw.ageing
    lees := t.sw.lees, proportion := t.sw.proportion, limits := t.sw.limits, aiShift := t.sw.aiShift, pools := t.sw.pools
    newPools := t.sw.newPools } }

theorem OnlyProfiled.charges {s t : State} (h : OnlyProfiled s t) :
    t.sw.casks = s.sw.casks ∧ t.sw.accounts = s.sw.accounts ∧ t.sw.shared = s.sw.shared := by
  rw [h]
  exact ⟨rfl, rfl, rfl⟩

theorem OnlyProfiled.trans {s t u : State} (h : OnlyProfiled s t) (k : OnlyProfiled t u) : OnlyProfiled s u := by
  unfold OnlyProfiled at *
  rw [k, h]

theorem OnlyScheduled.onlyProfiled {s t : State} (h : OnlyScheduled s t) : OnlyProfiled s t := by
  unfold OnlyScheduled at h
  unfold OnlyProfiled
  rw [h]

/-- QOS_PROFILE and its defaults change settings alone (R31, R141). -/
theorem effQosProfile_onlyProfiled (s : State) (p : QosProfileP) : OnlyProfiled s (s.effQosProfile p) := by
  refine (qosDefaults_onlyScheduled s).onlyProfiled.trans ?_
  unfold effQosProfile
  refine OnlyProfiled.trans ?_ (reshape_onlyScheduled _).onlyProfiled
  exact iteInduction (motive := OnlyProfiled _) (fun _ => rfl) fun _ => rfl

/-- G and C are those of the command, in units of 4 KiB (R139). -/
theorem effQosProfile_limits (s : State) (p : QosProfileP) :
    (s.effQosProfile p).sw.limits = p.account.map fun e => (e.1.toNat, e.2.toNat) := by
  unfold effQosProfile
  exact (reshape_onlyScheduled _).limits.trans
    (iteInduction (motive := fun t : State => t.sw.limits = _) (fun _ => rfl) fun _ => rfl)

theorem acctLimits_of_limits (s : State) (l : List (BitVec 16 × BitVec 16)) (a : Nat)
    (hl : s.sw.limits = l.map fun e => (e.1.toNat, e.2.toNat)) :
    s.acctLimits a = (let e := l.getD (if a < 2048 then 0 else a - 2047) (0, 0)
      (e.1.toNat * 4096, e.2.toNat * 4096)) := by
  unfold acctLimits
  generalize (if a < 2048 then 0 else a - 2047) = k
  have hget : s.sw.limits.getD k (0, 0) = ((l.getD k (0, 0)).1.toNat, (l.getD k (0, 0)).2.toNat) := by
    rw [hl]
    exact List.getD_map l (0, 0) fun e => (e.1.toNat, e.2.toNat)
  rw [hget]

/-- A QOS_PROFILE that applies has its effect in the step itself, and a reply (R306). -/
theorem exec_qosProfile_of_applies (h : SpHdr) (p : QosProfileP) (s : State) (ha : Applies s (cmdQosProfile h p s)) :
    ∃ t, exec (.qosProfile h p) s = .next t ∧ OnlyReplied (s.effQosProfile p) t := by
  have hrun := run_applies s (.qosProfile h p) (cmdQosProfile h p s) ha rfl
  have hreply := complete_only h ((cmdQosProfile h p s).eff s) rfl
  refine ⟨s.run (.qosProfile h p) (cmdQosProfile h p s), rfl, ?_⟩
  rw [hrun]
  exact hreply

/-! ### The test of admission (R136, R140) -/

/-- A cask is answered when it is the one found and both conditions of R140 hold of it. -/
theorem admitTest_eq_cask_iff (s : State) (a b c : Nat) :
    s.admitTest a b = .cask c ↔ s.findCask b = some c ∧
      (s.account a).used + caskSize (caskPool c) ≤ (s.acctLimits a).2 ∧
      ((s.sw.shared + s.drawnPart a (caskSize (caskPool c)) : Nat) : Int) ≤ s.sharedPool := by
  unfold admitTest
  cases s.findCask b with
  | none => simp
  | some k =>
    dsimp only
    split
    · next hover =>
      refine iff_of_false nofun ?_
      rintro ⟨⟨⟩, hceiling, -⟩
      omega
    · next hunder =>
      split
      · next hfull =>
        refine iff_of_false nofun ?_
        rintro ⟨⟨⟩, -, hshared⟩
        omega
      · next hroom =>
        constructor
        · rintro ⟨⟩
          exact ⟨rfl, Nat.le_of_not_lt hunder, Int.not_lt.mp hroom⟩
        · rintro ⟨⟨⟩, -, -⟩
          rfl

end State

/-- Settles O17: QOS_PROFILE replaces the limits and leaves the charges, and `admitTest` reads the limits of the state it runs in. -/
theorem accountLimitsChangeAtOnce : Obligations.AccountLimitsChangeAtOnce := by
  unfold Obligations.AccountLimitsChangeAtOnce
  refine ⟨fun h p s ha => ?_, fun a b c s hc => ?_, fun a b c s hover hc => ?_⟩
  · obtain ⟨t, hexec, hreply⟩ := State.exec_qosProfile_of_applies h p s ha
    obtain ⟨hcasks, haccounts, hshared⟩ := (State.effQosProfile_onlyProfiled s p).charges
    have hsw : t.sw = { (s.effQosProfile p).sw with originWait := t.sw.originWait } := by rw [hreply]
    refine ⟨t, hexec, ?_, ?_, ?_, fun a => ?_⟩
    · rw [hsw, hcasks]
    · rw [hsw, haccounts]
    · rw [hsw, hshared]
    · exact State.acctLimits_of_limits t p.account a ((congrArg Switch.limits hsw).trans (State.effQosProfile_limits s p))
  · obtain ⟨-, hceiling, hshared⟩ := (State.admitTest_eq_cask_iff s a b c).mp hc
    exact ⟨hceiling, hshared⟩
  · obtain ⟨-, hceiling, -⟩ := (State.admitTest_eq_cask_iff s a b c).mp hc
    omega

end Sys2Proof.Machine
end

section
/-!
PROOFS. Collectives: the FORMAT codes, and COLL_OPEN with another code (R174). A form check comes before every check of another
kind (R315), so what is needed of COLL_OPEN is that its form checks all refuse as malformed and that the one of a segment fails.
-/

open Sys2Proof Sys2Proof.Machine

namespace Sys2Proof.Machine

/-! ### Refusals as malformed (R315) -/

/-- Whatever this check finds is malformed: its status is 0x01xx. -/
def OnlyMalformed (o : Option Fail) : Prop := ∀ f ∈ o, f.status / 256 = 1

/-- The first failure of these checks is there and is malformed. -/
def FirstMalformed (l : List (Option Fail)) : Prop := ∃ f, firstFail l = some f ∧ f.status / 256 = 1

@[simp] theorem chk_isSome (bad : Bool) (status detail retry : Nat) : (chk bad status detail retry).isSome = bad := by
  cases bad <;> rfl

@[simp] theorem onlyMalformed_chk (bad : Bool) (status detail retry : Nat) (h : status / 256 = 1) :
    OnlyMalformed (chk bad status detail retry) := by
  cases bad with
  | false => nofun
  | true =>
    rintro _ ⟨⟩
    exact h

theorem FirstMalformed.head {o : Option Fail} (l : List (Option Fail)) (ho : OnlyMalformed o) (hfails : o.isSome) :
    FirstMalformed (o :: l) := by
  obtain ⟨f, rfl⟩ := Option.isSome_iff_exists.mp hfails
  exact ⟨f, rfl, ho f rfl⟩

theorem FirstMalformed.cons {o : Option Fail} {l : List (Option Fail)} (ho : OnlyMalformed o) (hl : FirstMalformed l) :
    FirstMalformed (o :: l) := by
  cases o with
  | none => exact hl
  | some f => exact .head l ho rfl

/-- Checks that find only what is malformed, one of which fails. -/
theorem firstMalformed_of_isSome {l : List (Option Fail)} (hl : ∀ o ∈ l, OnlyMalformed o) (hfails : ∃ o ∈ l, o.isSome) :
    FirstMalformed l := by
  induction l with
  | nil => exact absurd hfails (by simp)
  | cons o l ih =>
    obtain ⟨ho, hrest⟩ := List.forall_mem_cons.mp hl
    obtain ⟨x, hx, hsome⟩ := hfails
    rcases List.mem_cons.mp hx with rfl | hx
    · exact .head l ho hsome
    · exact .cons ho (ih hrest ⟨x, hx, hsome⟩)

theorem onlyMalformed_firstFail {l : List (Option Fail)} (hl : ∀ o ∈ l, OnlyMalformed o) : OnlyMalformed (firstFail l) := by
  induction l with
  | nil => nofun
  | cons o l ih =>
    obtain ⟨ho, hrest⟩ := List.forall_mem_cons.mp hl
    cases o with
    | none => exact ih hrest
    | some f => exact ho

theorem FirstMalformed.isSome {l : List (Option Fail)} (h : FirstMalformed l) : (firstFail l).isSome := by
  obtain ⟨f, hf, -⟩ := h
  exact Option.isSome_of_eq_some hf

/-- A list of checks may stand as one check of a longer list. -/
theorem FirstMalformed.nested {l : List (Option Fail)} (r : List (Option Fail)) (h : FirstMalformed l) :
    FirstMalformed (firstFail l :: r) := by
  obtain ⟨f, hf, hstatus⟩ := h
  exact ⟨f, by rw [hf, firstFail], hstatus⟩

namespace State

theorem hdrCheck_onlyMalformed (h : SpHdr) : OnlyMalformed (hdrCheck h) := onlyMalformed_firstFail (by simp)

/-- The form checks of a command stand behind the common ones of the header and the length alone, which are malformed too (R315). -/
theorem failure_malformed_of_form (s : State) (h : SpHdr) (c : CmdSpec) (k : Checks) (hform : FirstMalformed k.form) :
    ∃ f, s.failure h c k = some f ∧ f.status / 256 = 1 := by
  unfold failure
  exact FirstMalformed.cons (hdrCheck_onlyMalformed h) <| .cons (by simp) <| .cons (by simp) <| .cons (by simp) <|
    .cons (by simp) <| .cons (by simp) <| hform.nested _

/-- A command that is served here is refused as malformed when its form checks are. -/
theorem run_malformed_of_form (s : State) (i : Instr) (c : Cmd) (hserving : s.serving c.hdr = true)
    (hwait : s.mustWait c.hdr = false) (hhere : c.hdr.src < 4 → s.otherTarget c.hdr = none)
    (hform : FirstMalformed c.checks.form) : ∃ f : Fail, s.run i c = s.refuse c.hdr f ∧ f.status / 256 = 1 := by
  obtain ⟨f, hfailure, hstatus⟩ := s.failure_malformed_of_form c.hdr c.spec c.checks hform
  exact ⟨f, run_refused s i c f hserving hwait hhere hfailure, hstatus⟩

end State

/-! ### The form of COLL_OPEN (R173, R174, R318) -/

theorem segForm_onlyMalformed (o : Nat × Nat × Nat × Nat) (g : SegP) : OnlyMalformed (segForm o g) :=
  onlyMalformed_firstFail (by simp)

/-- A segment whose FORMAT is none of R174's fails its check, whatever its operator. -/
theorem segForm_isSome_of_format (o : Nat × Nat × Nat × Nat) (g : SegP) (hformat : formatOk g.format.toNat = false) :
    (segForm o g).isSome :=
  (firstMalformed_of_isSome (by simp) (by simp [hformat])).isSome

theorem segForms_onlyMalformed (offs : SegP × Nat → Nat × Nat × Nat × Nat) (gs : List SegP) :
    ∀ o ∈ gs.zipIdx.map fun e => segForm (offs e) e.1, OnlyMalformed o := by
  intro o ho
  obtain ⟨e, -, rfl⟩ := List.mem_map.mp ho
  exact segForm_onlyMalformed _ _

theorem segForms_firstMalformed (offs : SegP × Nat → Nat × Nat × Nat × Nat) (gs : List SegP)
    (hformat : ∃ g ∈ gs, formatOk g.format.toNat = false) :
    FirstMalformed (gs.zipIdx.map fun e => segForm (offs e) e.1) := by
  obtain ⟨g, hg, hf⟩ := hformat
  obtain ⟨i, hi, rfl⟩ := List.mem_iff_getElem.mp hg
  refine firstMalformed_of_isSome (segForms_onlyMalformed offs gs) ⟨_, List.mem_map_of_mem (a := (gs[i], i)) ?_, ?_⟩
  · simp [List.mem_zipIdx_iff_getElem?]
  · exact segForm_isSome_of_format _ _ hf

/-- The segments are checked behind the key, the sub-cube and the receivers, whose checks find only what is malformed. -/
theorem collForm_firstMalformed_of_format (s : State) (h : SpHdr) (p : CollP) (c : Contract)
    (hformat : ∃ g ∈ c.segs, formatOk g.format.toNat = false) : FirstMalformed (collForm s h p c) := by
  unfold collForm
  exact .cons (by simp) <| .cons (by simp) <| .cons (by simp) <| .cons (by simp) <| .cons (by simp) <|
    (segForms_firstMalformed _ c.segs hformat).nested _

/-- Both forms of COLL_OPEN refuse a segment with another FORMAT (R174). -/
theorem run_cmdColl_malformed_of_format (i : Instr) (h : SpHdr) (op : Nat) (p : CollP) (s : State)
    (hserving : s.serving h = true) (hwait : s.mustWait h = false) (hhere : h.src < 4 → s.otherTarget h = none)
    (hformat : ∃ g ∈ segsOf p, formatOk g.format.toNat = false) :
    ∃ f : Fail, s.run i (cmdColl h op p s) = s.refuse h f ∧ f.status / 256 = 1 :=
  s.run_malformed_of_form i (cmdColl h op p s) hserving hwait hhere
    (collForm_firstMalformed_of_format s h p (s.contractOf h p) hformat)

/-- The basic opcode has one segment, with the FORMAT of the block (R318). -/
theorem segsOf_basicPar (p : CollP) :
    segsOf (basicPar p) = [{ op := p.op, format := p.format, acc := false, count := p.count }] := rfl

/-! ### The FORMAT codes (R174) -/

theorem fmtLg_iff (f : Nat) : fmtLg f = true ↔ f ∈ [1, 2, 3] := by simp [fmtLg, or_assoc]

theorem fmtIeee_iff (f : Nat) : fmtIeee f = true ↔ f ∈ [0x10, 0x11, 0x12, 0x13] := by
  simp only [fmtIeee, Bool.and_eq_true, decide_eq_true_eq, List.mem_cons, List.not_mem_nil, or_false]
  omega

theorem fmtInt_iff (f : Nat) : fmtInt f = true ↔ f ∈ [0x20, 0x21, 0x22, 0x23, 0x28, 0x29, 0x2A, 0x2B] := by
  simp only [fmtInt, Bool.or_eq_true, Bool.and_eq_true, decide_eq_true_eq, List.mem_cons, List.not_mem_nil, or_false]
  omega

theorem fmtAcc_iff (f : Nat) : fmtAcc f = true ↔ f ∈ [0x30, 0x31] := by simp [fmtAcc]

theorem formatOk_iff (f : Nat) :
    formatOk f = true ↔
      f ∈ [0x01, 0x02, 0x03, 0x10, 0x11, 0x12, 0x13, 0x20, 0x21, 0x22, 0x23, 0x28, 0x29, 0x2A, 0x2B, 0x30, 0x31] := by
  simp only [formatOk, Bool.or_eq_true, fmtLg_iff, fmtIeee_iff, fmtInt_iff, fmtAcc_iff, ← List.mem_append]
  rfl

/-- Settles O22: the codes are those of the four kinds of format, and a segment's FORMAT is checked among the form checks, which come
before every check that is not of form. -/
theorem otherFormatCodesAreMalformed : Obligations.OtherFormatCodesAreMalformed := by
  unfold Obligations.OtherFormatCodesAreMalformed
  refine ⟨formatOk_iff, rfl, rfl, rfl, rfl, fun f => ⟨fmtLg_iff f, fmtIeee_iff f, fmtInt_iff f, fmtAcc_iff f⟩,
    fun h p s hserving hwait hhere => ⟨fun hformat => ?basic, fun hformat => ?expert⟩⟩
  case basic =>
    have hsegs : ∃ g ∈ segsOf (basicPar p), formatOk g.format.toNat = false := by
      rw [segsOf_basicPar]
      exact ⟨_, List.mem_singleton_self _, hformat⟩
    obtain ⟨f, hrun, hstatus⟩ :=
      run_cmdColl_malformed_of_format (.collOpen h p) h 0x0501 (basicPar p) s hserving hwait hhere hsegs
    exact ⟨f, congrArg Host.Outcome.next hrun, hstatus⟩
  case expert =>
    obtain ⟨f, hrun, hstatus⟩ :=
      run_cmdColl_malformed_of_format (.collOpenExpert h p) h 0x0581 p s hserving hwait hhere hformat
    exact ⟨f, congrArg Host.Outcome.next hrun, hstatus⟩

end Sys2Proof.Machine
end

section
/-!
PROOFS. The fault block: severities change alone, and a source acts at the next 0 to 1 of its sticky bit (R339, R347-R350, R353).

That an assertion leaves its own bit set rests on `StickyKept`: whatever an assertion brings about (records, traces, quiesce, the
containment of a unit, the move of a vat's contract and the assertions inside it) clears no sticky bit.
-/

open Sys2Proof Sys2Proof.Machine

namespace Sys2Proof.Machine
namespace State

/-! ### Changes of severities alone (R339, R348) -/

/-- `t` is `s` but for severities. -/
def OnlySeverities (s t : State) : Prop := t = { s with faults := { s.faults with sev := t.faults.sev } }

theorem OnlySeverities.refl (s : State) : OnlySeverities s s := rfl

theorem OnlySeverities.trans {s t u : State} (h : OnlySeverities s t) (k : OnlySeverities t u) : OnlySeverities s u := by
  unfold OnlySeverities at *
  rw [k, h]

theorem OnlySeverities.foldl {α : Type} {f : State → α → State} (hf : ∀ u e, OnlySeverities u (f u e)) (s : State)
    (l : List α) : OnlySeverities s (l.foldl f s) :=
  List.foldlRecOn l f (.refl s) fun u hu e _ => hu.trans (hf u e)

theorem setSev_onlySeverities (s : State) (i v : Nat) : OnlySeverities s (s.setSev i v) := by
  unfold setSev
  split
  · exact .refl s
  · exact iteInduction (motive := OnlySeverities s) (fun _ => .refl s) fun _ => rfl

theorem effFaultCfg_onlySeverities (s : State) (first : Nat) (sev : List (BitVec 8)) :
    OnlySeverities s (s.effFaultCfg first sev) :=
  .foldl (fun _ _ => setSev_onlySeverities ..) s _

/-- The severity registers stand at 0x21000, four sources in each (R339). -/
theorem write32_severity (s : State) (reg v : Nat) (hreg : reg < 512) :
    s.write32 (0x21000 + 4 * reg) v =
      (List.range 4).foldl (fun s m => s.setSev (4 * reg + m) (bits v (8 * m + 2) (8 * m))) s := by
  unfold write32
  simp (disch := omega) only [if_pos, if_neg, Nat.add_sub_cancel_left]

/-- A write of a severity register changes severities alone. -/
theorem exec_faultSevWrite_onlySeverities (reg : Fin 512) (v : BitVec 32) (s : State) (hup : s.pcieUp = true) :
    ∃ t, exec (.faultSevWrite reg v) s = .next t ∧ OnlySeverities s t := by
  refine ⟨_, rfl, ?_⟩
  rw [if_pos hup, write32_severity s reg.val v.toNat reg.isLt]
  exact .foldl (fun _ _ => setSev_onlySeverities ..) s _

/-- FAULT_CFG that applies changes severities and is answered (R306, R348). -/
theorem exec_faultCfg_of_applies (h : SpHdr) (first count : BitVec 16) (sev : List (BitVec 8)) (s : State)
    (ha : Applies s (cmdFaultCfg h first count sev s)) :
    ∃ t, exec (.faultCfg h first count sev) s = .next t ∧ OnlyReplied (s.effFaultCfg first.toNat sev) t := by
  have hrun := run_applies s (.faultCfg h first count sev) (cmdFaultCfg h first count sev s) ha rfl
  refine ⟨s.run (.faultCfg h first count sev) (cmdFaultCfg h first count sev s), rfl, ?_⟩
  rw [hrun]
  exact complete_only h ((cmdFaultCfg h first count sev s).eff s) rfl

/-! ### What leaves the fault block as it is -/

theorem foldl_faults {α : Type} {f : State → α → State} (hf : ∀ u e, (f u e).faults = u.faults) (s : State) (l : List α) :
    (l.foldl f s).faults = s.faults :=
  List.foldlRecOn l f (motive := fun t => t.faults = s.faults) rfl fun u hu e _ => (hf u e).trans hu

theorem ite_faults {p : Prop} [Decidable p] {s t u : State} (ht : t.faults = s.faults) (hu : u.faults = s.faults) :
    (if p then t else u).faults = s.faults := by
  split
  · exact ht
  · exact hu

@[simp] theorem logEvent_faults (s : State) (e : EvRec) : (s.logEvent e).faults = s.faults := by
  have h := logEvent_only s e
  unfold OnlyLogged at h
  rw [h]

@[simp] theorem originateMany_faults (s : State) (on : List Nat) (p : Packet) : (s.originateMany on p).faults = s.faults := by
  cases on <;> rfl

@[simp] theorem sendEvent_faults (s : State) (h : SpHdr) (m : SpMsg) : (s.sendEvent h m).faults = s.faults := by
  have hreply := sendEvent_onlyReplied s h m
  unfold OnlyReplied at hreply
  rw [hreply]

@[simp] theorem creditCask_faults (s : State) (c : Nat) : (s.creditCask c).faults = s.faults := by
  unfold creditCask
  exact ite_faults rfl rfl

@[simp] theorem freeCask_faults (s : State) (c : Nat) : (s.freeCask c).faults = s.faults := by
  unfold freeCask
  exact ite_faults rfl ((setCask_faults ..).trans (creditCask_faults ..))

@[simp] theorem releaseRef_faults (s : State) (c : Nat) : (s.releaseRef c).faults = s.faults := by
  unfold releaseRef
  exact ite_faults rfl (ite_faults (freeCask_faults ..) (setCask_faults ..))

@[simp] theorem markUpdate_faults (s : State) (i v unit : Nat) : (s.markUpdate i v unit).faults = s.faults := by
  unfold markUpdate
  dsimp only
  refine ite_faults (ite_faults ?_ rfl) (ite_faults rfl rfl)
  exact (msix_faults ..).trans (logEvent_faults ..)

@[simp] theorem poolMark_faults (s : State) (k : Nat) : (s.poolMark k).faults = s.faults := by
  unfold poolMark
  exact ite_faults (markUpdate_faults ..) ((markUpdate_faults ..).trans (markUpdate_faults ..))

/-! ### Links and launches leave it too (R90, R230) -/

@[simp] theorem loseEnds_faults (es : List (Nat × Nat)) (s : State) : (s.loseEnds es).faults = s.faults := by
  induction es generalizing s with
  | nil => rfl
  | cons e es ih =>
    unfold loseEnds
    exact (ih _).trans (ite_faults rfl (ite_faults rfl rfl))

@[simp] theorem lackCheck_faults (s : State) (q : Nat) : (s.lackCheck q).faults = s.faults := rfl

@[simp] theorem dropLink_faults (s : State) (l : Nat) (st : LinkState) : (s.dropLink l st).faults = s.faults := by
  unfold dropLink
  refine (foldl_faults (fun _ _ => lackCheck_faults ..) _ _).trans ?_
  simp

@[simp] theorem spoil_faults (p : Nat) (rs : List (Nat × Nat)) (s : State) : (s.spoil p rs).faults = s.faults := by
  induction rs generalizing s with
  | nil => rfl
  | cons r rs ih =>
    unfold spoil
    exact (ih _).trans (ite_faults rfl (ite_faults rfl rfl))

@[simp] theorem abandonStream_faults (s : State) (p e : Nat) : (s.abandonStream p e).faults = s.faults := by
  simp [abandonStream]

@[simp] theorem stopContext_faults (s : State) (p c : Nat) (st : CtxState) : (s.stopContext p c st).faults = s.faults := by
  unfold stopContext
  refine ite_faults rfl ?_
  change (if (s.pr p).cur = c then (List.range 4).foldl (fun s e => s.abandonStream p e) s else s).faults = s.faults
  exact ite_faults (foldl_faults (fun _ _ => abandonStream_faults ..) _ _) rfl

@[simp] theorem bookRecord_faults (s : State) (p c status : Nat) (d : List Byte) :
    (s.bookRecord p c status d).faults = s.faults := by
  unfold bookRecord
  exact ite_faults rfl rfl

@[simp] theorem closeGid_faults (s : State) (g : Nat) : (s.closeGid g).faults = s.faults := rfl

@[simp] theorem stopLaunch_faults (s : State) (p c : Nat) (f : Bool) : (s.stopLaunch p c f).faults = s.faults := by
  unfold stopLaunch
  refine ite_faults rfl <| (closeGid_faults ..).trans ?_
  exact (foldl_faults (fun _ _ => stopContext_faults ..) _ _).trans (bookRecord_faults ..)

@[simp] theorem launchNotice_faults (s : State) (x : Ctx) (status : Nat) : (s.launchNotice x status).faults = s.faults := by
  unfold launchNotice
  split <;> simp

@[simp] theorem faultPress_faults (s : State) (p : Nat) : (s.faultPress p).faults = s.faults :=
  foldl_faults (fun _ _ => ite_faults ((launchNotice_faults ..).trans (stopLaunch_faults ..)) rfl) s _

@[simp] theorem stopPress_faults (s : State) (p : Nat) : (s.stopPress p).faults = s.faults :=
  foldl_faults (fun _ _ => stopLaunch_faults ..) s _

@[simp] theorem floodDisc_faults (s : State) (p : Nat) (m : DiscMsg) : (s.floodDisc p m).faults = s.faults :=
  originateMany_faults ..

/-- Quiesce, once the launches have stopped: HOLE on the dimension ports, and the dimensions held (R352). -/
def quiesceDims (s : State) : State :=
  let s := { s with ctl := { s.ctl with quiesced := true } }
  let s := s.floodDisc 64 { s.discMsg 0x04 with subject := BitVec.ofNat 26 (s.fab.fna.getD 0) }
  (List.range 18).foldl (fun s d => s.setDim d { s.dim d with held := true }) s

theorem quiesceDims_faults (s : State) : s.quiesceDims.faults = s.faults :=
  (foldl_faults (fun _ _ => setDim_faults ..) _ _).trans (floodDisc_faults ..)

theorem quiesce_eq (s : State) :
    s.quiesce = if s.ctl.quiesced then s else
      let t := ((List.range 64).foldl stopPress s).quiesceDims
      { t with aon := { t.aon with coolDuty := 1000 } } := rfl

/-- Quiesce leaves the fault block as it is (R352). -/
@[simp] theorem quiesce_faults (s : State) : s.quiesce.faults = s.faults := by
  rw [quiesce_eq]
  refine ite_faults rfl <| (setAon_faults ((List.range 64).foldl stopPress s).quiesceDims _).trans ?_
  rw [quiesceDims_faults, foldl_faults stopPress_faults]

/-! ### Sticky bits that stay set (R347) -/

/-- Every sticky bit that is set in `s` is set in `t`. -/
def StickyKept (s t : State) : Prop := ∀ j, look false s.faults.sticky j = true → look false t.faults.sticky j = true

theorem StickyKept.refl (s : State) : StickyKept s s := fun _ => id

theorem StickyKept.trans {s t u : State} (h : StickyKept s t) (k : StickyKept t u) : StickyKept s u := fun j => k j ∘ h j

theorem StickyKept.of_faults {s t : State} (h : t.faults = s.faults) : StickyKept s t := fun j hj => by rwa [h]

theorem StickyKept.ite {p : Prop} [Decidable p] {s t u : State} (ht : StickyKept s t) (hu : StickyKept s u) :
    StickyKept s (if p then t else u) :=
  iteInduction (fun _ => ht) fun _ => hu

theorem StickyKept.foldl {α : Type} {f : State → α → State} (hf : ∀ u e, StickyKept u (f u e)) (s : State) (l : List α) :
    StickyKept s (l.foldl f s) :=
  List.foldlRecOn l f (.refl s) fun u hu e _ => hu.trans (hf u e)

/-- `s` with the sticky bit of source `i` set, without any action. -/
def setSticky (s : State) (i : Nat) : State := { s with faults := { s.faults with sticky := put false s.faults.sticky i true } }

theorem sticky_setSticky_self (s : State) (i : Nat) : look false (s.setSticky i).faults.sticky i = true := by
  simp [setSticky]

theorem setSticky_stickyKept (s : State) (i : Nat) : StickyKept s (s.setSticky i) := by
  intro j hj
  by_cases hij : j = i
  · exact hij ▸ sticky_setSticky_self s i
  · exact (look_put_of_ne false s.faults.sticky true hij).trans hj

/-! ### What an assertion changes before quiesce and containment (R348, R421) -/

/-- `t` is `s` with sticky bits set, and but for telemetry and what has been sent. -/
def OnlyTraced (s t : State) : Prop :=
  t = { s with faults := { s.faults with sticky := t.faults.sticky }, tele := t.tele, out := t.out } ∧ StickyKept s t

theorem OnlyTraced.refl (s : State) : OnlyTraced s s := ⟨rfl, .refl s⟩

theorem OnlyTraced.trans {s t u : State} (h : OnlyTraced s t) (k : OnlyTraced t u) : OnlyTraced s u := by
  obtain ⟨hst, hkept⟩ := h
  obtain ⟨htu, hkept'⟩ := k
  exact ⟨by rw [htu, hst], hkept.trans hkept'⟩

theorem OnlyTraced.ite {p : Prop} [Decidable p] {s t u : State} (ht : OnlyTraced s t) (hu : OnlyTraced s u) :
    OnlyTraced s (if p then t else u) :=
  iteInduction (fun _ => ht) fun _ => hu

theorem OnlyTraced.foldl {α : Type} {f : State → α → State} (hf : ∀ u e, OnlyTraced u (f u e)) (s : State) (l : List α) :
    OnlyTraced s (l.foldl f s) :=
  List.foldlRecOn l f (.refl s) fun u hu e _ => hu.trans (hf u e)

theorem logEvent_onlyTraced (s : State) (e : EvRec) : OnlyTraced s (s.logEvent e) := by
  refine ⟨?_, .of_faults (logEvent_faults s e)⟩
  have h := logEvent_only s e
  unfold OnlyLogged at h
  rw [h]

theorem emit_onlyTraced (s : State) (o : Out) : OnlyTraced s (s.emit o) := ⟨rfl, .of_faults rfl⟩

theorem setSticky_onlyTraced (s : State) (i : Nat) : OnlyTraced s (s.setSticky i) := ⟨rfl, setSticky_stickyKept s i⟩

/-- The record and the interrupt of source `i` at severity `v` (R348). -/
def reportFault (s : State) (i v : Nat) : State :=
  let s := if 1 ≤ v then s.logEvent { code := 0x01, severity := v, source := i } else s
  if 2 ≤ v && bit s.ctl.gctl.toNat 1 then s.msix 4 else s

theorem reportFault_onlyTraced (s : State) (i v : Nat) : OnlyTraced s (s.reportFault i v) := by
  have hrecord : OnlyTraced s (if 1 ≤ v then s.logEvent { code := 0x01, severity := v, source := i } else s) :=
    .ite (logEvent_onlyTraced ..) (.refl s)
  exact .ite (hrecord.trans (emit_onlyTraced ..)) hrecord

/-- A freeze of the traces, before it reports itself: its record, and the frozen buffers sent out (R421). -/
def freezeTraces (s : State) : State :=
  let s := { s with tele := { s.tele with frozen := true, releaseArmed := false } }
  let s := s.logEvent { code := 0x44, severity := 1, source := 0x68E, detail := [s.tele.traceCtl.toNat % 64] }
  (members 6 s.tele.traceCtl.toNat).foldl (fun s c => s.emit (.traceExport c)) s

theorem freezeTraces_onlyTraced (s : State) : OnlyTraced s s.freezeTraces := by
  have hfrozen : OnlyTraced s { s with tele := { s.tele with frozen := true, releaseArmed := false } } :=
    ⟨rfl, .of_faults rfl⟩
  exact (hfrozen.trans (logEvent_onlyTraced ..)).trans (.foldl (fun _ _ => emit_onlyTraced ..) _ _)

theorem traceFreeze_eq (s : State) :
    s.traceFreeze =
      if !bit s.tele.traceCtl.toNat 8 || s.tele.frozen then s
      else if look false s.freezeTraces.faults.sticky 0x68E then s.freezeTraces
      else (s.freezeTraces.setSticky 0x68E).reportFault 0x68E ((s.freezeTraces.setSticky 0x68E).severity 0x68E) := rfl

theorem traceFreeze_onlyTraced (s : State) : OnlyTraced s s.traceFreeze := by
  rw [traceFreeze_eq]
  exact .ite (.refl s) <| .ite (freezeTraces_onlyTraced s) <|
    (freezeTraces_onlyTraced s).trans <| (setSticky_onlyTraced ..).trans (reportFault_onlyTraced ..)

/-! ### Assertions (R347-R350) -/

/-- A reserved source, or one whose sticky bit is set, does nothing (R346, R353). -/
def Silent (s : State) (i : Nat) : Prop := faultDefault i = none ∨ look false s.faults.sticky i = true

theorem silent_iff_guard (s : State) (i : Nat) :
    s.Silent i ↔ (decide (faultDefault i = none) || look false s.faults.sticky i) = true := by
  simp [Silent]

theorem assertPlain_of_silent {s : State} {i : Nat} (h : s.Silent i) : s.assertPlain i = s :=
  if_pos ((silent_iff_guard s i).mp h)

theorem assertWith_of_silent (contain : State → FUnit → State) {s : State} {i : Nat} (u : FUnit) (h : s.Silent i) :
    assertWith contain s i u = s :=
  if_pos ((silent_iff_guard s i).mp h)

/-- On the change from 0 to 1 the bit is set, then the actions of the severity follow; quiesce is that of severity 5 (R348). -/
theorem assertPlain_of_not_silent {s : State} {i : Nat} (h : ¬ s.Silent i) :
    ∃ t, OnlyTraced (s.setSticky i) t ∧ s.assertPlain i = if s.severity i = 5 then t.quiesce else t := by
  have hreport := reportFault_onlyTraced (s.setSticky i) i (s.severity i)
  refine ⟨_, .ite (p := 3 ≤ s.severity i) (hreport.trans (traceFreeze_onlyTraced _)) hreport, ?_⟩
  unfold assertPlain
  rw [if_neg (mt (silent_iff_guard s i).mpr h)]
  rfl

theorem assertPlain_setSticky_kept {s : State} {i : Nat} (h : ¬ s.Silent i) : StickyKept (s.setSticky i) (s.assertPlain i) := by
  obtain ⟨t, ⟨-, hkept⟩, heq⟩ := assertPlain_of_not_silent h
  rw [heq]
  exact .ite (hkept.trans (.of_faults (quiesce_faults t))) hkept

theorem assertPlain_stickyKept (s : State) (i : Nat) : StickyKept s (s.assertPlain i) := by
  by_cases h : s.Silent i
  · rw [assertPlain_of_silent h]
    exact .refl s
  · exact (setSticky_stickyKept s i).trans (assertPlain_setSticky_kept h)

theorem sticky_assertPlain_self {s : State} {i : Nat} (h : ¬ s.Silent i) :
    look false (s.assertPlain i).faults.sticky i = true :=
  assertPlain_setSticky_kept h i (sticky_setSticky_self s i)

/-- Short of quiesce, which is severity 5, no clock and no record of resets is touched, so R350 counts as before. -/
theorem recentResets_assertPlain (s : State) (i : Nat) (u : FUnit) (h : s.severity i ≠ 5) :
    (s.assertPlain i).recentResets u = s.recentResets u := by
  by_cases hs : s.Silent i
  · rw [assertPlain_of_silent hs]
  · obtain ⟨t, ⟨ht, -⟩, heq⟩ := assertPlain_of_not_silent hs
    rw [heq, if_neg h, ht]
    rfl

/-- Containment of a unit by a source: the unit is fenced, and held by the source (R349). -/
def containBy (contain : State → FUnit → State) (s : State) (i : Nat) (u : FUnit) : State :=
  let s := contain s u
  { s with faults := { s.faults with contained := s.faults.contained ++ [(i, u)] }, adm := { s.adm with rerun := true } }

/-- The unit is fenced, or the control complex pauses, and CC4 is asked for the unit's reset (R350, R366). -/
def resetBy (contain : State → FUnit → State) (s : State) (i : Nat) (u : FUnit) : State :=
  let s := match u with
    | .core _ => s.pauseControl
    | u => contain s u
  { s with faults := { s.faults with resetDue := s.faults.resetDue ++ [(i, u)],
                                      resetTimes := (u, s.mono) :: s.faults.resetTimes },
           adm := { s.adm with rerun := true } }

/-- What follows the plain assertion of a source, by its severity: nothing, containment, or a reset asked for (R348-R350). -/
theorem assertWith_of_not_silent (contain : State → FUnit → State) {s : State} {i : Nat} (u : FUnit) (h : ¬ s.Silent i) :
    assertWith contain s i u =
      (let v := s.severity i
       let t := s.assertPlain i
       if u = .none || v < 3 || v = 5 then t
       else if v = 3 then (t.containBy contain i u).logEvent { code := 0x22, severity := v, source := i, detail := [i] }
       else if 2 ≤ t.recentResets u then
         ((t.containBy contain i u).logEvent { code := 0x22, severity := v, source := i, detail := [i] }).assertPlain 0x6C8
       else t.resetBy contain i u) := by
  unfold assertWith
  rw [if_neg (mt (silent_iff_guard s i).mpr h)]
  rfl

/-- `contain` clears no sticky bit. -/
def KeepsSticky (contain : State → FUnit → State) : Prop := ∀ s u, StickyKept s (contain s u)

theorem KeepsSticky.containBy {contain : State → FUnit → State} (h : KeepsSticky contain) (s : State) (i : Nat) (u : FUnit) :
    StickyKept s (s.containBy contain i u) := h s u

theorem KeepsSticky.resetBy {contain : State → FUnit → State} (h : KeepsSticky contain) (s : State) (i : Nat) (u : FUnit) :
    StickyKept s (s.resetBy contain i u) := by
  cases u with
  | core _ => exact .refl s
  | _ => exact h s _

/-- The actions that follow the plain assertion of a source clear no sticky bit. -/
theorem KeepsSticky.assertWith_after {contain : State → FUnit → State} (h : KeepsSticky contain) (s : State) (i : Nat)
    (u : FUnit) : StickyKept (s.assertPlain i) (assertWith contain s i u) := by
  by_cases hs : s.Silent i
  · rw [assertPlain_of_silent hs, assertWith_of_silent contain u hs]
    exact .refl s
  · rw [assertWith_of_not_silent contain u hs]
    have hcontained := fun e => (h.containBy (s.assertPlain i) i u).trans (.of_faults (logEvent_faults _ e))
    exact .ite (.refl _) <| .ite (hcontained _) <| .ite ((hcontained _).trans (assertPlain_stickyKept _ _)) <|
      h.resetBy _ i u

theorem KeepsSticky.assertWith {contain : State → FUnit → State} (h : KeepsSticky contain) (s : State) (i : Nat)
    (u : FUnit) : StickyKept s (assertWith contain s i u) :=
  (assertPlain_stickyKept s i).trans (h.assertWith_after s i u)

/-! ### Containment (R349, R351) -/

theorem containPlain_keepsSticky : KeepsSticky containPlain := by
  intro s u
  cases u with
  | none => exact .refl s
  | vat v => exact .refl s
  | port p =>
    exact .of_faults ((foldl_faults (fun _ _ => dropLink_faults ..) _ _).trans (setPort_faults ..))
  | cask c =>
    refine .of_faults (ite_faults rfl ((poolMark_faults ..).trans ?_))
    exact ite_faults (creditCask_faults ..) rfl
  | press n => exact .of_faults ((setPr_faults ..).trans (faultPress_faults ..))
  | core _ => exact .of_faults (quiesce_faults s)
  | pool k => exact .of_faults rfl
  | dim d => exact .of_faults rfl
  | epPort p => exact .of_faults rfl
  | requester n id => exact .of_faults rfl
  | stave n => exact .of_faults rfl
  | syncEngine => exact fun _ => id
  | tier k => exact fun _ => id

theorem decRef_stickyKept (s : State) (c : Nat) : StickyKept s (s.decRef c) :=
  .ite (containPlain_keepsSticky.assertWith _ _ _) (.of_faults ((poolMark_faults ..).trans (releaseRef_faults ..)))

theorem moveContract_stickyKept (s : State) (v : Nat) : StickyKept s (s.moveContract v) := by
  unfold moveContract
  split
  · exact .refl s
  · split
    · exact .refl s
    · extract_lets discarded pinned vat left lost again kept cel retained rounds free target moved vats ordered placed replayed
      have hleft : StickyKept s left := .trans (.foldl decRef_stickyKept s _) (.of_faults (setVat_faults ..))
      have hmoved : moved.faults = left.faults := (setContract_faults retained _ _).trans (markUpdate_faults ..)
      have hplaced : placed.faults = ordered.faults := by
        unfold placed
        generalize target = vacant
        cases vacant with
        | some w => exact setVat_faults ..
        | none => rfl
      have hreplayed : StickyKept s replayed :=
        hleft.trans <| .trans (.of_faults (hplaced.trans hmoved)) (assertPlain_stickyKept placed _)
      refine .ite ?failed (.ite ?pinned hreplayed)
      case failed => exact hleft.trans <| .trans (.of_faults (setContract_faults ..)) (assertPlain_stickyKept _ _)
      case pinned => exact hreplayed.trans <| .trans (.of_faults (logEvent_faults ..)) (assertPlain_stickyKept _ _)

theorem containUnit_keepsSticky : KeepsSticky containUnit := by
  intro s u
  cases u with
  | vat v =>
    change StickyKept s ((s.setVat v { s.vat v with contained := true }).moveContract v)
    exact .trans (.of_faults (setVat_faults ..)) (moveContract_stickyKept _ v)
  | _ =>
    simp only [containUnit]
    exact containPlain_keepsSticky s _

/-! ### A source whose sticky bit is clear (R348-R350, R353) -/

theorem sticky_assertIn_self {s : State} {i : Nat} (u : FUnit) (h : ¬ s.Silent i) :
    look false (s.assertIn i u).faults.sticky i = true :=
  containUnit_keepsSticky.assertWith_after s i u i (sticky_assertPlain_self h)

/-- Severities 0 to 2 neither contain nor ask for a reset. -/
theorem assertIn_mild_faults (s : State) (i : Nat) (u : FUnit) (h : Mild s i) :
    (s.assertIn i u).faults.contained = s.faults.contained ∧ (s.assertIn i u).faults.resetDue = s.faults.resetDue := by
  have honly := assertIn_only s i u h
  unfold OnlyAsserted at honly
  rw [honly]
  exact ⟨rfl, rfl⟩

/-- Severity 3 contains the unit (R349). -/
theorem mem_contained_assertIn {s : State} {i : Nat} {u : FUnit} (h : ¬ s.Silent i) (hu : u ≠ .none) (hv : s.severity i = 3) :
    (i, u) ∈ (s.assertIn i u).faults.contained := by
  unfold assertIn
  rw [assertWith_of_not_silent containUnit u h]
  simp [hu, hv, containBy]

/-- Severity 4 asks for the reset of a unit that was not reset twice in the last 10 s (R350). -/
theorem mem_resetDue_assertIn {s : State} {i : Nat} {u : FUnit} (h : ¬ s.Silent i) (hu : u ≠ .none) (hv : s.severity i = 4)
    (hresets : s.recentResets u < 2) : (i, u) ∈ (s.assertIn i u).faults.resetDue := by
  have hcount : (s.assertPlain i).recentResets u = s.recentResets u := recentResets_assertPlain s i u (by omega)
  unfold assertIn
  rw [assertWith_of_not_silent containUnit u h]
  simp [hu, hv, hcount, Nat.not_le.mpr hresets, resetBy]

end State

/-- Settles O8: severity writes and FAULT_CFG change severities alone, a set bit silences its source, and a clear one is set and
stays set while the source acts by the severity that it has at that moment. -/
theorem severityActsAtTheNextAssertion : Obligations.SeverityActsAtTheNextAssertion := by
  unfold Obligations.SeverityActsAtTheNextAssertion
  refine ⟨State.exec_faultSevWrite_onlySeverities, fun h first count sev s ha => ?config,
    fun i u s hset => s.assertIn_set i u hset, fun i u s hsource hclear hu => ?clear⟩
  case config =>
    obtain ⟨t, hexec, hreply⟩ := State.exec_faultCfg_of_applies h first count sev s ha
    have honly := State.effFaultCfg_onlySeverities s first.toNat sev
    have hfaults : t.faults = (s.effFaultCfg first.toNat sev).faults := by rw [hreply]
    refine ⟨t, hexec, ?_⟩
    rw [hfaults, ← honly]
    exact hreply
  case clear =>
    have hacts : ¬ s.Silent i := by simp [State.Silent, hsource, hclear]
    exact ⟨State.sticky_assertIn_self u hacts, s.assertIn_mild_faults i u, State.mem_contained_assertIn hacts hu,
      State.mem_resetDue_assertIn hacts hu⟩

end Sys2Proof.Machine
end
